-- ==== Sys2Proof/Word.lean ====
section
/-! DEFINITION. The word types of the VZ-418: bytes of frames and pixels, 16-bit rolling numbers and saturating
counters, the 32-bit timestamps of R22, the 48-bit Ethernet addresses of R181. Counts, distances, times and paces that the manual only adds, compares and divides are `Nat`. -/

namespace Sys2Proof

/-- A byte of a frame, or one pixel. -/
abbrev Byte := BitVec 8

/-- A 16-bit number: sequences, generations, record numbers, tags, condition sets, counters. -/
abbrev Half := BitVec 16

/-- A value of the 32-bit Timestamp Counter, in µs (R22). -/
abbrev Stamp := BitVec 32

/-- A 48-bit Ethernet address (R181, R202). -/
abbrev Mac := BitVec 48

/-- A capture id (R83). -/
abbrev CaptureId := BitVec 8

end Sys2Proof
end

