-- ==== Sys2Proof/Syntax.lean ====
section
/-! DEFINITION. The commands of the block: one constructor per row of spec/opcode_table.json, with the row's
operands. Events that happen at a moment of their own carry `after`, the time in ns since the command before
them (DESIGN CHOICE, safe: log entry 1); the recorder's commands, the grants and the power-on event happen at the moment of the
event before them and carry none. The recorder's commands carry no operand: their tag and their parameters are
the bytes of the command frame at the head of the command queue (R184, R185, log entry 4). -/

namespace Sys2Proof

/-- The two tracks. -/
inductive Track where
  | t1 | t2
  deriving DecidableEq, Repr

/-- The two stations of a track, one on each side of the gantry (R21). -/
inductive Station where
  | a | b
  deriving DecidableEq, Repr

/-- The commands: wheel detector edges, the part's own timed events, frames and links at the camera ports and
the uplink, grants and ends of records, the recorder's commands, and the resets. -/
inductive Instr where
  /-- POWER_ON (R3). -/
  | powerOn
  /-- RSTN_RESET (R205): RSTN has been low for `lowNs` ns. -/
  | rstnReset (after lowNs : Nat)
  /-- LEADING_EDGE (R23). -/
  | leadingEdge (after : Nat) (line : Fin 8)
  /-- TRAILING_EDGE (R23). -/
  | trailingEdge (after : Nat) (line : Fin 8)
  /-- PULSE_ACCEPTED (R23). -/
  | pulseAccepted (after : Nat) (line : Fin 8)
  /-- PAIR_TIMEOUT (R29). -/
  | pairTimeout (after : Nat) (track : Track) (station : Station)
  /-- STALE_EXPIRY (R51). -/
  | staleExpiry (after : Nat) (track : Track)
  /-- QUIET_DEADLINE (R59). -/
  | quietDeadline (after : Nat) (track : Track)
  /-- SETTLE_EXPIRY (R42). -/
  | settleExpiry (after : Nat) (track : Track)
  /-- TRIGGER (R70). -/
  | trigger (after : Nat) (channel : Fin 4)
  /-- ROW_TIMEOUT (R96). -/
  | rowTimeout (after : Nat) (camera : Fin 4)
  /-- ROW_FRAME (R97, R98, R201): a forward-lane frame ends. `fresh` says that the frame began after the link's
  last change to UP and after the last reset (R91, R107); `frame` is all its bytes, start code first. -/
  | rowFrame (after : Nat) (camera : Fin 4) (fresh : Bool) (frame : List Byte)
  /-- CAMERA_NOTE (R105, R201): a forward-lane frame of start code C3h ends. Operands as `rowFrame`. -/
  | cameraNote (after : Nat) (camera : Fin 4) (fresh : Bool) (frame : List Byte)
  /-- CAMERA_LINK_UP (R91): good alignment has been held without a break for `heldNs` ns. -/
  | cameraLinkUp (after : Nat) (camera : Fin 4) (heldNs : Nat)
  /-- CAMERA_LINK_DOWN (R92): loss of alignment or a coding error. `inReception` says that a frame the port
  takes was in reception. -/
  | cameraLinkDown (after : Nat) (camera : Fin 4) (inReception : Bool)
  /-- PASS_THROUGH_SEND (R94). -/
  | passThroughSend (camera : Fin 4)
  /-- MESSAGE_SENT (R94). -/
  | messageSent (after : Nat) (camera : Fin 4)
  /-- UPLINK_LINK_UP (R182): the link has been held established for `heldNs` ns. -/
  | uplinkLinkUp (after heldNs : Nat)
  /-- UPLINK_LINK_DOWN (R182). `inReception` says that a frame the port takes was in reception. -/
  | uplinkLinkDown (after : Nat) (inReception : Bool)
  /-- FRAME_RECEIVED (R183, R202): a whole uplink frame, from its destination address to its frame check.
  `fresh` says that it began after the link's last change to UP and after the last reset (R182, R192). -/
  | frameReceived (after : Nat) (fresh : Bool) (frame : List Byte)
  /-- RECORD_GRANT (R193). -/
  | recordGrant
  /-- RECORD_END (R193). -/
  | recordEnd (after : Nat)
  /-- STATUS (R190). -/
  | status
  /-- TABLE_READ (R20). -/
  | tableRead
  /-- STAGE_LOAD (R12). -/
  | stageLoad
  /-- STAGE_PATCH (R13). -/
  | stagePatch
  /-- COMMIT_ENABLE (R15). -/
  | commitEnable
  /-- COMMIT_DISABLE (R15). -/
  | commitDisable
  /-- COMMIT (R16). -/
  | commit
  /-- TRACK_CONTROL_ENABLE (R39). -/
  | trackControlEnable
  /-- TRACK_CONTROL_DISABLE (R40). -/
  | trackControlDisable
  /-- ABANDON (R41). -/
  | abandon
  /-- DRAIN_ON (R188). -/
  | drainOn
  /-- DRAIN_OFF (R188). -/
  | drainOff
  /-- CLEAR_STATS (R189). -/
  | clearStats
  /-- CLEAR_CONDITIONS (R153). -/
  | clearConditions
  /-- CAMERA_PASS (R104). -/
  | cameraPass
  /-- RESET (R191). -/
  | reset
  /-- UNKNOWN_COMMAND (R187). -/
  | unknownCommand
  /-- RSTN_RELEASE (R22). -/
  | rstnRelease (after : Nat)
  deriving DecidableEq, Repr

end Sys2Proof
end

