-- ==== Sys2Proof/Decode.lean ====
section
/-! DEFINITION. The command a word spells by the table's bits. No row of spec/opcode_table.json gives its
command any bits (every row's "fields" is empty and none has a pattern), so no word spells a command. The
decoding the part itself does, of frames and of command parameters, is in Machine/Operands.lean and
Machine/Tables.lean. -/

namespace Sys2Proof

/-- No row of the table gives bits: no word spells a command. -/
def decodeTableWord (_nbits _w : Nat) : Option Instr := none

end Sys2Proof
end

