-- ==== Sys2Proof/Config.lean ====
section
/-! DEFINITION. What the manual leaves to the part. Three choices: whether an RSTN pulse shorter than 1 µs has no effect
or acts as a full reset (R205), the order of the condition closes of one moment (R103, R151, R155, R168), and which of the
records that arrive together is granted first (R194). They have no body, so no proof can rest on an answer. -/

namespace Sys2Proof

/-- R205: whether the n-th RSTN low pulse shorter than 1 µs acts as a full RSTN reset (DESIGN CHOICE, safe: log entry 3). The
argument is the model's own count of free choices, so that each pulse has its own answer. -/
opaque Config.shortPulseResets : Nat → Bool

/-- R103, R151, R155, R168, R194: the rank of an item among those of one moment, which are taken in rising rank (DESIGN
CHOICE, safe: log entries 17 and 19). The second argument is the item: a camera by its number where a track's channels
stop, a capture by its id where entries of one port are resolved, a class of record by its number at a grant. The first is
the model's own count of free choices, so that each such moment has its own order. -/
opaque Config.freeRank : Nat → Nat → Nat

end Sys2Proof
end

