-- ==== Sys2Proof/Machine/State.lean ====
section
/-! DEFINITION. The state of the VZ-418, block by block as the manual cuts it (chapter 0, block overview), the
machine after power-on, and the reasons a step can stop. State is plain data; every field cites the rule that
gives it. These fields are the model's own: `subUs` (the time within the present microsecond), `freeIndex` (how
many free choices the part has made, log entries 3, 17 and 19), `uplink.mayLead` (the records that arrived together, log
entry 19), `pending` (the queue of commands), and the `elapsed` and `idle` times
that say how far an interval, a transmission or an idle word has come. -/

namespace Sys2Proof.Machine

/-! ### The tables (chapter 1) -/

/-- Camera role (R5). -/
inductive Role where
  | image | profile
  deriving DecidableEq, Repr

/-- The four tables (R1). -/
inductive TableId where
  | site | consist | headClass | blankMap
  deriving DecidableEq, Repr

/-- A site track entry (R4). Distances in mm, pace in ns/mm, times in ms. -/
structure SiteTrack where
  valid : Bool
  spacingA : Nat
  spacingB : Nat
  defaultPace : Nat
  paceHold : Nat
  quiet : Nat
  settle : Nat
  deriving DecidableEq, Repr

/-- A site camera entry (R5). -/
structure SiteCamera where
  track : Option Track
  role : Role
  aDistance : Nat
  bDistance : Nat
  pitch : Nat
  periodMin : Nat
  periodMax : Nat
  slope : Nat
  kept : Byte
  rowLimit : Nat
  rowTimeout : Nat
  repairLimit : Nat
  deriving DecidableEq, Repr

/-- A pantograph entry of a profile (R7). -/
structure Panto where
  offset : Nat
  headClass : Fin 16
  deriving DecidableEq, Repr

/-- A consist profile (R7). An empty signature stands for an absent one: a signature that is present has 2 to 8
spacings. -/
structure Profile where
  code : Half
  signature : List Nat
  tolerance : Option Nat
  expectedAxles : Option Nat
  pantos : List Panto
  deriving DecidableEq, Repr

/-- A head class (R9). Thicknesses in 0.01 mm units, margins in mm. -/
structure HeadClass where
  nominal : Nat
  wearLimit : Nat
  stepLimit : Nat
  windowBefore : Nat
  windowAfter : Nat
  referenceThreshold : Nat
  stripThreshold : Nat
  minGap : Nat
  minValid : Nat
  firstCell : Nat
  lastCell : Nat
  alertMask : Half
  deriving DecidableEq, Repr

/-- A blank run (R11). -/
structure BlankRun where
  firstCell : Nat
  lastCell : Nat
  pattern : Byte
  deriving DecidableEq, Repr

/-- A blank map camera entry (R11). -/
structure BlankEntry where
  fill : Byte
  runs : List BlankRun
  deriving DecidableEq, Repr

/-- One image of each table (R1). `none` is EMPTY. -/
structure Images where
  siteTracks : Vector (Option SiteTrack) 2
  siteCameras : Vector (Option SiteCamera) 4
  consist : Vector (Option Profile) 32
  headClasses : Vector (Option HeadClass) 16
  blankMap : Vector (Option BlankEntry) 4
  deriving DecidableEq, Repr

/-- The Table Store (R1). Generations and loaded flags stand in the order site, consist, head class, blank map. -/
structure Tables where
  active : Images
  staging : Images
  generation : Vector Half 4
  loaded : Vector Bool 4
  latch : Bool
  deriving DecidableEq, Repr

/-! ### The Axle Detection Unit (chapter 2) -/

/-- An acceptance stage (R23, R24). `waitRest` takes no leading edge until its line has been seen at rest;
`qualifying` holds the leading-edge time and the time since it, in ns; `accepted` waits for the trailing edge. -/
inductive Stage where
  | waitRest
  | ready
  | qualifying (lead : Stamp) (elapsed : Nat)
  | accepted
  deriving DecidableEq, Repr

/-- A wheel detector line (R21, R23): the level of its pin and its acceptance stage. -/
structure Line where
  active : Bool
  stage : Stage
  deriving DecidableEq, Repr

/-- The two detectors of a station (R21). -/
inductive Detector where
  | outer | inner
  deriving DecidableEq, Repr

/-- The waiting pulse of a pairing record that is not CLEAR (R25): OUTER-SEEN or INNER-SEEN by `seen`. -/
structure Wait where
  seen : Detector
  first : Stamp
  spacing : Nat
  deadline : Stamp
  deriving DecidableEq, Repr

/-! ### The Passage Tracker (chapter 3) -/

/-- Direction of a passage (R44). -/
inductive Direction where
  | ab | ba
  deriving DecidableEq, Repr

/-- Match state (R52 to R54, R60). -/
inductive MatchState where
  | seeking | matched | fallback | undecided
  deriving DecidableEq, Repr

/-- An axle list entry (R45). -/
structure Axle where
  time : Stamp
  pace : Option Nat
  spacing : Option Nat
  unpaired : Bool
  clamped : Bool
  deriving DecidableEq, Repr

/-- A candidate profile with its total deviation so far (R52). -/
structure Candidate where
  index : Fin 32
  deviation : Nat
  deriving DecidableEq, Repr

/-- Why a window was dropped (R57). -/
inductive DropReason where
  | missed | noSlot | reversal | ended
  deriving DecidableEq, Repr

/-- The outcome of a planned window (R45, R57). -/
inductive PlanOutcome where
  | pending
  | opened (capture : CaptureId)
  | dropped (reason : DropReason)
  deriving DecidableEq, Repr

/-- A window plan entry (R45). -/
structure PlanEntry where
  camera : Fin 4
  panto : Nat
  outcome : PlanOutcome
  deriving DecidableEq, Repr

/-- A passage context (R45). -/
structure Passage where
  number : Half
  direction : Direction
  start : Stamp
  inCount : Nat
  outCount : Nat
  axles : List Axle
  paces : List Nat
  pace : Nat
  stale : Bool
  staleDeadline : Stamp
  quietDeadline : Stamp
  consistGen : Half
  matching : MatchState
  candidates : List Candidate
  spacingsTaken : Nat
  profile : Option (Fin 32 × Half)
  reversed : Bool
  unpairedSeen : Bool
  paceClamp : Bool
  axleOverflow : Bool
  plan : List PlanEntry
  deriving DecidableEq, Repr

/-- A track state with what it holds (R38): only ACTIVE holds a passage, only SETTLING a settle deadline. -/
inductive TrackState where
  | off
  | idle
  | active (passage : Passage)
  | settling (deadline : Stamp)
  deriving DecidableEq, Repr

/-- A track with its stray axle counter (R38, R43). -/
structure TrackRec where
  state : TrackState
  stray : Half
  deriving DecidableEq, Repr

/-! ### The Trigger and Window Unit (chapter 4) -/

/-- A PENDING window of a channel (R76). -/
structure Window where
  panto : Nat
  headClass : Fin 16
  openPoint : Nat
  closePoint : Nat
  late : Bool
  unmatched : Bool
  deriving DecidableEq, Repr

/-- The OPEN window of a channel (R76): its capture, the triggers tagged so far, the row limit copied at open. -/
structure OpenWindow where
  window : Window
  capture : CaptureId
  tagged : Nat
  rowLimit : Nat
  deriving DecidableEq, Repr

/-- Whether a channel issues triggers (R64): RUNNING holds its track, HELD, the period in force in ns with its
off-pitch mark, and how much of the interval in progress has passed, in ns. -/
inductive Run where
  | stopped
  | running (track : Track) (held : Bool) (period : Nat) (offPitch : Bool) (elapsed : Nat)
  deriving DecidableEq, Repr

/-- A trigger channel (R64). The window list is `windows` (PENDING, in handover order) followed by `openWindow`. -/
structure Channel where
  run : Run
  travel : Nat
  carry : Nat
  sequence : Half
  windows : List Window
  openWindow : Option OpenWindow
  deriving DecidableEq, Repr

/-! ### The camera ports (chapter 5) -/

/-- An entry of an outstanding trigger list (R95). -/
structure Entry where
  sequence : Half
  capture : Option CaptureId
  travel : Nat
  issue : Stamp
  expiry : Stamp
  deriving DecidableEq, Repr

/-- What a return lane is sending (R94, R201). -/
inductive LaneItem where
  | token (sequence : Half)
  | message (bytes : List Byte)
  deriving DecidableEq, Repr

/-- A return lane (R94, R201): the item being sent and for how long, in ns; the tokens that wait behind it; and how much
of one idle word the lane has carried since the last frame, in ns, up to the whole word. -/
structure ReturnLane where
  item : Option LaneItem
  elapsed : Nat
  waiting : List Half
  idle : Nat
  deriving DecidableEq, Repr

/-- A camera port (R90). -/
structure Port where
  up : Bool
  outstanding : List Entry
  passQueue : List (List Byte)
  lane : ReturnLane
  strayRows : Half
  failedFrames : Half
  missingRows : Half
  noteDrops : Half
  deriving DecidableEq, Repr

/-! ### The Row Conditioner (chapter 6) -/

/-- A conditioning record in use (R108). The blank column set is one flag per column. -/
structure CondRecord where
  capture : CaptureId
  camera : Fin 4
  role : Role
  kept : Byte
  fill : Byte
  blank : List Bool
  blankGen : Half
  fillRow : List Byte
  hasWorkSet : Bool
  deriving DecidableEq, Repr

/-! ### The Strip Profiler (chapter 7) -/

/-- A column entry (R127): SEEKING-REFERENCE, SEEKING-STRIP with the reference edge, FOUND with both. -/
inductive Column where
  | seekReference
  | seekStrip (row travel : Nat)
  | found (row travel strip : Nat)
  deriving DecidableEq, Repr

/-- A held working set (R120). -/
structure WorkSet where
  capture : CaptureId
  slot : Fin 32
  firstCell : Nat
  lastCell : Nat
  referenceThreshold : Nat
  stripThreshold : Nat
  minGap : Nat
  minValid : Nat
  nominal : Nat
  wearLimit : Nat
  stepLimit : Nat
  slope : Nat
  blank : List Bool
  columns : List Column
  deriving DecidableEq, Repr

/-- One item of a cell list (R130 to R132, R139). -/
inductive Cell where
  | present (value : Nat)
  | blanked
  | sparse
  | saturated
  deriving DecidableEq, Repr

/-- A present capture result (R134 to R138). -/
structure WearResult where
  minimum : Nat
  cell : Nat
  mean : Nat
  wear : Nat
  steps : Nat
  deriving DecidableEq, Repr

/-- A result record (R139, R141). -/
structure ResultRecord where
  result : Option WearResult
  cells : Option (List Cell)
  marks : Half
  deriving DecidableEq, Repr

/-! ### The Frame Store Controller (chapter 9) -/

/-- A row position's contents (R160): the row tag and the 2,048 pixels. -/
structure StoredRow where
  sequence : Half
  rowIndex : Nat
  repaired : Bool
  pixels : List Byte
  deriving DecidableEq, Repr

/-- The frame store (R160): row position `p` of segment `g` is the key `64 * g + p`, 0 to 32,767. Keys strictly
rise; a key that is not listed has never been written and reads as nothing (DESIGN CHOICE, safe: log entry 10). -/
abbrev Memory := List (Nat × StoredRow)

/-- Capture states (R165). A discarded or sent capture leaves its slot free. -/
inductive CaptureState where
  | opened | closing | complete | sending
  deriving DecidableEq, Repr

/-- Close reasons (R164). -/
inductive CloseReason where
  | none | cut | limit | short
  deriving DecidableEq, Repr

/-- A capture descriptor (R164), with the working set the capture holds (R84, R120). -/
structure Capture where
  id : CaptureId
  state : CaptureState
  camera : Fin 4
  track : Track
  passage : Half
  panto : Nat
  headClass : Fin 16
  profile : Fin 32
  code : Half
  consistGen : Half
  headGen : Half
  blankGen : Half
  openPoint : Nat
  closePoint : Nat
  firstSequence : Half
  role : Role
  slope : Nat
  kept : Byte
  rowLimit : Nat
  repairLimit : Nat
  head : HeadClass
  blank : BlankEntry
  tagged : Nat
  close : CloseReason
  received : Nat
  repaired : Nat
  omitted : Nat
  repairRun : Nat
  stored : Nat
  chain : List Nat
  conditions : Half
  openTime : Stamp
  doneTime : Option Stamp
  result : Option WearResult
  cells : Option (List Cell)
  workSet : Option (Fin 8)
  deriving DecidableEq, Repr

/-- The record the sender offers next (R171). -/
inductive NextRecord where
  | header
  | block (number : Nat)
  | captureEnd
  deriving DecidableEq, Repr

/-- The sender (R171). -/
structure Sender where
  capture : Option CaptureId
  next : NextRecord
  inTransmission : Bool
  rowsSent : Nat
  deriving DecidableEq, Repr

/-! ### The Uplink Port (chapter 10) -/

/-- Reply statuses (R186). -/
inductive Status where
  | ok | busy | latch | invalid | reference | range | state | full | unknown
  deriving DecidableEq, Repr

/-- A command in the command queue (R183, R184): the source address of its frame, its tag and code, and the
bytes after the code. -/
structure Command where
  source : Mac
  tag : Half
  code : Byte
  params : List Byte
  deriving DecidableEq, Repr

/-- A reply (R186); its body as the bytes of R203. -/
structure Reply where
  tag : Half
  code : Byte
  status : Status
  index : Option Nat
  body : List Byte
  deriving DecidableEq, Repr

/-- An ALERT entry (R156). -/
structure Alert where
  capture : CaptureId
  camera : Fin 4
  track : Track
  passage : Half
  panto : Nat
  profile : Fin 32
  code : Half
  headClass : Fin 16
  headGen : Half
  conditions : Half
  alerted : Half
  doneTime : Stamp
  result : Option WearResult
  deriving DecidableEq, Repr

/-- End reasons of a passage (R62). -/
inductive EndReason where
  | balanced | timeout | abandoned
  deriving DecidableEq, Repr

/-- A passage summary (R62). -/
structure Summary where
  number : Half
  track : Track
  direction : Direction
  start : Stamp
  finish : Stamp
  inCount : Nat
  outCount : Nat
  matching : MatchState
  profile : Option (Fin 32 × Half)
  consistGen : Half
  reason : EndReason
  reversed : Bool
  unpairedSeen : Bool
  paceClamp : Bool
  axleOverflow : Bool
  axleMismatch : Bool
  plan : List PlanEntry
  axles : List Axle
  deriving DecidableEq, Repr

/-- A camera note entry (R105, R197). -/
structure Note where
  camera : Fin 4
  time : Stamp
  bytes : List Byte
  deriving DecidableEq, Repr

/-- The kinds of record in transmission, with what their end needs to know (R174, R191, R193). -/
inductive TxKind where
  | reply (code : Byte)
  | alert
  | summary
  | note
  | header
  | block (rows : Nat)
  | captureEnd
  deriving DecidableEq, Repr

/-- The classes of waiting records, the highest first (R193). -/
inductive TxClass where
  | reply
  | alert
  | summary
  | note
  | capture
  deriving DecidableEq, Repr

/-- A record in transmission (R193): its kind, the bytes of its frame (R202), and for how long it has been
sent, in ns. -/
structure Transmission where
  kind : TxKind
  frame : List Byte
  elapsed : Nat
  deriving DecidableEq, Repr

/-- The Uplink Port (R181). -/
structure Uplink where
  up : Bool
  commands : List Command
  halted : Bool
  replies : List Reply
  alerts : List Alert
  summaries : List Summary
  notes : List Note
  transmitter : Option Transmission
  /-- The classes that arrived together at this moment, any of which may be granted first (R194; the model's own, log entry
  19). -/
  mayLead : List TxClass
  recordNumber : Half
  partner : Mac
  drain : Bool
  cumulative : Half
  alertsLost : Half
  summariesLost : Half
  commandsLost : Half
  foreignFrames : Half
  receiveErrors : Half
  recordsCut : Half
  deriving DecidableEq, Repr

/-! ### The machine -/

/-- The whole part, with the queue of the commands that wait. -/
structure State where
  /-- RSTN is held low (R205). -/
  rstnLow : Bool
  /-- The Timestamp Counter (R22). -/
  time : Stamp
  /-- The time within the present microsecond, in ns (the model's own). -/
  subUs : Nat
  /-- The Table Store (R1). -/
  tables : Tables
  /-- WL0 to WL7 with their acceptance stages (R21, R23). -/
  lines : Vector Line 8
  /-- The pairing records of track 1 A, track 1 B, track 2 A, track 2 B (R25); `none` is CLEAR. -/
  stations : Vector (Option Wait) 4
  /-- Glitch counters (R35). -/
  glitches : Vector Half 8
  /-- Unpaired counters, in the order of `stations` (R35). -/
  unpaired : Vector Half 4
  /-- Track 1 and track 2 (R38). -/
  tracks : Vector TrackRec 2
  /-- The passage number counter (R46). -/
  passageNumber : Half
  /-- CH0 to CH3 (R64). -/
  channels : Vector Channel 4
  /-- The capture id counter (R83). -/
  captureIds : CaptureId
  /-- CP0 to CP3 (R90). -/
  ports : Vector Port 4
  /-- The conditioning records (R108); `none` is free. -/
  condRecords : Vector (Option CondRecord) 32
  /-- The working sets (R120); `none` is free. -/
  workSets : Vector (Option WorkSet) 8
  /-- The captures noted as unprofiled until their completion (R121). -/
  unprofiled : List CaptureId
  /-- The frame store (R160). -/
  store : Memory
  /-- The free list (R161), its head first. -/
  freeList : List Nat
  /-- The capture descriptor table (R163); `none` is free. -/
  slots : Vector (Option Capture) 32
  /-- The delivery queue (R169). -/
  delivery : List CaptureId
  /-- The sender (R171). -/
  sender : Sender
  /-- The Uplink Port (R181). -/
  uplink : Uplink
  /-- How many free choices have been made: at short RSTN pulses (log entry 3), at condition closes of one moment (log
  entry 17) and at grants among records that arrived together (log entry 19). The model's own. -/
  freeIndex : Nat
  /-- The commands that wait, first in, first out (the model's own). -/
  pending : List Instr
  deriving DecidableEq, Repr

/-- Why a step faults. No rule of the manual stops the part: every event and every command has an effect or
leaves the part as it is, so this type has no constructor. -/
inductive Fault where
  deriving DecidableEq, Repr

/-- Why a step is refused. -/
inductive Refusal where
  /-- Raised by `exec` for a command that has no meaning yet. Safe: the machine stops. No arm raises it. -/
  | notModelled (mnemonic : String)
  deriving DecidableEq, Repr

/-! ### The machine after power-on -/

/-- Every entry EMPTY (R3). -/
def Images.empty : Images where
  siteTracks := Vector.replicate 2 none
  siteCameras := Vector.replicate 4 none
  consist := Vector.replicate 32 none
  headClasses := Vector.replicate 16 none
  blankMap := Vector.replicate 4 none

/-- A channel after power-on (R89). -/
def Channel.reset : Channel where
  run := .stopped
  travel := 0
  carry := 0
  sequence := 0
  windows := []
  openWindow := none

/-- A camera port after power-on (R107). Its return lane has carried the 8 ns of an idle word (DESIGN CHOICE, unsafe: log
entry 13). -/
def Port.reset : Port where
  up := false
  outstanding := []
  passQueue := []
  lane := { item := none, elapsed := 0, waiting := [], idle := 8 }
  strayRows := 0
  failedFrames := 0
  missingRows := 0
  noteDrops := 0

/-- The sender after a reset (R171). The next record is read only while a capture is SENDING. -/
def Sender.reset : Sender where
  capture := none
  next := .header
  inTransmission := false
  rowsSent := 0

/-- The Uplink Port after power-on (R192). -/
def Uplink.reset : Uplink where
  up := false
  commands := []
  halted := false
  replies := []
  alerts := []
  summaries := []
  notes := []
  transmitter := none
  mayLead := []
  recordNumber := 0
  partner := BitVec.allOnes 48
  drain := true
  cumulative := 0
  alertsLost := 0
  summariesLost := 0
  commandsLost := 0
  foreignFrames := 0
  receiveErrors := 0
  recordsCut := 0

/-- The machine right after power-on: R3, R22, R24, R25, R35, R38, R46, R63, R83, R89, R107, R118, R144, R158,
R161, R163, R171, R179, R192. RSTN is high and every detector line at rest (DESIGN CHOICE, unsafe: log entry 5); nothing has been
written in the frame store. -/
def State.reset : State where
  rstnLow := false
  time := 0
  subUs := 0
  tables :=
    { active := Images.empty
      staging := Images.empty
      generation := Vector.replicate 4 0
      loaded := Vector.replicate 4 false
      latch := false }
  lines := Vector.replicate 8 { active := false, stage := .waitRest }
  stations := Vector.replicate 4 none
  glitches := Vector.replicate 8 0
  unpaired := Vector.replicate 4 0
  tracks := Vector.replicate 2 { state := .off, stray := 0 }
  passageNumber := 0
  channels := Vector.replicate 4 Channel.reset
  captureIds := 0
  ports := Vector.replicate 4 Port.reset
  condRecords := Vector.replicate 32 none
  workSets := Vector.replicate 8 none
  unprofiled := []
  store := []
  freeList := List.range 512
  slots := Vector.replicate 32 none
  delivery := []
  sender := Sender.reset
  uplink := Uplink.reset
  freeIndex := 0
  pending := []

end Sys2Proof.Machine
end

