-- ==== Sys2Proof/Machine/Ops.lean ====
section
/-! DEFINITION. The shared operations: timestamps and saturating counters, access to the numbered parts of the
state, the passing of time, free orders, the frame store's reads and writes, and the frame every command has (time passes
first; while RSTN is low the part does nothing). -/

namespace Sys2Proof.Machine

/-! ### Timestamps and counters -/

/-- The difference of two timestamps: the later minus the earlier, modulo 4,294,967,296 (R22). -/
def since (later earlier : Stamp) : Nat := (later - earlier).toNat

/-- A timestamp moved on by a number of microseconds, rolling (R22). -/
def later (t : Stamp) (us : Nat) : Stamp := t + BitVec.ofNat 32 us

/-- The Timestamp Counter has reached a deadline: it stands at it, or past it by less than half a roll. Every
interval of the part is well below one roll (R22); that a deadline stays reached once it has passed is the
model's choice (DESIGN CHOICE, safe: log entry 2). -/
def reached (now deadline : Stamp) : Bool := since now deadline < 2147483648

/-- One more on a 16-bit counter that saturates at 65,535 (R35, R43, R106, R198). -/
def bump (c : Half) : Half := if c = BitVec.allOnes 16 then c else c + 1

/-! ### Numbered parts -/

/-- Replace the `i`-th item of a vector by a function of it. -/
def upd {α : Type} {n : Nat} (v : Vector α n) (i : Fin n) (f : α → α) : Vector α n := v.set i (f v[i])

/-- Track 1 and track 2 as positions. -/
def trackIndex : Track → Fin 2
  | .t1 => 0
  | .t2 => 1

/-- The stations in the order of the counters of STATUS: track 1 A, track 1 B, track 2 A, track 2 B (R35). -/
def stationIndex : Track → Station → Fin 4
  | .t1, .a => 0
  | .t1, .b => 1
  | .t2, .a => 2
  | .t2, .b => 3

/-- The tables in the order of STATUS (R203). -/
def tableIndex : TableId → Fin 4
  | .site => 0
  | .consist => 1
  | .headClass => 2
  | .blankMap => 3

/-- The four cameras, by number. -/
def cameras : List (Fin 4) := [0, 1, 2, 3]

namespace State

def modLine (s : State) (i : Fin 8) (f : Line → Line) : State := { s with lines := upd s.lines i f }

def setStation (s : State) (i : Fin 4) (w : Option Wait) : State :=
  { s with stations := upd s.stations i fun _ => w }

def bumpGlitch (s : State) (i : Fin 8) : State := { s with glitches := upd s.glitches i bump }

def bumpUnpaired (s : State) (i : Fin 4) : State := { s with unpaired := upd s.unpaired i bump }

def modTrack (s : State) (t : Track) (f : TrackRec → TrackRec) : State :=
  { s with tracks := upd s.tracks (trackIndex t) f }

def modChannel (s : State) (c : Fin 4) (f : Channel → Channel) : State :=
  { s with channels := upd s.channels c f }

def modPort (s : State) (c : Fin 4) (f : Port → Port) : State := { s with ports := upd s.ports c f }

def setCondRecord (s : State) (k : Fin 32) (r : Option CondRecord) : State :=
  { s with condRecords := upd s.condRecords k fun _ => r }

def setWorkSet (s : State) (k : Fin 8) (w : Option WorkSet) : State :=
  { s with workSets := upd s.workSets k fun _ => w }

def setSlot (s : State) (k : Fin 32) (c : Option Capture) : State :=
  { s with slots := upd s.slots k fun _ => c }

def modUplink (s : State) (f : Uplink → Uplink) : State := { s with uplink := f s.uplink }

def modTables (s : State) (f : Tables → Tables) : State := { s with tables := f s.tables }

/-- The record of a track. -/
def track (s : State) (t : Track) : TrackRec := s.tracks[trackIndex t]

/-- The passage of a track in ACTIVE (R38, R45). -/
def passage? (s : State) (t : Track) : Option Passage :=
  match (s.track t).state with
  | .active p => some p
  | .off | .idle | .settling _ => none

/-- Write the passage context of a track. -/
def setPassage (s : State) (t : Track) (p : Passage) : State :=
  s.modTrack t fun r => { r with state := .active p }

/-- The active site entry of a track, when it is valid (R2). -/
def siteTrack? (s : State) (t : Track) : Option SiteTrack :=
  s.tables.active.siteTracks[trackIndex t].filter (·.valid)

/-- The active site entry of a camera, when it is valid (R2). -/
def siteCamera? (s : State) (c : Fin 4) : Option SiteCamera := s.tables.active.siteCameras[c]

/-- The cameras of a track: those whose active site entry names it (R38), in ascending number. -/
def camerasOf (s : State) (t : Track) : List (Fin 4) :=
  cameras.filter fun c => match s.siteCamera? c with
    | some e => e.track == some t
    | none => false

end State

/-! ### The descriptor table -/

/-- The first position of a vector whose item satisfies a test. -/
def findIndex {α : Type} {n : Nat} (v : Vector α n) (test : α → Bool) : Option (Fin n) :=
  (List.finRange n).find? fun i => test v[i]

/-- The slot of the capture that holds an id; ids of captures in the table are distinct (R83). -/
def State.slotOf (s : State) (id : CaptureId) : Option (Fin 32) :=
  findIndex s.slots fun o => match o with
    | some c => c.id == id
    | none => false

/-- The lowest-numbered free slot (R163). -/
def State.freeSlot (s : State) : Option (Fin 32) := findIndex s.slots fun o => o.isNone

/-- Change the descriptor in a slot, if the slot is occupied. -/
def State.modSlot (s : State) (k : Fin 32) (f : Capture → Capture) : State :=
  { s with slots := upd s.slots k (Option.map f) }

/-! ### The passing of time -/

/-- The time since a pulse's leading edge goes on while it is being qualified (R23). -/
def Line.pass (ns : Nat) (l : Line) : Line :=
  match l.stage with
  | .qualifying lead elapsed => { l with stage := .qualifying lead (elapsed + ns) }
  | .waitRest | .ready | .accepted => l

/-- The interval in progress of a RUNNING channel goes on (R68). -/
def Channel.pass (ns : Nat) (c : Channel) : Channel :=
  match c.run with
  | .stopped => c
  | .running t held period off elapsed => { c with run := .running t held period off (elapsed + ns) }

/-- The time of one word on a return lane, in ns: a byte at 125 Mbyte/s (R201; DEDUCED, unsafe: log entry 13). -/
def wordNs : Nat := 8

/-- The time a token takes on the return lane, in ns: 3 bytes at 125 Mbyte/s (R201; DEDUCED, unsafe: log
entry 13). -/
def tokenNs : Nat := 3 * wordNs

/-- A return lane that has sent nothing for `idle` ns while these tokens wait: each is sent behind one idle word, in
order, as far as the time reaches (R94, R201). That the part sends no more than the one idle word it must is the
model's choice (DESIGN CHOICE, unsafe: log entry 13). -/
def sendWaiting (idle : Nat) (waiting : List Half) : ReturnLane :=
  match waiting with
  | [] => { item := none, elapsed := 0, waiting := [], idle := min idle wordNs }
  | token :: rest =>
    if idle < wordNs then { item := none, elapsed := 0, waiting := token :: rest, idle := idle }
    else if idle - wordNs < tokenNs then
      { item := some (.token token), elapsed := idle - wordNs, waiting := rest, idle := 0 }
    else sendWaiting (idle - wordNs - tokenNs) rest

/-- A return lane that has sent a token for `elapsed` ns: a token that has been sent leaves the lane (R94, R201). -/
def sendToken (elapsed : Nat) (token : Half) (waiting : List Half) : ReturnLane :=
  if elapsed < tokenNs then { item := some (.token token), elapsed := elapsed, waiting := waiting, idle := 0 }
  else sendWaiting (elapsed - tokenNs) waiting

/-- The item or the idle word on a return lane goes on (R94, R201). A message leaves the lane at MESSAGE_SENT. -/
def ReturnLane.pass (ns : Nat) (l : ReturnLane) : ReturnLane :=
  match l.item with
  | none => sendWaiting (l.idle + ns) l.waiting
  | some (.message _) => { l with elapsed := l.elapsed + ns }
  | some (.token t) => sendToken (l.elapsed + ns) t l.waiting

/-- A return lane whose item is cut off: it ends at the break, and the tokens behind it are gone (R92, R107, R201;
DESIGN CHOICE, unsafe: log entry 7). -/
def ReturnLane.cut (l : ReturnLane) : ReturnLane where
  item := none
  elapsed := 0
  waiting := []
  idle := if l.item = none then l.idle else 0

/-- The record in transmission goes on (R193), and the moment at which records arrived together is over (R194). -/
def Uplink.pass (ns : Nat) (u : Uplink) : Uplink :=
  { u with
    transmitter := u.transmitter.map fun t => { t with elapsed := t.elapsed + ns }
    mayLead := if ns = 0 then u.mayLead else [] }

/-- `ns` nanoseconds pass. The Timestamp Counter goes up by 1 each microsecond and is held at 0 while RSTN is
low (R22). -/
def State.pass (s : State) (ns : Nat) : State :=
  if s.rstnLow then s
  else
    { s with
      time := later s.time ((s.subUs + ns) / 1000)
      subUs := (s.subUs + ns) % 1000
      lines := s.lines.map (Line.pass ns)
      channels := s.channels.map (Channel.pass ns)
      ports := s.ports.map fun p => { p with lane := p.lane.pass ns }
      uplink := s.uplink.pass ns }

/-- The period of the 25 MHz clock input, in ns (R22, R68). -/
def clockNs : Nat := 40

/-- The present moment lies on an edge of the 25 MHz clock (DEDUCED, unsafe: log entry 15). -/
def State.onClock (s : State) : Bool := s.subUs % clockNs = 0

/-! ### Orders -/

/-- Put an item into a list, before the first item it goes before. -/
def insertBy {α : Type} (before : α → α → Bool) (x : α) : List α → List α
  | [] => [x]
  | y :: rest => if before x y then x :: y :: rest else y :: insertBy before x rest

/-- A list ordered by inserting its items, the last one first. -/
def orderBy {α : Type} (before : α → α → Bool) : List α → List α
  | [] => []
  | x :: rest => insertBy before x (orderBy before rest)

/-- Items of one moment in a free order (R103, R151, R155, R168, R194; log entries 17 and 19), but for those that must come
before an item behind them. -/
def freeOrder {α : Type} (number : α → Nat) (must : α → α → Bool) (items : List α) (s : State) : List α :=
  orderBy (fun x y => must x y || Config.freeRank s.freeIndex (number x) ≤ Config.freeRank s.freeIndex (number y)) items

/-- The count of free choices goes on where several items stood to choose from: one item or none leaves no choice. -/
def State.chosen (s : State) (items : Nat) : State := { s with freeIndex := s.freeIndex + (items - 1) }

/-- Operations on several items of one moment, taken in a free order. -/
def inFreeOrder {α : Type} (number : α → Nat) (must : α → α → Bool) (items : List α) (f : α → State → State) (s : State) :
    State :=
  (freeOrder number must items s).foldl (fun s x => f x s) (s.chosen items.length)

/-! ### The frame every command has -/

/-- A step's outcome. -/
abbrev Outcome := Host.Outcome State Fault Refusal

/-- An effect at the present moment; while RSTN is low the part is held in reset and does nothing (R205). -/
def atOnce (effect : State → State) (s : State) : Outcome :=
  .next (if s.rstnLow then s else effect s)

/-- An effect after `after` nanoseconds. -/
def timed (after : Nat) (effect : State → State) (s : State) : Outcome := atOnce effect (s.pass after)

/-! ### The frame store -/

/-- Rows of a segment (R160). -/
def rowsPerSegment : Nat := 64

/-- The key of a row position of a segment (R160). -/
def rowKey (segment position : Nat) : Nat := rowsPerSegment * segment + position

/-- The row at a key; nothing where no row has been written (R160). -/
def Memory.read (m : Memory) (key : Nat) : Option StoredRow :=
  match m with
  | [] => none
  | (k, r) :: rest => if k = key then some r else Memory.read rest key

/-- Write a row at a key, keeping the keys strictly rising. -/
def Memory.write (m : Memory) (key : Nat) (row : StoredRow) : Memory :=
  match m with
  | [] => [(key, row)]
  | (k, r) :: rest =>
    if key < k then (key, row) :: (k, r) :: rest
    else if key = k then (key, row) :: rest
    else (k, r) :: Memory.write rest key row

/-- The canonical form: keys strictly rise and lie inside the 512 segments of 64 row positions (R160). -/
def Memory.wf (m : Memory) : Bool :=
  match m with
  | [] => true
  | (k, _) :: rest => decide (k < 32768) && rest.all (fun e => decide (k < e.1)) && Memory.wf rest

end Sys2Proof.Machine
end

