-- ==== Sys2Proof/Machine/Flags.lean ====
section
/-! DEFINITION. The sixteen conditions (chapter 8) and the sets of them: 16-bit words in which condition n is
the bit of weight 2^n (R199). -/

namespace Sys2Proof.Machine

/-- The sixteen conditions, by name. -/
inductive Cond where
  | unmatched | late | cut | short | limit | pitch | repaired | gap | trunc | norows
  | sparse | overMark | sat | nocell | wear | step
  deriving DecidableEq, Repr

/-- The fixed number of a condition (8.1). -/
def condNumber : Cond → Nat
  | .unmatched => 0
  | .late => 1
  | .cut => 2
  | .short => 3
  | .limit => 4
  | .pitch => 5
  | .repaired => 6
  | .gap => 7
  | .trunc => 8
  | .norows => 9
  | .sparse => 10
  | .overMark => 11
  | .sat => 12
  | .nocell => 13
  | .wear => 14
  | .step => 15

/-- The set that holds one condition (R199). -/
def condBit (c : Cond) : Half := BitVec.twoPow 16 (condNumber c)

/-- The empty set, or the set of one condition when the test holds. -/
def condIf (test : Bool) (c : Cond) : Half := if test then condBit c else 0

/-- A condition is in a set. -/
def condHas (set : Half) (c : Cond) : Bool := set.getLsbD (condNumber c)

/-- A condition joins a set; one already present stays (R145). -/
def condAdd (set : Half) (c : Cond) : Half := set ||| condBit c

/-- The condition a close reason raises (R87, R146). -/
def closeCond : CloseReason → Half
  | .none => 0
  | .cut => condBit .cut
  | .limit => condBit .limit
  | .short => condBit .short

end Sys2Proof.Machine
end

