-- ==== Sys2Proof/Machine/Profile.lean ====
section
/-! DEFINITION. The Row Conditioner's rows (chapter 6) and the Strip Profiler (chapter 7): the blank column set,
the stored row and the fill row; the edge search; column thicknesses, cells, and the result of a capture. These
are functions of the values they are given; the blocks that hold the values are in Captures.lean and Rows.lean. -/

namespace Sys2Proof.Machine

/-! ### Blank columns and stored rows (R109 to R115) -/

/-- Cells of a row. -/
def cellCount : Nat := 256

/-- Columns of a cell. -/
def cellColumns : Nat := 8

/-- The blank entry a block sees: a camera whose entry is EMPTY has fill value 0 and no runs (R2, R109). -/
def blankEntry (e : Option BlankEntry) : BlankEntry := e.getD { fill := 0, runs := [] }

/-- A column is blanked by a run: the run's cells hold its cell and the run's pattern its position (R11). -/
def runBlanks (column : Nat) (r : BlankRun) : Bool :=
  r.firstCell ≤ column / 8 && column / 8 ≤ r.lastCell && r.pattern.getLsbD (column % 8)

/-- The blank column set of an entry: one flag for each of the 2,048 columns (R109). -/
def blankColumns (e : BlankEntry) : List Bool :=
  (List.range 2048).map fun column => e.runs.any (runBlanks column)

/-- One stored pixel: the fill value as it stands in a blanked column, the pixel reduced to the kept-bit set in
any other (R111, R112). -/
def storedPixel (kept fill : Byte) (blanked : Bool) (pixel : Byte) : Byte :=
  if blanked then fill else pixel &&& kept

/-- The stored row of a received row (R111, R112). -/
def storedPixels (kept fill : Byte) (blank : List Bool) (pixels : List Byte) : List Byte :=
  List.zipWith (storedPixel kept fill) blank pixels

/-- The fill row of a record: the stored row of a row that holds the fill value in every column (R115). -/
def fillRow (kept fill : Byte) (blank : List Bool) : List Byte :=
  blank.map fun b => storedPixel kept fill b fill

/-! ### The edge search (R124, R125, R127) -/

/-- One column at one row (R124): the reference edge above its threshold, then the strip edge below its own at
row index r + min gap or later. Both comparisons are strict, and a column makes one change at a row. -/
def searchColumn (w : WorkSet) (rowIndex travel : Nat) (blanked : Bool) (pixel : Byte) (c : Column) : Column :=
  if blanked then c
  else match c with
    | .seekReference =>
      if w.referenceThreshold < pixel.toNat then .seekStrip rowIndex travel else .seekReference
    | .seekStrip r tr =>
      if r + w.minGap ≤ rowIndex ∧ pixel.toNat < w.stripThreshold then .found r tr travel else .seekStrip r tr
    | .found r tr ts => .found r tr ts

/-- The search of the band's columns, from the pixels and blank flags of the same columns. -/
def searchColumns (w : WorkSet) (rowIndex travel : Nat) : List Bool → List Byte → List Column → List Column
  | b :: bs, p :: ps, c :: cs =>
    searchColumn w rowIndex travel b p c :: searchColumns w rowIndex travel bs ps cs
  | _, _, cs => cs

/-- A profiled row taken at a working set (R124): columns outside the band are not compared (R125). -/
def searchRow (rowIndex travel : Nat) (pixels : List Byte) (w : WorkSet) : WorkSet :=
  { w with
    columns := searchColumns w rowIndex travel (w.blank.drop (8 * w.firstCell)) (pixels.drop (8 * w.firstCell)) w.columns }

/-! ### Column thickness (R128) -/

/-- A measured column: blanked, invalid, or valid with its thickness and its OVER mark. -/
inductive Measured where
  | blanked
  | invalid
  | valid (thickness : Nat) (ov : Bool)
  deriving DecidableEq, Repr

/-- The thickness of a column (R128), in 0.01 mm units, clamped at 65,535 with the mark OVER. -/
def measureColumn (slope : Nat) (blanked : Bool) (c : Column) : Measured :=
  if blanked then .blanked
  else match c with
    | .seekReference => .invalid
    | .seekStrip _ _ => .invalid
    | .found _ tr ts =>
      let t := (ts - tr) * slope / 10240
      if 65535 < t then .valid 65535 true else .valid t false

/-- What a column adds to its cell: its thickness if it is valid, else 0 (R131). -/
def Measured.amount : Measured → Nat
  | .valid t _ => t
  | .blanked | .invalid => 0

def Measured.isValid : Measured → Bool
  | .valid _ _ => true
  | .blanked | .invalid => false

def Measured.isBlanked : Measured → Bool
  | .blanked => true
  | .valid _ _ | .invalid => false

def Measured.isOver : Measured → Bool
  | .valid _ ov => ov
  | .blanked | .invalid => false

/-! ### Cells (R130 to R133) -/

/-- A saturating addition with its mark (R131): an exact sum above 65,535 gives 65,535 and marks the cell. -/
def satAdd (x y : Nat × Bool) : Nat × Bool :=
  if 65535 < x.1 + y.1 then (65535, true) else (x.1 + y.1, x.2 || y.2)

/-- The fixed tree of three levels: pairs, halves, total (R131). -/
def cellTotal (m : Fin 8 → Nat) : Nat × Bool :=
  let leaf := fun k => ((m k, false) : Nat × Bool)
  satAdd
    (satAdd (satAdd (leaf 0) (leaf 1)) (satAdd (leaf 2) (leaf 3)))
    (satAdd (satAdd (leaf 4) (leaf 5)) (satAdd (leaf 6) (leaf 7)))

/-- One cell of the band (R130 to R132): BLANKED, SPARSE, saturated, or present with total div n. -/
def makeCell (minValid : Nat) (columns : List Measured) : Cell :=
  let u := columns.countP fun m => !m.isBlanked
  let n := columns.countP Measured.isValid
  let total := cellTotal fun k => (columns.getD k .invalid).amount
  if u = 0 then .blanked
  else if n < min u minValid then .sparse
  else if total.2 then .saturated
  else .present (total.1 / n)

/-- A summed cell holds an OVER column (R133): a cell that is SPARSE or BLANKED gives no OVER. -/
def cellOver (minValid : Nat) (columns : List Measured) : Bool :=
  match makeCell minValid columns with
  | .present _ | .saturated => columns.any Measured.isOver
  | .blanked | .sparse => false

/-- Split a run of columns into cells of 8. -/
def inCells {α : Type} : List α → List (List α)
  | a :: b :: c :: d :: e :: f :: g :: h :: rest => [a, b, c, d, e, f, g, h] :: inCells rest
  | _ => []

/-- The measured columns of a working set's band, cell by cell (R128). -/
def measuredCells (w : WorkSet) : List (List Measured) :=
  inCells (List.zipWith (measureColumn w.slope) (w.blank.drop (8 * w.firstCell)) w.columns)

/-- The cell list of the band, first cell to last (R139). -/
def cellList (w : WorkSet) : List Cell := (measuredCells w).map (makeCell w.minValid)

/-! ### The capture result (R134 to R138) -/

/-- The present, unsaturated cells by ascending cell index, with their indices. -/
def presentCells : Nat → List Cell → List (Nat × Nat)
  | _, [] => []
  | i, .present v :: rest => (i, v) :: presentCells (i + 1) rest
  | i, .blanked :: rest => presentCells (i + 1) rest
  | i, .sparse :: rest => presentCells (i + 1) rest
  | i, .saturated :: rest => presentCells (i + 1) rest

/-- The smallest value with the lowest cell index that holds it (R135). -/
def minimumCell : Nat × Nat → List (Nat × Nat) → Nat × Nat
  | best, [] => best
  | best, x :: rest => minimumCell (if x.2 < best.2 then x else best) rest

/-- Adjacent pairs, both present and unsaturated, whose values differ by more than the step limit (R138). -/
def stepPairs (limit : Nat) : List Cell → Nat
  | .present a :: .present b :: rest =>
    (if limit < max a b - min a b then 1 else 0) + stepPairs limit (.present b :: rest)
  | .present _ :: rest => stepPairs limit rest
  | .blanked :: rest => stepPairs limit rest
  | .sparse :: rest => stepPairs limit rest
  | .saturated :: rest => stepPairs limit rest
  | [] => 0

/-- The capture result of a cell list (R134 to R138): none when no cell is present and unsaturated. -/
def captureResult (w : WorkSet) (cells : List Cell) : Option WearResult :=
  match presentCells w.firstCell cells with
  | [] => none
  | first :: rest =>
    let low := minimumCell first rest
    let values := (first :: rest).map Prod.snd
    some
      { minimum := low.2
        cell := low.1
        mean := values.sum / values.length
        wear := w.nominal - low.2
        steps := min 255 (stepPairs w.stepLimit cells) }

/-- The measurement marks of a reduction (R133, R134, R137, R138). -/
def measurementMarks (w : WorkSet) : Half :=
  let cells := cellList w
  let fromCells :=
    condIf (cells.any fun c => c == .sparse) .sparse
      ||| condIf (cells.any fun c => c == .saturated) .sat
      ||| condIf ((measuredCells w).any (cellOver w.minValid)) .overMark
  match captureResult w cells with
  | none => fromCells ||| condBit .nocell
  | some r => fromCells ||| condIf (r.minimum < w.wearLimit) .wear ||| condIf (1 ≤ r.steps) .step

/-- The reduction of a capture in its working set (R139). -/
def reduce (w : WorkSet) : ResultRecord where
  result := captureResult w (cellList w)
  cells := some (cellList w)
  marks := measurementMarks w

/-- The result record of a PROFILE capture that got no working set (R141). -/
def unprofiledResult : ResultRecord where
  result := none
  cells := none
  marks := condBit .nocell

end Sys2Proof.Machine
end

