-- ==== Sys2Proof/Machine/Captures.lean ====
section
/-! DEFINITION. The Frame Store Controller and what joins the Strip Profiler to it (chapters 7 to 9): storing a
row, completing a capture, the condition close with its alert, the delivery queue, and the sender. -/

namespace Sys2Proof.Machine

/-! ### Storing rows (R166, R167) -/

/-- The segment a capture's next row goes to: the head of the free list when its chain has no segment with room,
else its tail segment (R166). -/
def segmentFor (s : State) (c : Capture) : Option Nat :=
  if c.stored % rowsPerSegment = 0 then s.freeList.head? else c.chain.getLast?

/-- The descriptor after a row is written in segment `g` (R166). -/
def Capture.rowWritten (g : Nat) (c : Capture) : Capture :=
  { c with
    stored := c.stored + 1
    chain := if c.stored % rowsPerSegment = 0 then c.chain ++ [g] else c.chain }

/-- A condition joins the set of a capture (R145). -/
def Capture.raise (cond : Cond) (c : Capture) : Capture := { c with conditions := condAdd c.conditions cond }

/-- Store a row of the capture in a slot: at the tail of its chain, or not at all, with TRUNC, when it needs a
segment and the free list is empty (R166, R167). -/
def storeRow (k : Fin 32) (row : StoredRow) (s : State) : State :=
  match s.slots[k] with
  | none => s
  | some c =>
    match segmentFor s c with
    | none => s.modSlot k (Capture.raise .trunc)
    | some g =>
      { s with
        store := s.store.write (rowKey g (c.stored % rowsPerSegment)) row
        freeList := if c.stored % rowsPerSegment = 0 then s.freeList.tail else s.freeList
        slots := upd s.slots k (Option.map (Capture.rowWritten g)) }

/-- The last stored row of a capture: the last row of its chain (R100, R166). -/
def lastStoredRow (s : State) (c : Capture) : Option StoredRow :=
  if c.stored = 0 then none
  else match c.chain.getLast? with
    | none => none
    | some g => s.store.read (rowKey g ((c.stored - 1) % rowsPerSegment))

/-! ### Rows into the profiler -/

/-- A profiled row reaches the working set a capture holds (R114, R124). -/
def profileRow (w : Option (Fin 8)) (rowIndex travel : Nat) (pixels : List Byte) (s : State) : State :=
  match w with
  | none => s
  | some i => { s with workSets := upd s.workSets i (Option.map (searchRow rowIndex travel pixels)) }

/-! ### The sender takes the head (R171) -/

/-- With no capture SENDING, a delivery queue that is not empty and DRAIN ON, the head goes to SENDING (R171). -/
def senderTake (s : State) : State :=
  if s.sender.capture.isNone ∧ s.uplink.drain then
    match s.delivery with
    | [] => s
    | id :: _ =>
      match s.slotOf id with
      | none => s
      | some k =>
        { s.modSlot k (fun c => { c with state := .sending }) with
          sender := { capture := some id, next := .header, inTransmission := false, rowsSent := 0 } }
  else s

/-! ### The condition close (R148 to R157, R168) -/

/-- The result record handed for a capture at its completion: none for an IMAGE capture, the reduction of its
working set, or NOCELL alone without one (R139 to R141). -/
def resultRecord (s : State) (c : Capture) : Option ResultRecord :=
  match c.role with
  | .image => none
  | .profile =>
    match c.workSet.bind fun w => s.workSets[w] with
    | none => some unprofiledResult
    | some w => some (reduce w)

/-- NOROWS: no row was received and none was stored (R149). -/
def noRows (c : Capture) : Bool := c.received == 0 && c.stored == 0

/-- The measurement conditions that join a set at the condition close (R150). -/
def closeMarks (c : Capture) (r : Option ResultRecord) : Half :=
  match r with
  | none => 0
  | some x => if noRows c then 0 else x.marks

/-- The final set of a capture (R149, R150). -/
def finalConditions (c : Capture) (r : Option ResultRecord) : Half :=
  c.conditions ||| condIf (noRows c) .norows ||| closeMarks c r

/-- The result kept in the descriptor (R150). -/
def keptResult (c : Capture) (r : Option ResultRecord) : Option WearResult :=
  if noRows c then none else r.bind ResultRecord.result

/-- The cell list kept in the descriptor (R150). -/
def keptCells (c : Capture) (r : Option ResultRecord) : Option (List Cell) :=
  if noRows c then none else r.bind ResultRecord.cells

/-- The descriptor after the condition close (R148, R150, R168). -/
def Capture.closed (now : Stamp) (r : Option ResultRecord) (c : Capture) : Capture :=
  { c with
    state := .complete
    conditions := finalConditions c r
    result := keptResult c r
    cells := keptCells c r
    doneTime := some now }

/-- The ALERT entry of a capture, made at its condition close (R156). -/
def alertOf (now : Stamp) (c : Capture) : Alert where
  capture := c.id
  camera := c.camera
  track := c.track
  passage := c.passage
  panto := c.panto
  profile := c.profile
  code := c.code
  headClass := c.headClass
  headGen := c.headGen
  conditions := c.conditions
  alerted := c.conditions &&& c.head.alertMask
  doneTime := now
  result := c.result

/-- The places of the alert queue (R155). -/
def alertPlaces : Nat := 8

/-- An ALERT entry joins its queue, or is lost and counted when the queue is full (R155, R157). -/
def Uplink.pushAlert (a : Alert) (u : Uplink) : Uplink :=
  if u.alerts.length < alertPlaces then { u with alerts := u.alerts ++ [a] }
  else { u with alertsLost := bump u.alertsLost }

/-- The alert test of a settled capture (R154) and the entry it queues (R155). -/
def Uplink.alertTest (now : Stamp) (c : Capture) (u : Uplink) : Uplink :=
  if c.conditions &&& c.head.alertMask = 0 then u else u.pushAlert (alertOf now c)

/-- A settled capture reaches the cumulative summary (R152) and the alert test (R154). -/
def Uplink.takeClose (now : Stamp) (c : Capture) (u : Uplink) : Uplink :=
  ({ u with cumulative := u.cumulative ||| c.conditions }).alertTest now c

/-- The condition close of the capture in a slot: its set and result are settled, it reaches the cumulative
summary and the alert test, goes to COMPLETE and joins the delivery queue (R148, R168). Closes of one moment come in
either order (R151, R155, R168): that of the queue (log entry 1) or, within one command, a free one (log entry 17). -/
def conditionClose (k : Fin 32) (s : State) : State :=
  match s.slots[k] with
  | none => s
  | some c =>
    let done := c.closed s.time (resultRecord s c)
    senderTake
      { s.setSlot k (some done) with
        uplink := s.uplink.takeClose s.time done
        unprofiled := s.unprofiled.filter (· != c.id)
        delivery := s.delivery ++ [c.id] }

/-- A capture is complete when it is CLOSING and no entry tagged with it remains in its camera's outstanding
trigger list (R102). -/
def isComplete (s : State) (c : Capture) : Bool :=
  c.state == .closing && s.ports[c.camera].outstanding.all fun e => e.capture != some c.id

/-- Declare the capture in a slot complete, if it is (R102), with all that follows (R139, R148). -/
def tryComplete (k : Fin 32) (s : State) : State :=
  match s.slots[k] with
  | none => s
  | some c => if isComplete s c then conditionClose k s else s

/-! ### The CLOSING notice (R165) -/

/-- An OPEN capture goes to CLOSING with its close reason and the condition that names it (R87, R165). -/
def Capture.closing (reason : CloseReason) (c : Capture) : Capture :=
  if c.state = .opened then
    { c with state := .closing, close := reason, conditions := c.conditions ||| closeCond reason }
  else c

/-- The CLOSING notice of a capture: it goes to CLOSING, and completes at once if all its tagged entries have
been resolved (R102, R165). -/
def closeCapture (id : CaptureId) (reason : CloseReason) (s : State) : State :=
  match s.slotOf id with
  | none => s
  | some k => tryComplete k (s.modSlot k (Capture.closing reason))

/-! ### The capture being sent -/

/-- The slot and the descriptor of the capture being sent. -/
def sendingCapture (s : State) : Option (Fin 32 × Capture) :=
  match s.sender.capture with
  | none => none
  | some id => match s.slotOf id with
    | none => none
    | some k => s.slots[k].map fun c => (k, c)

/-! ### Records that arrive together (R193, R194) -/

/-- The classes, the highest first (R193). -/
def txClasses : List TxClass := [.reply, .alert, .summary, .note, .capture]

/-- The number of a class (R193). -/
def TxClass.number : TxClass → Nat
  | .reply => 1
  | .alert => 2
  | .summary => 3
  | .note => 4
  | .capture => 5

/-- A record of a class waits: its queue holds one, or the sender offers its next record (R173, R193). -/
def waits (s : State) : TxClass → Bool
  | .reply => !s.uplink.replies.isEmpty
  | .alert => !s.uplink.alerts.isEmpty
  | .summary => !s.uplink.summaries.isEmpty
  | .note => !s.uplink.notes.isEmpty
  | .capture => s.uplink.drain && !s.sender.inTransmission && (sendingCapture s).isSome

/-- The capture being sent has its own ALERT entry waiting, which arrived before its first record was offered (R148,
R168). -/
def ownAlertWaits (s : State) : Bool := s.uplink.alerts.any fun a => s.sender.capture == some a.capture

/-- The classes that wait after an operation and are higher than every class that waited before it: the records of each
arrived by the operation, and each can be the first of them. -/
def arrivals (before after : State) : List TxClass :=
  txClasses.filter fun c =>
    waits after c && (txClasses.all fun d => !waits before d || c.number < d.number)
      && !(c == .capture && ownAlertWaits after)

/-- The records of several classes that one operation brings arrive together, in either order: a grant of this moment may
fall after the first of them (R194; log entry 19). -/
def together (before after : State) : State :=
  if 2 ≤ (arrivals before after).length then
    { after with uplink := { after.uplink with mayLead := arrivals before after } }
  else after

/-! ### The sender's ends (R174, R175) -/

/-- The number of ROW-BLOCKs of a capture of `stored` rows (R172). -/
def blockCount (stored : Nat) : Nat := (stored + 3) / 4

/-- The rows ROW-BLOCK `b` carries: chain positions 4b to 4b + 3, or fewer at the end (R172). -/
def blockRows (stored b : Nat) : Nat := min 4 (stored - 4 * b)

/-- The end of the CAPTURE-HEADER: the next record is ROW-BLOCK 0, or CAPTURE-END with no row stored (R174). -/
def headerEnd (stored : Nat) (x : Sender) : Sender :=
  { x with inTransmission := false, next := if stored = 0 then .captureEnd else .block 0 }

/-- The block after the one the sender has just sent, or CAPTURE-END after the last (R174). -/
def nextAfterBlock (stored sent : Nat) : NextRecord → NextRecord
  | .block b => if sent < stored then .block (b + 1) else .captureEnd
  | .header => .header
  | .captureEnd => .captureEnd

/-- The end of a ROW-BLOCK at the sender: its rows are sent (R174). -/
def blockEnd (stored rows : Nat) (x : Sender) : Sender :=
  { x with
    inTransmission := false
    rowsSent := x.rowsSent + rows
    next := nextAfterBlock stored (x.rowsSent + rows) x.next }

/-- Whether a ROW-BLOCK that brings the rows sent to `sent` carried the last row of a chain segment (R172, R174). -/
def endsSegment (stored sent : Nat) : Bool := sent % rowsPerSegment == 0 || sent == stored

/-- The head segment of a capture's chain goes back to the tail of the free list (R161, R174). -/
def releaseHead (k : Fin 32) (s : State) : State :=
  match s.slots[k] with
  | none => s
  | some c =>
    match c.chain with
    | [] => s
    | g :: rest => { s.modSlot k (fun c => { c with chain := rest }) with freeList := s.freeList ++ [g] }

/-- The slot of a sent capture is freed, with its conditioning record, its working set and its id (R175). -/
def freeSlotOf (k : Fin 32) (s : State) : State :=
  { s with
    slots := upd s.slots k fun _ => none
    condRecords := upd s.condRecords k fun _ => none
    workSets := match s.slots[k].bind Capture.workSet with
      | none => s.workSets
      | some w => upd s.workSets w fun _ => none
    delivery := s.delivery.tail
    sender := { s.sender with capture := none, inTransmission := false } }

/-- The sender takes the end of a record (R174, R175, R177): that of a capture record; records of the higher
classes do not concern it. -/
def senderEnd (kind : TxKind) (s : State) : State :=
  match sendingCapture s with
  | none => s
  | some (k, c) =>
    match kind with
    | .header => { s with sender := headerEnd c.stored s.sender }
    | .block rows =>
      let sent := { s with sender := blockEnd c.stored rows s.sender }
      if endsSegment c.stored (s.sender.rowsSent + rows) then releaseHead k sent else sent
    | .captureEnd => senderTake (freeSlotOf k s)
    | .reply _ | .alert | .summary | .note => s

end Sys2Proof.Machine
end

