-- ==== Sys2Proof/Machine/Operands.lean ====
section
/-! DEFINITION. Bytes and frames (chapter 11): numbers most significant byte first, the 32-bit check, the frames
of the camera lanes, the uplink frame, and what a received frame is taken as. -/

namespace Sys2Proof.Machine

/-! ### Numbers (R199) -/

/-- A number as `n` bytes, most significant first (R199). -/
def beBytes : Nat → Nat → List Byte
  | 0, _ => []
  | n + 1, v => BitVec.ofNat 8 (v / 256 ^ n) :: beBytes n v

/-- The number a run of bytes holds, most significant first (R199). -/
def beNat (bs : List Byte) : Nat := bs.foldl (fun acc b => 256 * acc + b.toNat) 0

/-- Read a number of `n` bytes from the front of the bytes; nothing when they run out. -/
def takeNum (n : Nat) (bs : List Byte) : Option (Nat × List Byte) :=
  if bs.length < n then none else some (beNat (bs.take n), bs.drop n)

/-- Read numbers of the given widths, in order. -/
def takeNums : List Nat → List Byte → Option (List Nat × List Byte)
  | [], bs => some ([], bs)
  | w :: ws, bs => do
    let (v, rest) ← takeNum w bs
    let (vs, rest) ← takeNums ws rest
    return (v :: vs, rest)

/-- A flag byte: 01h for yes and 00h for no (R199). -/
def yesNo (b : Bool) : Nat := if b then 1 else 0

/-! ### The check (R200) -/

/-- One bit of the check: shift right, and combine with EDB88320h when a 1 falls out. -/
def crcBit (r : BitVec 32) : BitVec 32 :=
  if r.getLsbD 0 then (r >>> 1) ^^^ 0xEDB88320#32 else r >>> 1

/-- One byte of the check: combine with the lowest 8 bits, then eight bits in turn. -/
def crcByte (r : BitVec 32) (b : Byte) : BitVec 32 :=
  crcBit (crcBit (crcBit (crcBit (crcBit (crcBit (crcBit (crcBit (r ^^^ b.setWidth 32))))))))

/-- The check of a sequence of bytes (R200). -/
def check (bs : List Byte) : BitVec 32 := ~~~ bs.foldl crcByte 0xFFFFFFFF#32

/-! ### Camera lanes (R201) -/

/-- Pixels of a row. -/
def rowPixels : Nat := 2048

/-- What the port judges a forward-lane frame to be, at its end (R97, R98, R105, R201). -/
inductive ForwardFrame where
  /-- A good row frame: its echo and its pixels. -/
  | row (echo : Half) (pixels : List Byte)
  /-- A row frame that is not good (R98). -/
  | badRow
  /-- A good camera note: its bytes. -/
  | note (bytes : List Byte)
  /-- A camera note that is not good (R105). -/
  | badNote
  /-- A frame of no known kind (R98). -/
  | unknown
  /-- No data byte at all: no frame (DESIGN CHOICE, unsafe: log entry 16). -/
  | nothing
  deriving DecidableEq, Repr

/-- A row frame after its start code: 2 bytes of echo, 2,048 pixels, 4 bytes of check over both (R201). -/
def judgeRow (rest : List Byte) : ForwardFrame :=
  if rest.length = 2 + rowPixels + 4
      ∧ beNat (rest.drop (2 + rowPixels)) = (check (rest.take (2 + rowPixels))).toNat then
    .row (BitVec.ofNat 16 (beNat (rest.take 2))) ((rest.drop 2).take rowPixels)
  else .badRow

/-- A camera note after its start code: its length 1 to 64, its bytes, 4 bytes of check over both (R201). -/
def judgeNote (rest : List Byte) : ForwardFrame :=
  match rest with
  | [] => .badNote
  | l :: body =>
    if 1 ≤ l.toNat ∧ l.toNat ≤ 64 ∧ body.length = l.toNat + 4
        ∧ beNat (body.drop l.toNat) = (check (l :: body.take l.toNat)).toNat then
      .note (body.take l.toNat)
    else .badNote

/-- A forward-lane frame, by its start code: A5h a row frame, C3h a camera note (R201). -/
def judgeForward (frame : List Byte) : ForwardFrame :=
  match frame with
  | [] => .nothing
  | start :: rest =>
    if start = 0xA5#8 then judgeRow rest
    else if start = 0xC3#8 then judgeNote rest
    else .unknown

/-- The bytes of a trigger token (R201). -/
def tokenBytes (sequence : Half) : List Byte := 0x3C#8 :: beBytes 2 sequence.toNat

/-- The bytes of a pass-through message (R201). -/
def messageBytes (bytes : List Byte) : List Byte :=
  let body := BitVec.ofNat 8 bytes.length :: bytes
  0x69#8 :: (body ++ beBytes 4 (check body).toNat)

/-- The bytes on a return lane of the item it is sending (R201). -/
def laneBytes : LaneItem → List Byte
  | .token seq => tokenBytes seq
  | .message bytes => messageBytes bytes

/-- The time a message takes on the return lane, in ns: 6 + L bytes at 125 Mbyte/s (R201). -/
def messageNs (bytes : List Byte) : Nat := wordNs * (6 + bytes.length)

/-! ### The uplink frame (R202) -/

/-- The part's protocol type value (R202). -/
def protocolType : Nat := 0x88B6

/-- The part's own address, 02h 00h 00h 00h 04h 18h (R202). -/
def ownAddress : Mac := 0x020000000418#48

/-- Pad with 00h up to a payload of 46 bytes (R202). -/
def padPayload (payload : List Byte) : List Byte :=
  payload ++ List.replicate (46 - payload.length) 0

/-- The Ethernet frame check, least significant byte first (R200). -/
def frameCheck (bytes : List Byte) : List Byte := (beBytes 4 (check bytes).toNat).reverse

/-- A whole frame the part sends: addresses, type, record kind, record number, body length, body, padding and
frame check (R202). -/
def uplinkFrame (partner : Mac) (kind : Nat) (number : Half) (body : List Byte) : List Byte :=
  let head := beBytes 6 partner.toNat ++ beBytes 6 ownAddress.toNat ++ beBytes 2 protocolType
  let payload := beBytes 1 kind ++ beBytes 2 number.toNat ++ beBytes 2 body.length ++ body
  let bytes := head ++ padPayload payload
  bytes ++ frameCheck bytes

/-- What a received frame is sorted into (R183). -/
inductive ReceivedFrame where
  | receiveError
  | foreign
  | command (c : Command)
  deriving DecidableEq, Repr

/-- The payload of a frame of the part's type, sorted: B below 3, B beyond the payload, or a record kind that is
not COMMAND is a receive error; otherwise a command (R183, R202). -/
def sortPayload (source : Mac) (payload : List Byte) : ReceivedFrame :=
  let kind := beNat (payload.take 1)
  let b := beNat ((payload.drop 3).take 2)
  let rest := payload.drop 5
  if payload.length < 5 ∨ b < 3 ∨ rest.length < b ∨ kind ≠ 1 then .receiveError
  else
    let body := rest.take b
    .command
      { source := source
        tag := BitVec.ofNat 16 (beNat (body.take 2))
        code := BitVec.ofNat 8 (beNat ((body.drop 2).take 1))
        params := body.drop 3 }

/-- A frame received whole, sorted by the rows of R183 in order. -/
def sortFrame (frame : List Byte) : ReceivedFrame :=
  let covered := frame.take (frame.length - 4)
  let payload := covered.drop 14
  if frame.length < 64 ∨ 9000 < payload.length ∨ frame.drop (frame.length - 4) ≠ frameCheck covered then
    .receiveError
  else if beNat ((frame.drop 12).take 2) ≠ protocolType then .foreign
  else sortPayload (BitVec.ofNat 48 (beNat ((frame.drop 6).take 6))) payload

end Sys2Proof.Machine
end

