-- ==== Sys2Proof/Machine/Rows.lean ====
section
/-! DEFINITION. The camera ports (chapter 5) and the rows they hand on (chapter 6): resolution of the entries of
the outstanding trigger list, row frames and camera notes, link changes, and the return lane. The meanings of
ROW_TIMEOUT, ROW_FRAME, CAMERA_NOTE, CAMERA_LINK_UP, CAMERA_LINK_DOWN, PASS_THROUGH_SEND and MESSAGE_SENT. -/

namespace Sys2Proof.Machine

/-! ### Resolution of entries (R99 to R102) -/

/-- The row index of a tagged entry: its sequence minus the capture's first, modulo 65,536 (R99). -/
def rowIndexOf (c : Capture) (e : Entry) : Nat := (e.sequence - c.firstSequence).toNat

/-- A received tagged row (R101, R110): counted, its stored row stored (R111 to R113), its profiled row searched
when the capture is profiled (R114). -/
def receiveRow (k : Fin 32) (e : Entry) (pixels : List Byte) (s : State) : State :=
  match s.slots[k], s.condRecords[k] with
  | some c, some r =>
    let counted := s.modSlot k fun c => { c with received := c.received + 1, repairRun := 0 }
    let stored := storeRow k
      { sequence := e.sequence, rowIndex := rowIndexOf c e, repaired := false
        pixels := storedPixels r.kept r.fill r.blank pixels } counted
    if r.role = .profile ∧ r.hasWorkSet then profileRow c.workSet (rowIndexOf c e) e.travel pixels stored
    else stored
  | _, _ => s

/-- The pixels of a repaired row: a copy of the last stored row, or the record's fill row when the capture has
stored none (R116). -/
def repairPixels (s : State) (c : Capture) (r : CondRecord) : List Byte :=
  match lastStoredRow s c with
  | some row => row.pixels
  | none => r.fillRow

/-- A missing tagged row is repaired while the repair run is below the repair limit, else omitted (R100, R101). -/
def missRow (k : Fin 32) (e : Entry) (s : State) : State :=
  match s.slots[k], s.condRecords[k] with
  | some c, some r =>
    if c.repairRun < c.repairLimit then
      storeRow k
        { sequence := e.sequence, rowIndex := rowIndexOf c e, repaired := true, pixels := repairPixels s c r }
        (s.modSlot k fun c =>
          { c.raise .repaired with repaired := c.repaired + 1, repairRun := c.repairRun + 1 })
    else s.modSlot k fun c => { c.raise .gap with omitted := c.omitted + 1 }
  | _, _ => s

/-- How an entry is resolved (R99): as received, with the row's pixels, or as missing. -/
inductive Resolution where
  | received (pixels : List Byte)
  | missing
  deriving DecidableEq, Repr

/-- The outcome of a resolved tagged entry at its capture's slot. -/
def resolveRow (k : Fin 32) (e : Entry) (how : Resolution) (s : State) : State :=
  match how with
  | .received pixels => receiveRow k e pixels s
  | .missing => missRow k e s

/-- An entry that has left the list is resolved by its tag (R99). -/
def resolveEntry (e : Entry) (how : Resolution) (s : State) : State :=
  match e.capture with
  | none => s
  | some id => match s.slotOf id with
    | none => s
    | some k => resolveRow k e how s

/-- The port after its head entry leaves the list; a missing entry is counted (R99). -/
def Port.popEntry (how : Resolution) (rest : List Entry) (p : Port) : Port :=
  { p with
    outstanding := rest
    missingRows := match how with
      | .received _ => p.missingRows
      | .missing => bump p.missingRows }

/-- The head entry leaves a port's list and is resolved (R99); an empty list resolves nothing. -/
def takeHead (cam : Fin 4) (how : Resolution) (s : State) : State :=
  match s.ports[cam].outstanding with
  | [] => s
  | e :: rest => resolveEntry e how (s.modPort cam (Port.popEntry how rest))

/-- Entries leave the list one after the other, head first, each with its own resolution (R96, R97, R99). -/
def takeHeads (cam : Fin 4) : List Resolution → State → State
  | [], s => s
  | how :: rest, s => takeHeads cam rest (takeHead cam how s)

/-- The port declares a capture complete after the head entry's resolution (R102): the one the entry is tagged with, if it
is complete then. -/
def declaredAtHead (cam : Fin 4) (how : Resolution) (s : State) : List CaptureId :=
  ((s.ports[cam].outstanding.head?.bind Entry.capture).filter fun id =>
    (((takeHead cam how s).slotOf id).bind fun k => (takeHead cam how s).slots[k]).any
      (isComplete (takeHead cam how s))).toList

/-- The captures declared complete as entries are resolved one after the other, in the order of the declarations, each at
the resolution of its last entry (R102). -/
def declared (cam : Fin 4) : List Resolution → State → List CaptureId
  | [], _ => []
  | how :: rest, s => declaredAtHead cam how s ++ declared cam rest (takeHead cam how s)

/-- One capture CUT another: it opened at the trigger that closed the other one CUT, the trigger after the last one tagged
with it (R81, R85). -/
def cutBy (s : State) (cut cutter : CaptureId) : Bool :=
  match (s.slotOf cut).bind fun k => s.slots[k], (s.slotOf cutter).bind fun k => s.slots[k] with
  | some c, some d =>
    c.close == .cut && d.camera == c.camera && d.firstSequence == c.firstSequence + BitVec.ofNat 16 c.tagged
  | _, _ => false

/-- The condition close of a capture that has been declared complete (R102, R148). -/
def completeCapture (id : CaptureId) (s : State) : State :=
  match s.slotOf id with
  | none => s
  | some k => tryComplete k s

/-- Entries at the head of a port's list are resolved at one moment (R99), one for each resolution. Each capture is declared
complete at the resolution of its last entry (R102). The condition closes of the captures declared fall at the one moment
and are taken in a free order (R151, R168; log entry 17), a CUT capture always before the one that cut it (R170). -/
def resolveHeads (cam : Fin 4) (hows : List Resolution) (s : State) : State :=
  let taken := takeHeads cam hows s
  together s (inFreeOrder BitVec.toNat (cutBy taken) (declared cam hows s) completeCapture taken)

/-- The head entry of a port's list is resolved (R99); an empty list resolves nothing. -/
def resolveHead (cam : Fin 4) (how : Resolution) (s : State) : State := resolveHeads cam [how] s

/-- How many entries stand at the head of a list with their expiry times reached (R96). -/
def expiredCount (now : Stamp) (l : List Entry) : Nat := (l.takeWhile fun e => reached now e.expiry).length

/-- The entries at the head of a port's list whose expiry time has been reached expire as missing, head first (R96). -/
def expireHeads (cam : Fin 4) (s : State) : State :=
  resolveHeads cam (List.replicate (expiredCount s.time s.ports[cam].outstanding) .missing) s

/-! ### Triggers taken by the port (R93 to R95) -/

/-- The places of an outstanding trigger list (R95). -/
def outstandingPlaces : Nat := 64

/-- The lane can start a frame: nothing is being sent, no token waits, and an idle word stands behind the last frame
(R94, R201). -/
def ReturnLane.isFree (l : ReturnLane) : Bool := l.item = none ∧ l.waiting = [] ∧ wordNs ≤ l.idle

/-- A token for the return lane: it is sent at once when the lane is free, else it waits (R94, R201). -/
def ReturnLane.takeToken (sequence : Half) (l : ReturnLane) : ReturnLane :=
  if l.isFree then sendToken 0 sequence [] else { l with waiting := l.waiting ++ [sequence] }

/-- The port appends a trigger and, with its link UP, sends the token (R93). -/
def Port.takeTrigger (e : Entry) (p : Port) : Port :=
  { p with
    outstanding := p.outstanding ++ [e]
    lane := if p.up then p.lane.takeToken e.sequence else p.lane }

/-- A trigger handed to its port (R93): with the list full, the oldest entry expires as missing first. -/
def portTrigger (cam : Fin 4) (e : Entry) (s : State) : State :=
  let room := if s.ports[cam].outstanding.length < outstandingPlaces then s else resolveHead cam .missing s
  room.modPort cam (Port.takeTrigger e)

/-! ### Frames of the forward lane (R97, R98, R105) -/

/-- The places of the camera note queue (R105, R197). -/
def notePlaces : Nat := 8

/-- How many entries stand ahead of the entry with a sequence, if there is one (R97). -/
def entriesAhead (echo : Half) : List Entry → Option Nat
  | [] => none
  | e :: rest => if e.sequence = echo then some 0 else (entriesAhead echo rest).map (· + 1)

/-- A good row frame (R97): matched by its echo, the entries older than its own expiring as missing, or stray. -/
def goodRow (cam : Fin 4) (echo : Half) (pixels : List Byte) (s : State) : State :=
  match entriesAhead echo s.ports[cam].outstanding with
  | none => s.modPort cam fun p => { p with strayRows := bump p.strayRows }
  | some n => resolveHeads cam (List.replicate n .missing ++ [.received pixels]) s

/-- A frame counted as failed (R98). -/
def failFrame (cam : Fin 4) (s : State) : State :=
  s.modPort cam fun p => { p with failedFrames := bump p.failedFrames }

/-- A good camera note joins the camera note queue, or is dropped and counted at its port (R105). -/
def goodNote (cam : Fin 4) (bytes : List Byte) (s : State) : State :=
  if s.uplink.notes.length < notePlaces then
    s.modUplink fun u => { u with notes := u.notes ++ [{ camera := cam, time := s.time, bytes := bytes }] }
  else s.modPort cam fun p => { p with noteDrops := bump p.noteDrops }

/-- A frame that ends on the forward lane, as it is judged (R97, R98, R105). -/
def forwardJudged (cam : Fin 4) (f : ForwardFrame) (s : State) : State :=
  match f with
  | .row echo pixels => goodRow cam echo pixels s
  | .badRow => resolveHead cam .missing (failFrame cam s)
  | .note bytes => goodNote cam bytes s
  | .badNote => failFrame cam s
  | .unknown => failFrame cam s
  | .nothing => s

/-- A forward-lane frame ends. A port in DOWN takes none, and a frame that began before the change to UP or
before the last reset is discarded without a count (R91, R107). -/
def forwardFrame (cam : Fin 4) (fresh : Bool) (frame : List Byte) (s : State) : State :=
  if s.ports[cam].up ∧ fresh then forwardJudged cam (judgeForward frame) s else s

/-! ### Link changes (R91, R92) -/

/-- Good alignment that brings a camera port UP, in ns: 1 ms (R91). -/
def cameraUpNs : Nat := 1000000

/-- A camera port's link goes UP (R91). -/
def cameraUp (cam : Fin 4) (heldNs : Nat) (s : State) : State :=
  if s.ports[cam].up ∨ heldNs < cameraUpNs then s else s.modPort cam fun p => { p with up := true }

/-- A port at the change to DOWN (R92): the frame in reception is a failed frame, the item on the return lane is
cut off, the pass-through queue is emptied, the outstanding trigger list is kept. A token that waits is not sent
(DESIGN CHOICE, unsafe: log entry 7). -/
def Port.goDown (inReception : Bool) (p : Port) : Port :=
  { p with
    up := false
    passQueue := []
    lane := p.lane.cut
    failedFrames := if inReception then bump p.failedFrames else p.failedFrames }

/-- A camera port's link goes DOWN (R91, R92); in DOWN the event starts the physical layer's count again and
changes nothing here. -/
def cameraDown (cam : Fin 4) (inReception : Bool) (s : State) : State :=
  if s.ports[cam].up then s.modPort cam (Port.goDown inReception) else s

/-! ### The return lane (R94) -/

/-- The head pass-through message is sent when the lane is free and no token waits (R94, R201). -/
def Port.sendMessage (p : Port) : Port :=
  match p.passQueue with
  | [] => p
  | m :: rest =>
    if p.up ∧ p.lane.isFree then
      { p with passQueue := rest, lane := { item := some (.message m), elapsed := 0, waiting := [], idle := 0 } }
    else p

/-- A message finishes, 8 ns a byte after it began, and what waits follows it behind an idle word (R94, R201). -/
def ReturnLane.finishMessage (l : ReturnLane) : ReturnLane :=
  match l.item with
  | some (.message m) =>
    if messageNs m ≤ l.elapsed then sendWaiting (l.elapsed - messageNs m) l.waiting else l
  | some (.token _) => l
  | none => l

/-! ### The meanings -/

/-- ROW_TIMEOUT (R96): the head entry expires when its expiry time is reached, and so on down the list. -/
def execRowTimeout (after : Nat) (camera : Fin 4) (s : State) : Outcome :=
  timed after (expireHeads camera) s

/-- ROW_FRAME (R97, R98): a forward-lane frame ends and is taken by its start code. -/
def execRowFrame (after : Nat) (camera : Fin 4) (fresh : Bool) (frame : List Byte) (s : State) : Outcome :=
  timed after (forwardFrame camera fresh frame) s

/-- CAMERA_NOTE (R105): a forward-lane frame ends and is taken by its start code. -/
def execCameraNote (after : Nat) (camera : Fin 4) (fresh : Bool) (frame : List Byte) (s : State) : Outcome :=
  timed after (forwardFrame camera fresh frame) s

/-- CAMERA_LINK_UP (R91). -/
def execCameraLinkUp (after : Nat) (camera : Fin 4) (heldNs : Nat) (s : State) : Outcome :=
  timed after (cameraUp camera heldNs) s

/-- CAMERA_LINK_DOWN (R92). -/
def execCameraLinkDown (after : Nat) (camera : Fin 4) (inReception : Bool) (s : State) : Outcome :=
  timed after (cameraDown camera inReception) s

/-- PASS_THROUGH_SEND (R94): at the first moment the lane is free, no token waits and a message is queued. -/
def execPassThroughSend (camera : Fin 4) (s : State) : Outcome :=
  atOnce (fun s => s.modPort camera Port.sendMessage) s

/-- MESSAGE_SENT (R94). -/
def execMessageSent (after : Nat) (camera : Fin 4) (s : State) : Outcome :=
  timed after (fun s => s.modPort camera fun p => { p with lane := p.lane.finishMessage }) s

end Sys2Proof.Machine
end

