-- ==== Sys2Proof/Machine/Windows.lean ====
section
/-! DEFINITION. The Trigger and Window Unit (chapter 4): line period, travel step, the window list, capture open,
tagging, and the stop of a channel. The meaning of TRIGGER. -/

namespace Sys2Proof.Machine

/-! ### Line period (R67, R69) -/

/-- The line period before the clamp: pace × pitch / 1,000 rounded to nearest (R67). -/
def rawPeriod (pace pitch : Nat) : Nat := (pace * pitch + 500) / 1000

/-- The line period in ns and its off-pitch mark (R67): clamped to period min to period max. -/
def linePeriod (pace : Nat) (cam : SiteCamera) : Nat × Bool :=
  let t := rawPeriod pace cam.pitch
  if t < cam.periodMin then (cam.periodMin, true)
  else if cam.periodMax < t then (cam.periodMax, true)
  else (t, false)

/-- The period of the next interval (R67, R69): period max, off-pitch, while HELD. -/
def nextPeriod (held : Bool) (pace : Nat) (cam : SiteCamera) : Nat × Bool :=
  if held then (cam.periodMax, true) else linePeriod pace cam

/-! ### Travel (R74, R75) -/

/-- The largest travel (R64, R74). -/
def travelMax : Nat := 4294967295

/-- The travel step of an interval and the carry it leaves (R74). -/
def travelStep (interval carry pace : Nat) : Nat × Nat :=
  ((interval * 1000 + carry) / pace, (interval * 1000 + carry) % pace)

/-- Travel and carry after a trigger: no step while HELD (R69, R75); else the step of R74, travel holding at its
largest value. -/
def travelAfter (held : Bool) (interval pace travel carry : Nat) : Nat × Nat :=
  if held then (travel, carry)
  else
    let x := travelStep interval carry pace
    (min (travel + x.1) travelMax, x.2)

/-! ### Reports to the window plan (R57) -/

/-- Record an outcome in the plan entry of a window. -/
def planSet (cam : Fin 4) (panto : Nat) (outcome : PlanOutcome) (plan : List PlanEntry) : List PlanEntry :=
  plan.map fun e => if e.camera = cam ∧ e.panto = panto then { e with outcome := outcome } else e

/-- The Passage Tracker records the outcome of a window (R57). -/
def reportWindow (t : Track) (cam : Fin 4) (panto : Nat) (outcome : PlanOutcome) (s : State) : State :=
  match s.passage? t with
  | none => s
  | some p => s.setPassage t { p with plan := planSet cam panto outcome p.plan }

/-! ### Capture open (R81 to R84, R108, R121, R122) -/

/-- The capture id the next capture takes: the counter's value, passed over while an occupied slot holds it
(R83). At most 31 other captures hold ids, so `n = 32` steps suffice. -/
def freeCaptureId (s : State) : Nat → CaptureId → CaptureId
  | 0, id => id
  | n + 1, id => if (s.slotOf id).isSome then freeCaptureId s n (id + 1) else id

/-- The lower-numbered working set of a camera, and the higher (R120). -/
def lowWorkSet (cam : Fin 4) : Fin 8 := ⟨2 * cam.val, by omega⟩

def highWorkSet (cam : Fin 4) : Fin 8 := ⟨2 * cam.val + 1, by omega⟩

/-- The lower-numbered free working set of a camera, if one is free (R121). -/
def freeWorkSet (s : State) (cam : Fin 4) : Option (Fin 8) :=
  if s.workSets[lowWorkSet cam].isNone then some (lowWorkSet cam)
  else if s.workSets[highWorkSet cam].isNone then some (highWorkSet cam)
  else none

/-- The working set a capture gets at its open: PROFILE captures only (R84, R121). -/
def grantedWorkSet (s : State) (cam : Fin 4) (role : Role) : Option (Fin 8) :=
  match role with
  | .image => none
  | .profile => freeWorkSet s cam

/-- What a capture takes from its surroundings at its opening trigger (R18, R84). -/
structure Opening where
  id : CaptureId
  camera : Fin 4
  track : Track
  passage : Passage
  site : SiteCamera
  head : HeadClass
  blank : BlankEntry
  window : Window
  workSet : Option (Fin 8)
  deriving DecidableEq, Repr

/-- The descriptor of a new capture (R84, R101, R145, R146, R164). The close reason, which the CLOSING notice gives, is
NONE until then (DESIGN CHOICE, safe: log entry 18). -/
def newCapture (s : State) (o : Opening) : Capture where
  id := o.id
  state := .opened
  camera := o.camera
  track := o.track
  passage := o.passage.number
  panto := o.window.panto
  headClass := o.window.headClass
  profile := (o.passage.profile.map Prod.fst).getD 0
  code := (o.passage.profile.map Prod.snd).getD 0
  consistGen := s.tables.generation[tableIndex .consist]
  headGen := s.tables.generation[tableIndex .headClass]
  blankGen := s.tables.generation[tableIndex .blankMap]
  openPoint := o.window.openPoint
  closePoint := o.window.closePoint
  firstSequence := s.channels[o.camera].sequence
  role := o.site.role
  slope := o.site.slope
  kept := o.site.kept
  rowLimit := o.site.rowLimit
  repairLimit := o.site.repairLimit
  head := o.head
  blank := o.blank
  tagged := 0
  close := .none
  received := 0
  repaired := 0
  omitted := 0
  repairRun := 0
  stored := 0
  chain := []
  conditions := condIf o.window.unmatched .unmatched ||| condIf o.window.late .late
  openTime := s.time
  doneTime := none
  result := none
  cells := none
  workSet := o.workSet

/-- The conditioning record of a new capture (R108, R109, R115). -/
def newCondRecord (s : State) (o : Opening) : CondRecord where
  capture := o.id
  camera := o.camera
  role := o.site.role
  kept := o.site.kept
  fill := o.blank.fill
  blank := blankColumns o.blank
  blankGen := s.tables.generation[tableIndex .blankMap]
  fillRow := fillRow o.site.kept o.blank.fill (blankColumns o.blank)
  hasWorkSet := o.workSet.isSome

/-- The working set of a new capture (R120, R122): its copies, and every column of the band in
SEEKING-REFERENCE. -/
def newWorkSet (k : Fin 32) (o : Opening) : WorkSet where
  capture := o.id
  slot := k
  firstCell := o.head.firstCell
  lastCell := o.head.lastCell
  referenceThreshold := o.head.referenceThreshold
  stripThreshold := o.head.stripThreshold
  minGap := o.head.minGap
  minValid := o.head.minValid
  nominal := o.head.nominal
  wearLimit := o.head.wearLimit
  stepLimit := o.head.stepLimit
  slope := o.site.slope
  blank := blankColumns o.blank
  columns := List.replicate (8 * (o.head.lastCell + 1 - o.head.firstCell)) .seekReference

/-- The OPEN window of a new capture (R76, R84). -/
def newOpenWindow (o : Opening) : OpenWindow where
  window := o.window
  capture := o.id
  tagged := 0
  rowLimit := o.site.rowLimit

/-- A capture is created in a free slot (R82 to R84): descriptor, conditioning record, working set or note of
none, the channel's OPEN window, the capture id counter moved on, the plan entry OPENED. -/
def createCapture (k : Fin 32) (o : Opening) (s : State) : State :=
  reportWindow o.track o.camera o.window.panto (.opened o.id)
    { s with
      captureIds := o.id + 1
      slots := upd s.slots k fun _ => some (newCapture s o)
      condRecords := upd s.condRecords k fun _ => some (newCondRecord s o)
      workSets := match o.workSet with
        | none => s.workSets
        | some w => upd s.workSets w fun _ => some (newWorkSet k o)
      unprofiled := if o.site.role = .profile ∧ o.workSet = none then s.unprofiled ++ [o.id] else s.unprofiled
      channels := upd s.channels o.camera fun c => { c with openWindow := some (newOpenWindow o) } }

/-- The CLOSING notice and the removal of the channel's OPEN window (R76, R78, R79, R81, R86). -/
def closeWindow (cam : Fin 4) (reason : CloseReason) (s : State) : State :=
  match s.channels[cam].openWindow with
  | none => s
  | some w => closeCapture w.capture reason (s.modChannel cam fun c => { c with openWindow := none })

/-- A window takes a descriptor slot, or is dropped NOSLOT (R82). The passage, the camera's site entry and the
head class it copies are those of an ACTIVE track with committed tables (R2, R10, R16). -/
def takeSlot (t : Track) (cam : Fin 4) (site : SiteCamera) (p : Passage) (head : HeadClass) (w : Window)
    (s : State) : State :=
  match s.freeSlot with
  | none => reportWindow t cam w.panto (.dropped .noSlot) s
  | some k =>
    createCapture k
      { id := freeCaptureId s 32 s.captureIds, camera := cam, track := t, passage := p, site := site, head := head
        blank := blankEntry s.tables.active.blankMap[cam], window := w
        workSet := grantedWorkSet s cam site.role } s

/-- A PENDING window opens (R81, R82): an OPEN window is cut first. A head class that is EMPTY, which R8 and R10
keep from being named, opens nothing. -/
def openWindow (t : Track) (cam : Fin 4) (site : SiteCamera) (p : Passage) (w : Window) (s : State) : State :=
  match s.tables.active.headClasses[w.headClass] with
  | none => s
  | some head => takeSlot t cam site p head w (closeWindow cam .cut s)

/-- Step 5 of R70: the PENDING windows in list order (R80). The list is the one the channel holds; each window
examined leaves it when it opens or is dropped. -/
def examineWindows (t : Track) (cam : Fin 4) (site : SiteCamera) (p : Passage) (travel : Nat) :
    List Window → State → State
  | [], s => s.modChannel cam fun c => { c with windows := [] }
  | w :: rest, s =>
    if w.closePoint ≤ travel then
      examineWindows t cam site p travel rest (reportWindow t cam w.panto (.dropped .missed) s)
    else if w.late ∨ w.openPoint ≤ travel then
      openWindow t cam site p w (s.modChannel cam fun c => { c with windows := rest })
    else s.modChannel cam fun c => { c with windows := w :: rest }

/-! ### The trigger (R70) -/

/-- Steps 3 and 4 of R70: the OPEN window closes LIMIT at its row limit (R79), or by its close point (R78). -/
def closeReached (cam : Fin 4) (travel : Nat) (s : State) : State :=
  match s.channels[cam].openWindow with
  | none => s
  | some w =>
    if w.tagged = w.rowLimit then closeWindow cam .limit s
    else if w.window.closePoint ≤ travel then closeWindow cam .none s
    else s

/-- A capture after a tagged trigger (R85, R87): the tagged count goes up, and PITCH joins its set when the
trigger carries it. -/
def Capture.tag (pitch : Bool) (c : Capture) : Capture :=
  { c with tagged := c.tagged + 1, conditions := c.conditions ||| condIf pitch .pitch }

/-- Step 6 of R70: the trigger is tagged with the capture of the OPEN window (R85). -/
def tagTrigger (cam : Fin 4) (pitch : Bool) (s : State) : State :=
  match s.channels[cam].openWindow with
  | none => s
  | some w =>
    let counted := s.modChannel cam fun c => { c with openWindow := some { w with tagged := w.tagged + 1 } }
    match s.slotOf w.capture with
    | none => counted
    | some k => counted.modSlot k (Capture.tag pitch)

/-- The entry a trigger makes in its port's list (R72, R95). -/
def triggerEntry (s : State) (cam : Fin 4) (site : SiteCamera) (travel : Nat) : Entry where
  sequence := s.channels[cam].sequence
  capture := s.channels[cam].openWindow.map OpenWindow.capture
  travel := travel
  issue := s.time
  expiry := later s.time site.rowTimeout

/-- Step 7 of R70: the trigger takes its sequence number (R71) and goes to its port (R72, R93). -/
def issueTrigger (cam : Fin 4) (site : SiteCamera) (travel : Nat) (s : State) : State :=
  portTrigger cam (triggerEntry s cam site travel)
    (s.modChannel cam fun c => { c with sequence := c.sequence + 1 })

/-- A trigger, taken at the end of an interval (R70). `period`, `offPitch` and `elapsed` are those of the interval
it ends; what is left of the last clock period is carried into the next interval (R68). -/
def takeTrigger (cam : Fin 4) (t : Track) (site : SiteCamera) (p : Passage) (period : Nat) (offPitch : Bool)
    (elapsed : Nat) (s : State) : State :=
  let held := p.stale
  let moved := travelAfter held period p.pace s.channels[cam].travel s.channels[cam].carry
  let pitch := offPitch || held
  let next := nextPeriod held p.pace site
  let stepped := s.modChannel cam fun c =>
    { c with
      travel := moved.1
      carry := moved.2
      run := .running t held next.1 next.2 (elapsed - period) }
  let closed := closeReached cam moved.1 stepped
  let examined := examineWindows t cam site p moved.1 closed.channels[cam].windows closed
  issueTrigger cam site moved.1 (tagTrigger cam pitch examined)

/-- TRIGGER at a channel: taken when the interval in force has ended, at an edge of the 25 MHz clock (R68, R70). A
channel that is STOPPED, or whose interval has not ended, issues none. -/
def triggerNow (cam : Fin 4) (s : State) : State :=
  match s.channels[cam].run with
  | .stopped => s
  | .running t _ period offPitch elapsed =>
    if period ≤ elapsed ∧ s.onClock then
      match s.siteCamera? cam, s.passage? t with
      | some site, some p => takeTrigger cam t site p period offPitch elapsed s
      | _, _ => s
    else s

/-! ### Start and stop of a channel (R66, R86) -/

/-- A channel is started at passage start (R66). -/
def startChannel (t : Track) (pace : Nat) (cam : Fin 4) (s : State) : State :=
  match s.siteCamera? cam with
  | none => s
  | some site =>
    let period := linePeriod pace site
    s.modChannel cam fun c =>
      { c with run := .running t false period.1 period.2 0, travel := 0, carry := 0, windows := [], openWindow := none }

/-- The PENDING windows of a stopped channel are dropped and reported (R57, R86). -/
def dropWindows (t : Track) (cam : Fin 4) (reason : DropReason) : List Window → State → State
  | [], s => s.modChannel cam fun c => { c with windows := [] }
  | w :: rest, s => dropWindows t cam reason rest (reportWindow t cam w.panto (.dropped reason) s)

/-- A channel is stopped (R86): its interval is abandoned, its OPEN window closes SHORT, its PENDING windows are
dropped. A channel that is STOPPED already has an empty list, and nothing more is done to it. -/
def stopChannel (t : Track) (reason : DropReason) (cam : Fin 4) (s : State) : State :=
  match s.channels[cam].run with
  | .stopped => s
  | .running _ _ _ _ _ =>
    let halted := closeWindow cam .short (s.modChannel cam fun c => { c with run := .stopped })
    dropWindows t cam reason halted.channels[cam].windows halted

/-- Every channel of a track's cameras is stopped (R49, R60). They stop at one moment, and the captures that complete
with them do so in a free order (R103, R151, R155, R168; log entry 17). Their records arrive together (R194). -/
def stopChannels (t : Track) (reason : DropReason) (s : State) : State :=
  together s (inFreeOrder Fin.val (fun _ _ => false) (s.camerasOf t) (stopChannel t reason) s)

/-- Every channel of a track's cameras is started (R44, R66). -/
def startChannels (t : Track) (pace : Nat) (s : State) : State :=
  (s.camerasOf t).foldl (fun s cam => startChannel t pace cam s) s

/-! ### The meaning -/

/-- TRIGGER (R70). -/
def execTrigger (after : Nat) (channel : Fin 4) (s : State) : Outcome := timed after (triggerNow channel) s

end Sys2Proof.Machine
end

