-- ==== Sys2Proof/Machine/Passages.lean ====
section
/-! DEFINITION. The Passage Tracker (chapter 3): crossings by track state, passage start, counts, the axle list,
pace history, consist matching, window planning, reversal and passage end. The meanings of STALE_EXPIRY,
QUIET_DEADLINE and SETTLE_EXPIRY. -/

namespace Sys2Proof.Machine

/-! ### Crossings (R32, R33) -/

/-- Kinds of crossing (R32): a pair carries its pace and its CLAMPED flag. -/
inductive CrossingKind where
  | arrival (pace : Nat) (clamped : Bool)
  | departure (pace : Nat) (clamped : Bool)
  | unpaired
  deriving DecidableEq, Repr

/-- An axle crossing (R32); its track is the one it is handed to. -/
structure Crossing where
  station : Station
  kind : CrossingKind
  time : Stamp
  deriving DecidableEq, Repr

def Crossing.pace (x : Crossing) : Option Nat :=
  match x.kind with
  | .arrival pace _ => some pace
  | .departure pace _ => some pace
  | .unpaired => none

def Crossing.clamped (x : Crossing) : Bool :=
  match x.kind with
  | .arrival _ clamped => clamped
  | .departure _ clamped => clamped
  | .unpaired => false

/-- The approach station of a direction (R44). -/
def approachStation : Direction → Station
  | .ab => .a
  | .ba => .b

/-- What a crossing is to a passage of a direction (R47, R49). -/
inductive CrossingRole where
  /-- ARRIVAL or UNPAIRED at the approach station. -/
  | axleIn
  /-- DEPARTURE or UNPAIRED at the far station. -/
  | axleOut
  /-- DEPARTURE at the approach station: a reversal that counts in down. -/
  | backOut
  /-- ARRIVAL at the far station: a reversal that counts out down. -/
  | backIn
  deriving DecidableEq, Repr

/-- The tables of R47 and R49. -/
def crossingRole (d : Direction) (x : Crossing) : CrossingRole :=
  if x.station = approachStation d then
    match x.kind with
    | .arrival _ _ => .axleIn
    | .unpaired => .axleIn
    | .departure _ _ => .backOut
  else
    match x.kind with
    | .departure _ _ => .axleOut
    | .unpaired => .axleOut
    | .arrival _ _ => .backIn

/-- A stray axle: the track's counter goes up, and nothing else changes (R43). -/
def strayAxle (t : Track) (s : State) : State := s.modTrack t fun r => { r with stray := bump r.stray }

/-! ### Passage pace (R50) -/

/-- The pace history with one pace more: four at most, the oldest removed (R50). -/
def pushPace (pace : Nat) (paces : List Nat) : List Nat :=
  (if paces.length < 4 then paces else paces.drop (paces.length - 3)) ++ [pace]

/-- A pace of the passage direction (R50): the mean rounded down, not stale, and a new stale deadline. -/
def Passage.takePace (now : Stamp) (hold pace : Nat) (p : Passage) : Passage :=
  let paces := pushPace pace p.paces
  { p with
    paces := paces
    pace := paces.sum / paces.length
    stale := false
    staleDeadline := later now (hold * 1000 + 1) }

/-- The pace of a crossing, if it carries one, enters the history (R47, R50). -/
def Passage.takeCrossingPace (now : Stamp) (hold : Nat) (x : Crossing) (p : Passage) : Passage :=
  match x.pace with
  | none => p
  | some pace => p.takePace now hold pace

/-! ### The axle list (R48) -/

/-- The largest axle count (R45, R47). -/
def countMax : Nat := 1023

/-- The entries an axle list holds (R45, R48). -/
def axlePlaces : Nat := 128

/-- The spacing of a new entry after the last one (R48): absent when either is UNPAIRED. -/
def spacingAfter (last : Axle) (x : Crossing) : Option Nat :=
  match x.pace with
  | none => none
  | some pace => if last.unpaired then none else some (since x.time last.time * 1000 / pace)

/-- The list entry of an approach crossing (R45). -/
def axleOf (x : Crossing) (spacing : Option Nat) : Axle where
  time := x.time
  pace := x.pace
  spacing := spacing
  unpaired := x.kind == .unpaired
  clamped := x.clamped

/-- The in count goes up, or AXLE-OVERFLOW is set at 1,023 (R47). -/
def Passage.countIn (p : Passage) : Passage :=
  if p.inCount < countMax then { p with inCount := p.inCount + 1 } else { p with axleOverflow := true }

/-! ### Consist matching (R52 to R54) -/

/-- The profiles 1 to 31 that are candidates at passage start (R2, R44). -/
def startCandidates (im : Images) : List Candidate :=
  ((List.finRange 32).filter fun (i : Fin 32) => i != 0 && im.consist[i].isSome).map fun i => { index := i, deviation := 0 }

/-- A candidate after spacing `k` is observed (R52): removed, or kept with its deviation. A profile whose
signature holds fewer than `k` spacings is not tested. -/
def testCandidate (im : Images) (k observed : Nat) (c : Candidate) : Option Candidate :=
  match im.consist[c.index] with
  | none => none
  | some profile =>
    match profile.signature[k - 1]? with
    | none => some c
    | some expected =>
      let difference := max observed expected - min observed expected
      if profile.tolerance.getD 0 < difference then none
      else some { c with deviation := c.deviation + difference }

/-- A candidate is complete when its signature holds `k` spacings or fewer (R52). -/
def isCompleteCandidate (im : Images) (k : Nat) (c : Candidate) : Bool :=
  match im.consist[c.index] with
  | none => true
  | some profile => profile.signature.length ≤ k

/-- The candidate of least deviation, and of lowest index among equals (R53). -/
def bestCandidate : List Candidate → Option Candidate
  | [] => none
  | c :: rest =>
    match bestCandidate rest with
    | none => some c
    | some b =>
      if c.deviation < b.deviation ∨ (c.deviation = b.deviation ∧ c.index ≤ b.index) then some c else some b

/-- What a spacing decides (R52, R53). -/
inductive Decision where
  | seeking
  | matched (profile : Fin 32)
  | fallback
  deriving DecidableEq, Repr

/-- The decision after spacing `k`, from the candidates left (R53). -/
def decideMatch (im : Images) (k : Nat) (candidates : List Candidate) : Decision :=
  if candidates = [] then .fallback
  else if candidates.all (isCompleteCandidate im k) ∨ k = 8 then
    match bestCandidate (candidates.filter (isCompleteCandidate im k)) with
    | none => .seeking
    | some c => .matched c.index
  else .seeking

/-- The code of a profile; a profile 0 that is not valid has code 0 (R2, R54). -/
def profileCode (im : Images) (i : Fin 32) : Half :=
  match im.consist[i] with
  | none => 0
  | some e => e.code

/-- The pantograph list of a profile; a profile 0 that is not valid has an empty one (R2, R54). -/
def profilePantos (im : Images) (i : Fin 32) : List Panto :=
  match im.consist[i] with
  | none => []
  | some e => e.pantos

/-! ### Window planning (R55 to R57, R77) -/

/-- The distance L from the approach inner detector to the camera plane (R55). -/
def approachDistance (d : Direction) (site : SiteCamera) : Nat :=
  match d with
  | .ab => site.aDistance
  | .ba => site.bDistance

/-- The window of a pantograph on a camera (R55): O and C in µm, O not below 0. -/
def planWindow (l : Nat) (unmatched : Bool) (head : HeadClass) (index : Nat) (p : Panto) : Window where
  panto := index
  headClass := p.headClass
  openPoint := (l + p.offset - head.windowBefore) * 1000
  closePoint := (l + p.offset + head.windowAfter) * 1000
  late := false
  unmatched := unmatched

/-- The windows of a pantograph list on a camera, in ascending pantograph index. A head class that is EMPTY,
which R8 and R10 keep from being named, plans none. -/
def planWindows (im : Images) (l : Nat) (unmatched : Bool) : Nat → List Panto → List Window
  | _, [] => []
  | i, p :: rest =>
    match im.headClasses[p.headClass] with
    | none => planWindows im l unmatched (i + 1) rest
    | some head => planWindow l unmatched head i p :: planWindows im l unmatched (i + 1) rest

/-- Windows ordered by O, those of equal O in ascending pantograph index (R55). -/
def orderWindows : List Window → List Window := orderBy fun v w => v.openPoint ≤ w.openPoint

/-- A window compared with travel at the handover (R56): PENDING, or PENDING with the LATE mark. -/
def handedWindow (travel : Nat) (w : Window) : Window := { w with late := decide (w.openPoint ≤ travel) }

/-- The windows a channel takes into its list: those whose close point travel has not reached (R56, R77). -/
def takenWindows (travel : Nat) (ws : List Window) : List Window :=
  ((orderWindows ws).filter fun w => travel < w.closePoint).map (handedWindow travel)

/-- The plan entry of a window at its handover (R55 to R57). -/
def planEntry (cam : Fin 4) (travel : Nat) (w : Window) : PlanEntry where
  camera := cam
  panto := w.panto
  outcome := if travel < w.closePoint then .pending else .dropped .missed

/-- The windows planned for one camera (R55). -/
def cameraWindows (s : State) (p : Passage) (profile : Fin 32) (unmatched : Bool) (cam : Fin 4) : List Window :=
  match s.siteCamera? cam with
  | none => []
  | some site =>
    planWindows s.tables.active (approachDistance p.direction site) unmatched 0
      (profilePantos s.tables.active profile)

/-- The whole window plan, ordered by camera and then by pantograph index (R55). -/
def windowPlan (s : State) (t : Track) (p : Passage) (profile : Fin 32) (unmatched : Bool) : List PlanEntry :=
  (s.camerasOf t).flatMap fun cam =>
    (cameraWindows s p profile unmatched cam).map (planEntry cam s.channels[cam].travel)

/-- The windows handed to one channel (R55, R77). -/
def handWindows (p : Passage) (profile : Fin 32) (unmatched : Bool) (cam : Fin 4) (s : State) : State :=
  s.modChannel cam fun c =>
    { c with windows := c.windows ++ takenWindows c.travel (cameraWindows s p profile unmatched cam) }

/-- MATCHED or FALLBACK (R53 to R55): the profile field, the window plan, and the windows to the channels. -/
def planPassage (t : Track) (profile : Fin 32) (state : MatchState) (p : Passage) (s : State) : State :=
  let unmatched := state == .fallback
  let planned : Passage :=
    { p with
      matching := state
      profile := some (profile, profileCode s.tables.active profile)
      plan := windowPlan s t p profile unmatched }
  (s.camerasOf t).foldl (fun s cam => handWindows p profile unmatched cam s) (s.setPassage t planned)

/-- A decision of matching is carried out. -/
def applyDecision (t : Track) (d : Decision) (p : Passage) (s : State) : State :=
  match d with
  | .seeking => s.setPassage t p
  | .matched profile => planPassage t profile .matched p s
  | .fallback => planPassage t 0 .fallback p s

/-- Spacing `k` is handed to matching (R52): an absent spacing ends it FALLBACK. -/
def matchSpacing (t : Track) (k : Nat) (spacing : Option Nat) (p : Passage) (s : State) : State :=
  match spacing with
  | none => applyDecision t .fallback { p with spacingsTaken := k } s
  | some d =>
    let left := p.candidates.filterMap (testCandidate s.tables.active k d)
    applyDecision t (decideMatch s.tables.active k left) { p with spacingsTaken := k, candidates := left } s

/-- Whether spacing `k` is handed to matching (R48, R52). -/
def takesSpacing (p : Passage) (k : Nat) : Bool :=
  1 ≤ k && k ≤ 8 && p.matching == .seeking && !p.reversed

/-! ### Passage start (R44, R45) -/

/-- The context of a new passage (R44). -/
def newPassage (s : State) (site : SiteTrack) (x : Crossing) (pace : Nat) : Passage where
  number := s.passageNumber
  direction := match x.station with
    | .a => .ab
    | .b => .ba
  start := x.time
  inCount := 1
  outCount := 0
  axles := [axleOf x none]
  paces := [pace]
  pace := pace
  stale := false
  staleDeadline := later s.time (site.paceHold * 1000 + 1)
  quietDeadline := later s.time (site.quiet * 1000)
  consistGen := s.tables.generation[tableIndex .consist]
  matching := .seeking
  candidates := startCandidates s.tables.active
  spacingsTaken := 0
  profile := none
  reversed := false
  unpairedSeen := false
  paceClamp := x.clamped
  axleOverflow := false
  plan := []

/-- An ARRIVAL starts a passage on a track in IDLE (R44): context, passage number (R46), channels (R66). The
entry is valid while the track is out of OFF (R16, R39). -/
def startPassage (t : Track) (x : Crossing) (pace : Nat) (s : State) : State :=
  match s.siteTrack? t with
  | none => s
  | some site =>
    startChannels t pace
      { s.setPassage t (newPassage s site x pace) with passageNumber := s.passageNumber + 1 }

/-! ### Passage end (R58 to R60, R62, R196) -/

/-- R58: a BALANCED passage whose profile expects another axle count. -/
def axleMismatch (im : Images) (reason : EndReason) (p : Passage) : Bool :=
  match reason, p.profile with
  | .balanced, some (i, _) =>
    match im.consist[i].bind Profile.expectedAxles with
    | none => false
    | some n => n != p.inCount
  | .balanced, none => false
  | .timeout, _ => false
  | .abandoned, _ => false

/-- A match state of SEEKING becomes UNDECIDED at the end (R60). -/
def endMatching : MatchState → MatchState
  | .seeking => .undecided
  | .matched => .matched
  | .fallback => .fallback
  | .undecided => .undecided

/-- The passage summary, built from the context as it stands (R60, R62). -/
def summaryOf (s : State) (t : Track) (reason : EndReason) (p : Passage) : Summary where
  number := p.number
  track := t
  direction := p.direction
  start := p.start
  finish := s.time
  inCount := p.inCount
  outCount := p.outCount
  matching := endMatching p.matching
  profile := p.profile
  consistGen := p.consistGen
  reason := reason
  reversed := p.reversed
  unpairedSeen := p.unpairedSeen
  paceClamp := p.paceClamp
  axleOverflow := p.axleOverflow
  axleMismatch := axleMismatch s.tables.active reason p
  plan := p.plan
  axles := p.axles

/-- The places of the summary queue (R196). -/
def summaryPlaces : Nat := 4

/-- A summary joins its queue, or is dropped and counted when the queue is full (R196). -/
def Uplink.pushSummary (x : Summary) (u : Uplink) : Uplink :=
  if u.summaries.length < summaryPlaces then { u with summaries := u.summaries ++ [x] }
  else { u with summariesLost := bump u.summariesLost }

/-- The settle deadline of a track that enters SETTLING now (R42). -/
def settleDeadline (s : State) (t : Track) : Stamp :=
  match s.siteTrack? t with
  | none => s.time
  | some site => later s.time (site.settle * 1000)

/-- Where a track goes at a passage end: to OFF for DISABLE, else to SETTLING (R60). -/
inductive EndTo where
  | off
  | settling
  deriving DecidableEq, Repr

/-- The track state after a passage end (R42, R60). -/
def endState (s : State) (t : Track) : EndTo → TrackState
  | .off => .off
  | .settling => .settling (settleDeadline s t)

/-- A passage ends (R60): the channels stop, the summary is built and queued, the context is discarded. The summary
and the alerts of the captures that complete arrive together (R194). -/
def endPassage (t : Track) (reason : EndReason) (dest : EndTo) (s : State) : State :=
  let stopped := stopChannels t .ended s
  match stopped.passage? t with
  | none => stopped
  | some p =>
    together s ((stopped.modTrack t fun r => { r with state := endState stopped t dest }).modUplink
      (Uplink.pushSummary (summaryOf stopped t reason p)))

/-! ### A crossing in ACTIVE (R47 to R50, R59) -/

/-- What every crossing taken in ACTIVE does to the context: the quiet deadline restarts (R59), UNPAIRED-SEEN and
PACE-CLAMP are set by their flags (R47). -/
def Passage.touch (now : Stamp) (quiet : Nat) (x : Crossing) (p : Passage) : Passage :=
  { p with
    quietDeadline := later now (quiet * 1000)
    unpairedSeen := p.unpairedSeen || x.kind == .unpaired
    paceClamp := p.paceClamp || x.clamped }

/-- The appending of an approach crossing and what its spacing decides (R48, R52). -/
def appendAxle (t : Track) (x : Crossing) (p : Passage) (s : State) : State :=
  if p.axles.length < axlePlaces then
    let spacing := p.axles.getLast?.bind fun last => spacingAfter last x
    let grown : Passage := { p with axles := p.axles ++ [axleOf x spacing] }
    if takesSpacing p p.axles.length then matchSpacing t p.axles.length spacing grown s else s.setPassage t grown
  else s.setPassage t p

/-- ARRIVAL or UNPAIRED at the approach station (R47, R48, R50). -/
def axleIn (t : Track) (site : SiteTrack) (x : Crossing) (p : Passage) (s : State) : State :=
  appendAxle t x (p.countIn.takeCrossingPace s.time site.paceHold x) s

/-- DEPARTURE or UNPAIRED at the far station (R47, R50, R58). -/
def axleOut (t : Track) (site : SiteTrack) (x : Crossing) (p : Passage) (s : State) : State :=
  let paced := p.takeCrossingPace s.time site.paceHold x
  if p.outCount < p.inCount then
    let counted := s.setPassage t { paced with outCount := p.outCount + 1 }
    if p.outCount + 1 = p.inCount then endPassage t .balanced .settling counted else counted
  else strayAxle t (s.setPassage t paced)

/-- The first reversal of a passage (R49): REVERSED is set, the channels stop, PENDING windows are dropped. -/
def markReversed (t : Track) (s : State) : State :=
  match s.passage? t with
  | none => s
  | some p =>
    if p.reversed then s else stopChannels t .reversal (s.setPassage t { p with reversed := true })

/-- DEPARTURE at the approach station: in goes down if it is above out, else a stray axle (R49). -/
def backOut (t : Track) (p : Passage) (s : State) : State :=
  markReversed t
    (if p.outCount < p.inCount then s.setPassage t { p with inCount := p.inCount - 1 }
     else strayAxle t (s.setPassage t p))

/-- ARRIVAL at the far station: out goes down if it is above 0, else a stray axle (R49). -/
def backIn (t : Track) (p : Passage) (s : State) : State :=
  markReversed t
    (if 0 < p.outCount then s.setPassage t { p with outCount := p.outCount - 1 }
     else strayAxle t (s.setPassage t p))

/-- A crossing that reaches a track in ACTIVE (R47, R49). -/
def crossActive (t : Track) (site : SiteTrack) (x : Crossing) (p : Passage) (s : State) : State :=
  let q := p.touch s.time site.quiet x
  match crossingRole p.direction x with
  | .axleIn => axleIn t site x q s
  | .axleOut => axleOut t site x q s
  | .backOut => backOut t q s
  | .backIn => backIn t q s

/-- A crossing reaches a track in IDLE (R43): an ARRIVAL starts a passage, any other is a stray axle. -/
def crossIdle (t : Track) (x : Crossing) (s : State) : State :=
  match x.kind with
  | .arrival pace _ => startPassage t x pace s
  | .departure _ _ => strayAxle t s
  | .unpaired => strayAxle t s

/-- A crossing is taken by the track's state (R43, R47). -/
def takeCrossing (t : Track) (x : Crossing) (s : State) : State :=
  match (s.track t).state with
  | .off => strayAxle t s
  | .settling _ => strayAxle t s
  | .idle => crossIdle t x s
  | .active p =>
    match s.siteTrack? t with
    | none => s
    | some site => crossActive t site x p s

/-! ### Deadlines (R42, R51, R59) -/

/-- The stale expiry (R51): the mark is set, the history emptied, the pace becomes the default pace. -/
def Passage.goStale (site : SiteTrack) (p : Passage) : Passage :=
  { p with stale := true, paces := [], pace := site.defaultPace }

/-- STALE_EXPIRY at a track: when the stale deadline is reached and the mark is not yet set (R51). -/
def staleNow (t : Track) (s : State) : State :=
  match s.passage? t, s.siteTrack? t with
  | some p, some site =>
    if !p.stale && reached s.time p.staleDeadline then s.setPassage t (p.goStale site) else s
  | _, _ => s

/-- QUIET_DEADLINE at a track: when the quiet deadline is reached, the passage ends TIMEOUT (R59). -/
def quietNow (t : Track) (s : State) : State :=
  match s.passage? t with
  | none => s
  | some p => if reached s.time p.quietDeadline then endPassage t .timeout .settling s else s

/-- SETTLE_EXPIRY at a track: when the settle deadline is reached, SETTLING goes to IDLE (R42). -/
def settleNow (t : Track) (s : State) : State :=
  match (s.track t).state with
  | .settling deadline => if reached s.time deadline then s.modTrack t fun r => { r with state := .idle } else s
  | .off | .idle | .active _ => s

/-! ### The meanings -/

/-- STALE_EXPIRY (R51). -/
def execStaleExpiry (after : Nat) (track : Track) (s : State) : Outcome := timed after (staleNow track) s

/-- QUIET_DEADLINE (R59). -/
def execQuietDeadline (after : Nat) (track : Track) (s : State) : Outcome := timed after (quietNow track) s

/-- SETTLE_EXPIRY (R42). -/
def execSettleExpiry (after : Nat) (track : Track) (s : State) : Outcome := timed after (settleNow track) s

end Sys2Proof.Machine
end

