-- ==== Sys2Proof/Machine/Axles.lean ====
section
/-! DEFINITION. The Axle Detection Unit (chapter 2): acceptance stages, glitches, station pairing and axle pace.
The meanings of LEADING_EDGE, TRAILING_EDGE, PULSE_ACCEPTED and PAIR_TIMEOUT. -/

namespace Sys2Proof.Machine

/-! ### Lines (R21) -/

/-- The track of a line (R21). -/
def lineTrack (l : Fin 8) : Track := if l < 4 then .t1 else .t2

/-- The station of a line (R21). -/
def lineStation (l : Fin 8) : Station := if l.val % 4 < 2 then .a else .b

/-- The detector of a line: WL0, WL3, WL4 and WL7 are outer detectors (R21). -/
def lineDetector (l : Fin 8) : Detector := if l.val % 4 = 0 ∨ l.val % 4 = 3 then .outer else .inner

/-! ### Acceptance (R23, R24) -/

/-- The time a pulse is qualified for, in ns: 40 µs (R23). -/
def qualifyNs : Nat := 40000

/-- A leading edge on a line at rest begins to qualify a pulse (R23). A line that is active already has no
leading edge (R24). -/
def Line.rise (now : Stamp) (l : Line) : Line :=
  if l.active then l else { active := true, stage := .qualifying now 0 }

/-- A line that rises while RSTN is low: its level alone changes (R24). -/
def Line.riseInReset (l : Line) : Line := { l with active := true }

/-- A trailing edge: the line is at rest, and its stage takes the next leading edge (R24). -/
def Line.fall (l : Line) : Line := if l.active then { active := false, stage := .ready } else l

/-- A line that falls while RSTN is low: its level alone changes (R24). -/
def Line.fallInReset (l : Line) : Line := { l with active := false }

/-- A trailing edge taken now makes a glitch: the line is active, its pulse is still being qualified, and its 40 µs
have not passed, or end at this moment (R23). -/
def Line.glitches (l : Line) : Bool :=
  l.active && match l.stage with
    | .qualifying _ elapsed => decide (elapsed ≤ qualifyNs)
    | .waitRest | .ready | .accepted => false

/-- The leading-edge time of a pulse whose 40 µs have passed with the line active (R23). -/
def Line.accepts (l : Line) : Option Stamp :=
  match l.stage with
  | .qualifying lead elapsed => if l.active ∧ qualifyNs ≤ elapsed then some lead else none
  | .waitRest | .ready | .accepted => none

/-! ### Axle pace (R31) -/

/-- The axle pace before the clamp (R31). -/
def rawPace (us spacing : Nat) : Nat := (us * 1000 + spacing / 2) / spacing

/-- The axle pace and its CLAMPED flag (R31). -/
def axlePace (us spacing : Nat) : Nat × Bool :=
  let pace := rawPace us spacing
  if pace < 8333 then (8333, true) else if 1000000 < pace then (1000000, true) else (pace, false)

/-! ### Pairing (R25 to R29) -/

/-- The detector spacing of a station (R4). -/
def spacingOf (e : SiteTrack) : Station → Nat
  | .a => e.spacingA
  | .b => e.spacingB

/-- The deadline of a wait: first time + spacing × 1,000 µs + 40 µs (R25). -/
def waitDeadline (first : Stamp) (spacing : Nat) : Stamp := later first (spacing * 1000 + 40)

/-- The wait a pulse starts (R26): none when the track's active site entry is not valid. -/
def newWait (s : State) (t : Track) (st : Station) (d : Detector) (time : Stamp) : Option Wait :=
  (s.siteTrack? t).map fun site =>
    { seen := d, first := time, spacing := spacingOf site st
      deadline := waitDeadline time (spacingOf site st) }

/-- The crossing of a pair (R27, R28): ARRIVAL at the inner pulse that ends it, DEPARTURE at the inner pulse that
began it. -/
def pairCrossing (st : Station) (w : Wait) (time : Stamp) : Crossing :=
  let pace := axlePace (since time w.first) w.spacing
  match w.seen with
  | .outer => { station := st, kind := .arrival pace.1 pace.2, time := time }
  | .inner => { station := st, kind := .departure pace.1 pace.2, time := w.first }

/-- The crossing of a waiting pulse that found no partner (R27 to R29). -/
def unpairedCrossing (st : Station) (w : Wait) : Crossing :=
  { station := st, kind := .unpaired, time := w.first }

/-- An accepted pulse is taken by the pairing record of its station (R26 to R28). The Passage Tracker takes the crossing it
makes in the same command, so always before a reset that follows and never after it (R37; DESIGN CHOICE, unsafe: log
entry 20). -/
def takePulse (t : Track) (st : Station) (d : Detector) (time : Stamp) (s : State) : State :=
  match s.stations[stationIndex t st] with
  | none => s.setStation (stationIndex t st) (newWait s t st d time)
  | some w =>
    if w.seen = d then
      takeCrossing t (unpairedCrossing st w)
        ((s.setStation (stationIndex t st) (newWait s t st d time)).bumpUnpaired (stationIndex t st))
    else takeCrossing t (pairCrossing st w time) (s.setStation (stationIndex t st) none)

/-- A wait expires when the Timestamp Counter reaches its deadline (R29); a station in CLEAR has none. The Passage Tracker
takes the crossing in the same command, so always before a reset that follows (R37; DESIGN CHOICE, unsafe: log entry 20). -/
def expireWait (t : Track) (st : Station) (s : State) : State :=
  match s.stations[stationIndex t st] with
  | none => s
  | some w =>
    if reached s.time w.deadline then
      takeCrossing t (unpairedCrossing st w)
        ((s.setStation (stationIndex t st) none).bumpUnpaired (stationIndex t st))
    else s

/-- A pulse is accepted on a line (R23): its stage waits for the trailing edge, and the pulse goes to its station. -/
def acceptPulse (l : Fin 8) (s : State) : State :=
  match s.lines[l].accepts with
  | none => s
  | some time =>
    takePulse (lineTrack l) (lineStation l) (lineDetector l) time
      (s.modLine l fun x => { x with stage := .accepted })

/-- A trailing edge on a line (R23): a glitch, which is counted (R35); or the end of an accepted pulse. A pulse whose
40 µs have passed and whose PULSE_ACCEPTED has not come is accepted first (DESIGN CHOICE, safe: log entry 2). -/
def trailingEdge (l : Fin 8) (s : State) : State :=
  if s.lines[l].glitches then (s.modLine l Line.fall).bumpGlitch l else (acceptPulse l s).modLine l Line.fall

/-- A change of a line's level: while RSTN is low the pin alone follows it (R24, R205). -/
def lineEvent (l : Fin 8) (inReset : Line → Line) (live : State → State) (s : State) : State :=
  if s.rstnLow then s.modLine l inReset else live s

/-! ### The meanings -/

/-- LEADING_EDGE (R23). -/
def execLeadingEdge (after : Nat) (line : Fin 8) (s : State) : Outcome :=
  .next (lineEvent line Line.riseInReset (fun s => s.modLine line (Line.rise s.time)) (s.pass after))

/-- TRAILING_EDGE (R23). -/
def execTrailingEdge (after : Nat) (line : Fin 8) (s : State) : Outcome :=
  .next (lineEvent line Line.fallInReset (trailingEdge line) (s.pass after))

/-- PULSE_ACCEPTED (R23). -/
def execPulseAccepted (after : Nat) (line : Fin 8) (s : State) : Outcome := timed after (acceptPulse line) s

/-- PAIR_TIMEOUT (R29). -/
def execPairTimeout (after : Nat) (track : Track) (station : Station) (s : State) : Outcome :=
  timed after (expireWait track station) s

end Sys2Proof.Machine
end

