-- ==== Sys2Proof/Machine/Tables.lean ====
section
/-! DEFINITION. The Table Store (chapter 1): the bytes of a staged entry (R202), its ranges (R4, R5, R7, R9, R11),
the checks of a staging command (R14), the checks of a COMMIT (R6, R8, R10, R16) and the commit itself (R17). -/

namespace Sys2Proof.Machine

/-! ### Entries -/

/-- The kinds of entry (R1, R202); a profile's index decides what R7 asks of it. -/
inductive EntryKind where
  | siteTrack | siteCamera | profile | headClass | blankMap
  deriving DecidableEq, Repr

/-- A table entry that holds fields. -/
inductive TableEntry where
  | siteTrack (e : SiteTrack)
  | siteCamera (e : SiteCamera)
  | profile (e : Profile)
  | headClass (e : HeadClass)
  | blankMap (e : BlankEntry)
  deriving DecidableEq, Repr

/-- The entries of each table (R1). -/
def tableSize : TableId → Nat
  | .site => 6
  | .consist => 32
  | .headClass => 16
  | .blankMap => 4

/-- The kind of an entry follows from the table and the index (R1, R202). -/
def entryKind (t : TableId) (index : Nat) : EntryKind :=
  match t with
  | .site => if index < 2 then .siteTrack else .siteCamera
  | .consist => .profile
  | .headClass => .headClass
  | .blankMap => .blankMap

/-- The table a code byte names (R199). -/
def tableOf (code : Byte) : Option TableId :=
  match code.toNat with
  | 1 => some .site
  | 2 => some .consist
  | 3 => some .headClass
  | 4 => some .blankMap
  | _ => none

/-- The code of a table (R199). -/
def tableCode : TableId → Nat
  | .site => 1
  | .consist => 2
  | .headClass => 3
  | .blankMap => 4

/-! ### Ranges (R4, R5, R7, R9, R11) -/

/-- R4: the ranges of a site track entry; the quiet time is greater than the pace hold time. -/
abbrev SiteTrack.InRange (e : SiteTrack) : Prop :=
  300 ≤ e.spacingA ∧ e.spacingA ≤ 1500 ∧ 300 ≤ e.spacingB ∧ e.spacingB ≤ 1500
    ∧ 8333 ≤ e.defaultPace ∧ e.defaultPace ≤ 1000000
    ∧ 500 ≤ e.paceHold ∧ e.paceHold ≤ 30000
    ∧ 1000 ≤ e.quiet ∧ e.quiet ≤ 60000
    ∧ e.settle ≤ 5000 ∧ e.paceHold < e.quiet

/-- R5: the ranges of a site camera entry. -/
abbrev SiteCamera.InRange (e : SiteCamera) : Prop :=
  5000 ≤ e.aDistance ∧ e.aDistance ≤ 400000 ∧ 5000 ≤ e.bDistance ∧ e.bDistance ≤ 400000
    ∧ 250 ≤ e.pitch ∧ e.pitch ≤ 5000
    ∧ 5000 ≤ e.periodMin ∧ e.periodMin ≤ 200000
    ∧ e.periodMin ≤ e.periodMax ∧ e.periodMax ≤ 2000000
    ∧ 1 ≤ e.slope ∧ e.slope ≤ 4096
    ∧ 64 ≤ e.rowLimit ∧ e.rowLimit ≤ 4096
    ∧ 100 ≤ e.rowTimeout ∧ e.rowTimeout ≤ 10000
    ∧ e.repairLimit ≤ 16

/-- R7: the fields of a profile that every profile has. -/
abbrev Profile.CommonRange (e : Profile) : Prop :=
  (∀ n ∈ e.expectedAxles, 2 ≤ n ∧ n ≤ 1023) ∧ e.pantos.length ≤ 4 ∧ ∀ p ∈ e.pantos, p.offset ≤ 400000

/-- R7: profile 0 has neither a signature nor a tolerance; profiles 1 to 31 have a signature of 2 to 8
spacings, a tolerance and at least one pantograph. -/
abbrev Profile.InRange (index : Nat) (e : Profile) : Prop :=
  Profile.CommonRange e ∧
    if index = 0 then e.signature = [] ∧ e.tolerance = none
    else
      2 ≤ e.signature.length ∧ e.signature.length ≤ 8
        ∧ (∀ d ∈ e.signature, 1500 ≤ d ∧ d ≤ 30000)
        ∧ e.tolerance.isSome ∧ (∀ t ∈ e.tolerance, 10 ≤ t ∧ t ≤ 500)
        ∧ 1 ≤ e.pantos.length

/-- R9: the ranges of a head class. -/
abbrev HeadClass.InRange (e : HeadClass) : Prop :=
  500 ≤ e.nominal ∧ e.nominal ≤ 6000
    ∧ 100 ≤ e.wearLimit ∧ e.wearLimit < e.nominal
    ∧ 10 ≤ e.stepLimit ∧ e.stepLimit ≤ 2000
    ∧ 50 ≤ e.windowBefore ∧ e.windowBefore ≤ 2000
    ∧ 50 ≤ e.windowAfter ∧ e.windowAfter ≤ 2000
    ∧ 1 ≤ e.referenceThreshold ∧ e.referenceThreshold ≤ 254
    ∧ 1 ≤ e.stripThreshold ∧ e.stripThreshold ≤ 254
    ∧ e.minGap ≤ 63
    ∧ 1 ≤ e.minValid ∧ e.minValid ≤ 8
    ∧ e.firstCell ≤ e.lastCell ∧ e.lastCell ≤ 255

/-- R11: the ranges of a blank run. -/
abbrev BlankRun.InRange (r : BlankRun) : Prop :=
  r.firstCell ≤ r.lastCell ∧ r.lastCell ≤ 255 ∧ r.pattern ≠ 0

/-- R11: the ranges of a blank map entry. -/
abbrev BlankEntry.InRange (e : BlankEntry) : Prop :=
  e.runs.length ≤ 16 ∧ ∀ r ∈ e.runs, r.InRange

/-- The range check of an entry staged at an index (R14, step 3). -/
def TableEntry.inRange (index : Nat) : TableEntry → Bool
  | .siteTrack e => decide e.InRange
  | .siteCamera e => decide e.InRange
  | .profile e => decide (e.InRange index)
  | .headClass e => decide e.InRange
  | .blankMap e => decide e.InRange

/-! ### The bytes of an entry (R202) -/

/-- An entry as its bytes give it, before the range check: the numbers of its fields. -/
inductive RawEntry where
  | fixed (kind : EntryKind) (fields : List Nat)
  | profile (code : Nat) (signature : List Nat) (tolerance expected : Nat) (pantos : List (Nat × Nat))
  | blankMap (fill : Nat) (runs : List (Nat × Nat × Nat))
  deriving DecidableEq, Repr

/-- Field widths of a site track entry. -/
def siteTrackWidths : List Nat := [1, 2, 2, 4, 2, 2, 2]

/-- Field widths of a site camera entry. -/
def siteCameraWidths : List Nat := [1, 1, 4, 4, 2, 4, 4, 2, 1, 2, 2, 1]

/-- Field widths of a head class. -/
def headClassWidths : List Nat := [2, 2, 2, 2, 2, 1, 1, 1, 1, 1, 1, 2]

/-- Read a counted list of pantographs: offset 4, head class 1. -/
def takePantos : Nat → List Byte → Option (List (Nat × Nat) × List Byte)
  | 0, bs => some ([], bs)
  | n + 1, bs => do
    let (offset, bs) ← takeNum 4 bs
    let (cls, bs) ← takeNum 1 bs
    let (rest, bs) ← takePantos n bs
    return ((offset, cls) :: rest, bs)

/-- Read a counted list of blank runs: first cell 1, last cell 1, column pattern 1. -/
def takeRuns : Nat → List Byte → Option (List (Nat × Nat × Nat) × List Byte)
  | 0, bs => some ([], bs)
  | n + 1, bs => do
    let (first, bs) ← takeNum 1 bs
    let (last, bs) ← takeNum 1 bs
    let (pattern, bs) ← takeNum 1 bs
    let (rest, bs) ← takeRuns n bs
    return ((first, last, pattern) :: rest, bs)

/-- Read the fields of an entry of a kind; nothing when the bytes run out before the last field (R14, step 2). -/
def takeEntry (kind : EntryKind) (bs : List Byte) : Option (RawEntry × List Byte) :=
  match kind with
  | .siteTrack => do
    let (fields, bs) ← takeNums siteTrackWidths bs
    return (.fixed .siteTrack fields, bs)
  | .siteCamera => do
    let (fields, bs) ← takeNums siteCameraWidths bs
    return (.fixed .siteCamera fields, bs)
  | .headClass => do
    let (fields, bs) ← takeNums headClassWidths bs
    return (.fixed .headClass fields, bs)
  | .profile => do
    let (code, bs) ← takeNum 2 bs
    let (count, bs) ← takeNum 1 bs
    let (signature, bs) ← takeNums (List.replicate count 2) bs
    let (tolerance, bs) ← takeNum 2 bs
    let (expected, bs) ← takeNum 2 bs
    let (count, bs) ← takeNum 1 bs
    let (pantos, bs) ← takePantos count bs
    return (.profile code signature tolerance expected pantos, bs)
  | .blankMap => do
    let (fill, bs) ← takeNum 1 bs
    let (count, bs) ← takeNum 1 bs
    let (runs, bs) ← takeRuns count bs
    return (.blankMap fill runs, bs)

/-- A camera's track field: 00h none, 01h track 1, 02h track 2 (R199). -/
def cameraTrackOf : Nat → Option (Option Track)
  | 0 => some none
  | 1 => some (some .t1)
  | 2 => some (some .t2)
  | _ => none

/-- A role code: 00h IMAGE, 01h PROFILE (R199). -/
def roleOf : Nat → Option Role
  | 0 => some .image
  | 1 => some .profile
  | _ => none

/-- A yes-or-no byte (R199). -/
def flagOf : Nat → Option Bool
  | 0 => some false
  | 1 => some true
  | _ => none

/-- A number whose value 0 carries absence (R199, R202). -/
def optionalOf (n : Nat) : Option Nat := if n = 0 then none else some n

/-- The pantograph of an offset and a head class index, which is 0 to 15 (R7). -/
def pantoOf (p : Nat × Nat) : Option Panto :=
  if h : p.2 < 16 then some { offset := p.1, headClass := ⟨p.2, h⟩ } else none

/-- The fields of an entry read as its kind; nothing when a byte holds no code of its field or a head class
index is beyond 15. The model takes such a byte as a field out of range, in step 3 of R14 (DEDUCED, unsafe: log entry 6). -/
def entryOf : RawEntry → Option TableEntry
  | .fixed .siteTrack [valid, a, b, pace, hold, quiet, settle] => do
    let valid ← flagOf valid
    return .siteTrack
      { valid := valid, spacingA := a, spacingB := b, defaultPace := pace, paceHold := hold, quiet := quiet
        settle := settle }
  | .fixed .siteCamera [track, role, a, b, pitch, periodMin, periodMax, slope, kept, limit, timeout, repair] => do
    let track ← cameraTrackOf track
    let role ← roleOf role
    return .siteCamera
      { track := track, role := role, aDistance := a, bDistance := b, pitch := pitch, periodMin := periodMin
        periodMax := periodMax, slope := slope, kept := BitVec.ofNat 8 kept, rowLimit := limit
        rowTimeout := timeout, repairLimit := repair }
  | .fixed .headClass [nominal, wear, step, before, after, ref, strip, gap, valid, first, last, mask] =>
    some <| .headClass
      { nominal := nominal, wearLimit := wear, stepLimit := step, windowBefore := before, windowAfter := after
        referenceThreshold := ref, stripThreshold := strip, minGap := gap, minValid := valid, firstCell := first
        lastCell := last, alertMask := BitVec.ofNat 16 mask }
  | .fixed _ _ => none
  | .profile code signature tolerance expected pantos => do
    let pantos ← pantos.mapM pantoOf
    return .profile
      { code := BitVec.ofNat 16 code, signature := signature, tolerance := optionalOf tolerance
        expectedAxles := optionalOf expected, pantos := pantos }
  | .blankMap fill runs =>
    some <| .blankMap
      { fill := BitVec.ofNat 8 fill
        runs := runs.map fun r =>
          { firstCell := r.1, lastCell := r.2.1, pattern := BitVec.ofNat 8 r.2.2 } }

/-- The entry of the fields staged at an index, if every field is in range (R14, step 3). -/
def checkEntry (index : Nat) (raw : RawEntry) : Option TableEntry :=
  match entryOf raw with
  | none => none
  | some e => if e.inRange index then some e else none

/-- The fields of an entry as bytes, in the order of R202. -/
def entryBytes : TableEntry → List Byte
  | .siteTrack e =>
    beBytes 1 (yesNo e.valid) ++ beBytes 2 e.spacingA ++ beBytes 2 e.spacingB ++ beBytes 4 e.defaultPace
      ++ beBytes 2 e.paceHold ++ beBytes 2 e.quiet ++ beBytes 2 e.settle
  | .siteCamera e =>
    beBytes 1 (match e.track with | none => 0 | some .t1 => 1 | some .t2 => 2)
      ++ beBytes 1 (match e.role with | .image => 0 | .profile => 1)
      ++ beBytes 4 e.aDistance ++ beBytes 4 e.bDistance ++ beBytes 2 e.pitch ++ beBytes 4 e.periodMin
      ++ beBytes 4 e.periodMax ++ beBytes 2 e.slope ++ beBytes 1 e.kept.toNat ++ beBytes 2 e.rowLimit
      ++ beBytes 2 e.rowTimeout ++ beBytes 1 e.repairLimit
  | .profile e =>
    beBytes 2 e.code.toNat ++ beBytes 1 e.signature.length ++ e.signature.flatMap (beBytes 2)
      ++ beBytes 2 (e.tolerance.getD 0) ++ beBytes 2 (e.expectedAxles.getD 0) ++ beBytes 1 e.pantos.length
      ++ e.pantos.flatMap fun p => beBytes 4 p.offset ++ beBytes 1 p.headClass.val
  | .headClass e =>
    beBytes 2 e.nominal ++ beBytes 2 e.wearLimit ++ beBytes 2 e.stepLimit ++ beBytes 2 e.windowBefore
      ++ beBytes 2 e.windowAfter ++ beBytes 1 e.referenceThreshold ++ beBytes 1 e.stripThreshold
      ++ beBytes 1 e.minGap ++ beBytes 1 e.minValid ++ beBytes 1 e.firstCell ++ beBytes 1 e.lastCell
      ++ beBytes 2 e.alertMask.toNat
  | .blankMap e =>
    beBytes 1 e.fill.toNat ++ beBytes 1 e.runs.length
      ++ e.runs.flatMap fun r => beBytes 1 r.firstCell ++ beBytes 1 r.lastCell ++ beBytes 1 r.pattern.toNat

/-- An entry as a staged entry is encoded after its index byte: a form byte, then the fields (R202, R203). -/
def formBytes : Option TableEntry → List Byte
  | none => beBytes 1 0
  | some e => beBytes 1 1 ++ entryBytes e

/-! ### Images -/

/-- The entry at an index of a table's image; nothing outside the table. The inner `none` is EMPTY. -/
def Images.entry (im : Images) (t : TableId) (index : Nat) : Option (Option TableEntry) :=
  match t with
  | .site =>
    if h : index < 2 then some (im.siteTracks[index].map .siteTrack)
    else if h : index - 2 < 4 then some (im.siteCameras[index - 2].map .siteCamera)
    else none
  | .consist => if h : index < 32 then some (im.consist[index].map .profile) else none
  | .headClass => if h : index < 16 then some (im.headClasses[index].map .headClass) else none
  | .blankMap => if h : index < 4 then some (im.blankMap[index].map .blankMap) else none

/-- Make one entry EMPTY. -/
def Images.clearEntry (im : Images) (t : TableId) (index : Nat) : Images :=
  match t with
  | .site =>
    if h : index < 2 then { im with siteTracks := im.siteTracks.set index none }
    else if h : index - 2 < 4 then { im with siteCameras := im.siteCameras.set (index - 2) none }
    else im
  | .consist => if h : index < 32 then { im with consist := im.consist.set index none } else im
  | .headClass => if h : index < 16 then { im with headClasses := im.headClasses.set index none } else im
  | .blankMap => if h : index < 4 then { im with blankMap := im.blankMap.set index none } else im

/-- Put the fields of an entry at an index. -/
def Images.putEntry (im : Images) (index : Nat) (e : TableEntry) : Images :=
  match e with
  | .siteTrack x => if h : index < 2 then { im with siteTracks := im.siteTracks.set index (some x) } else im
  | .siteCamera x =>
    if h : index - 2 < 4 then { im with siteCameras := im.siteCameras.set (index - 2) (some x) } else im
  | .profile x => if h : index < 32 then { im with consist := im.consist.set index (some x) } else im
  | .headClass x => if h : index < 16 then { im with headClasses := im.headClasses.set index (some x) } else im
  | .blankMap x => if h : index < 4 then { im with blankMap := im.blankMap.set index (some x) } else im

/-- Give one named entry its contents, EMPTY included (R12, R13). -/
def Images.stage (t : TableId) (im : Images) (x : Nat × Option TableEntry) : Images :=
  match x.2 with
  | none => im.clearEntry t x.1
  | some e => im.putEntry x.1 e

/-- Every entry of one table EMPTY. -/
def Images.clear (im : Images) (t : TableId) : Images :=
  match t with
  | .site =>
    { im with siteTracks := Images.empty.siteTracks, siteCameras := Images.empty.siteCameras }
  | .consist => { im with consist := Images.empty.consist }
  | .headClass => { im with headClasses := Images.empty.headClasses }
  | .blankMap => { im with blankMap := Images.empty.blankMap }

/-- Copy every entry of one table from one image to another (R17). -/
def Images.copy (source target : Images) (t : TableId) : Images :=
  match t with
  | .site => { target with siteTracks := source.siteTracks, siteCameras := source.siteCameras }
  | .consist => { target with consist := source.consist }
  | .headClass => { target with headClasses := source.headClasses }
  | .blankMap => { target with blankMap := source.blankMap }

/-! ### The checks of a staging command (R14) -/

/-- Steps 1 and 2 of R14 over the bytes after the entry count: the entries in order, each decoded. The error is
the index the reply carries, or none. -/
def readEntries (t : TableId) : Nat → List Nat → List Byte → Except (Option Nat) (List (Nat × Option RawEntry))
  | 0, _, [] => .ok []
  | 0, _, _ :: _ => .error none
  | _ + 1, _, [] => .error none
  | n + 1, seen, b :: bs =>
    let index := b.toNat
    if tableSize t ≤ index ∨ index ∈ seen then .error (some index)
    else match bs with
      | [] => .error (some index)
      | form :: bs =>
        if form = 0 then
          match readEntries t n (index :: seen) bs with
          | .error e => .error e
          | .ok rest => .ok ((index, none) :: rest)
        else if form = 1 then
          match takeEntry (entryKind t index) bs with
          | none => .error (some index)
          | some (raw, bs) =>
            match readEntries t n (index :: seen) bs with
            | .error e => .error e
            | .ok rest => .ok ((index, some raw) :: rest)
        else .error (some index)

/-- Step 3 of R14: the range check of each entry that is not EMPTY, in order. -/
def checkEntries : List (Nat × Option RawEntry) → Except (Option Nat) (List (Nat × Option TableEntry))
  | [] => .ok []
  | (index, none) :: rest =>
    match checkEntries rest with
    | .error e => .error e
    | .ok out => .ok ((index, none) :: out)
  | (index, some raw) :: rest =>
    match checkEntry index raw with
    | none => .error (some index)
    | some e =>
      match checkEntries rest with
      | .error x => .error x
      | .ok out => .ok ((index, some e) :: out)

/-- The whole check of a STAGE-LOAD or STAGE-PATCH (R14): the table and the entries to stage, or the index the
refusal carries. -/
def stageCheck (params : List Byte) : Except (Option Nat) (TableId × List (Nat × Option TableEntry)) :=
  match params with
  | [] => .error none
  | table :: rest =>
    match tableOf table with
    | none => .error none
    | some t =>
      match rest with
      | [] => .error none
      | count :: bs =>
        match readEntries t count.toNat [] bs with
        | .error e => .error e
        | .ok raws =>
          match checkEntries raws with
          | .error e => .error e
          | .ok entries => .ok (t, entries)

/-- R12: the staging image replaced as a whole. -/
def stageLoaded (t : TableId) (entries : List (Nat × Option TableEntry)) (im : Images) : Images :=
  entries.foldl (Images.stage t) (im.clear t)

/-- R13: only the named entries changed. -/
def stagePatched (t : TableId) (entries : List (Nat × Option TableEntry)) (im : Images) : Images :=
  entries.foldl (Images.stage t) im

/-! ### The checks of a COMMIT (R6, R8, R10, R16) -/

/-- A track is in IDLE, ACTIVE or SETTLING (R16, row 3). -/
def TrackState.isOn : TrackState → Bool
  | .off => false
  | .idle | .active _ | .settling _ => true

/-- A track is ACTIVE (R16, row 4). -/
def TrackState.isActive : TrackState → Bool
  | .active _ => true
  | .off | .idle | .settling _ => false

/-- R16, rows 3 and 4: a COMMIT of the table finds the part busy. -/
def commitBusy (t : TableId) (s : State) : Bool :=
  match t with
  | .site => (s.track .t1).state.isOn || (s.track .t2).state.isOn
  | .consist | .headClass => (s.track .t1).state.isActive || (s.track .t2).state.isActive
  | .blankMap => false

/-- R6: a staged camera names a track whose staged entry is not valid. -/
def cameraFails (staging : Images) (c : Fin 4) : Bool :=
  match staging.siteCameras[c] with
  | none => false
  | some e => match e.track with
    | none => false
    | some t => (staging.siteTracks[trackIndex t].filter (·.valid)).isNone

/-- R8: a staged profile holds a pantograph whose head class is not valid in the active head class table. -/
def profileFails (staging active : Images) (i : Fin 32) : Bool :=
  match staging.consist[i] with
  | none => false
  | some e => e.pantos.any fun p => active.headClasses[p.headClass].isNone

/-- R10: a head class that is EMPTY in staging is named by a valid profile of the active consist table. -/
def classFails (staging active : Images) (k : Fin 16) : Bool :=
  staging.headClasses[k].isNone
    && (List.finRange 32).any fun i => match active.consist[i] with
      | none => false
      | some e => e.pantos.any fun p => p.headClass == k

/-- R16, row 5: the status and the first failing entry of the completeness or reference check. -/
def commitFailure (t : TableId) (staging active : Images) : Option (Status × Nat) :=
  match t with
  | .site => (cameras.find? (cameraFails staging)).map fun c => (.invalid, c.val + 2)
  | .consist =>
    if staging.consist[0].isNone then some (.invalid, 0)
    else ((List.finRange 32).find? (profileFails staging active)).map fun i => (.reference, i.val)
  | .headClass => ((List.finRange 16).find? (classFails staging active)).map fun k => (.reference, k.val)
  | .blankMap => none

/-- R17: the commit is taken. -/
def commitTaken (t : TableId) (x : Tables) : Tables :=
  { x with
    active := x.staging.copy x.active t
    generation := upd x.generation (tableIndex t) fun g => g + 1
    loaded := upd x.loaded (tableIndex t) fun _ => true }

end Sys2Proof.Machine
end

