-- ==== Sys2Proof/Machine/Records.lean ====
section
/-! DEFINITION. The bodies of the records the part sends (R199, R203, R204): status codes, the STATUS report, the
alert, the passage summary, the camera note, and the capture records. -/

namespace Sys2Proof.Machine

/-! ### Codes (R199) -/

def statusCode : Status → Nat
  | .ok => 0
  | .busy => 1
  | .latch => 2
  | .invalid => 3
  | .reference => 4
  | .range => 5
  | .state => 6
  | .full => 7
  | .unknown => 8

def trackStateCode : TrackState → Nat
  | .off => 0
  | .idle => 1
  | .active _ => 2
  | .settling _ => 3

def directionCode : Direction → Nat
  | .ab => 0
  | .ba => 1

def matchCode : MatchState → Nat
  | .seeking => 0
  | .matched => 1
  | .fallback => 2
  | .undecided => 3

def endCode : EndReason → Nat
  | .balanced => 1
  | .timeout => 2
  | .abandoned => 3

def closeCode : CloseReason → Nat
  | .none => 0
  | .cut => 1
  | .limit => 2
  | .short => 3

def roleCode : Role → Nat
  | .image => 0
  | .profile => 1

def trackNumber : Track → Nat
  | .t1 => 1
  | .t2 => 2

/-- The code of a window outcome and its capture id byte (R199, R203). An entry still PENDING does not appear in
a summary (R57); it is given the code of DROPPED ENDED (DESIGN CHOICE, safe: log entry 12). -/
def outcomeBytes : PlanOutcome → List Byte
  | .opened id => beBytes 1 0 ++ beBytes 1 id.toNat
  | .dropped .missed => beBytes 1 1 ++ beBytes 1 0
  | .dropped .noSlot => beBytes 1 2 ++ beBytes 1 0
  | .dropped .reversal => beBytes 1 3 ++ beBytes 1 0
  | .dropped .ended => beBytes 1 4 ++ beBytes 1 0
  | .pending => beBytes 1 4 ++ beBytes 1 0

/-- A cell item and its value (R204). -/
def cellBytes : Cell → List Byte
  | .present v => beBytes 1 0 ++ beBytes 2 v
  | .blanked => beBytes 1 1 ++ beBytes 2 0
  | .sparse => beBytes 1 2 ++ beBytes 2 0
  | .saturated => beBytes 1 3 ++ beBytes 2 65535

/-- A result of 9 bytes: presence, minimum, cell index, mean, wear, step count (R203, R204). -/
def resultBytes : Option WearResult → List Byte
  | none => List.replicate 9 0
  | some r =>
    beBytes 1 1 ++ beBytes 2 r.minimum ++ beBytes 1 r.cell ++ beBytes 2 r.mean ++ beBytes 2 r.wear
      ++ beBytes 1 r.steps

/-! ### REPLY (R203) -/

/-- The body of a REPLY record. -/
def replyBody (r : Reply) : List Byte :=
  beBytes 2 r.tag.toNat ++ beBytes 1 r.code.toNat ++ beBytes 1 (statusCode r.status)
    ++ beBytes 1 (r.index.getD 255) ++ r.body

/-- One track of the STATUS report: 14 bytes, those after the state 00h when it is not ACTIVE (R190, R203). -/
def trackReport (s : State) (t : Track) : List Byte :=
  beBytes 1 (trackStateCode (s.track t).state) ++
    match s.passage? t with
    | none => List.replicate 13 0
    | some p =>
      beBytes 2 p.number.toNat ++ beBytes 1 (directionCode p.direction) ++ beBytes 2 p.inCount
        ++ beBytes 2 p.outCount ++ beBytes 1 (matchCode p.matching) ++ beBytes 4 p.pace
        ++ beBytes 1 (yesNo p.stale)

/-- One table of the STATUS report: loaded flag and generation (R190, R203). -/
def tableReport (x : Tables) (t : TableId) : List Byte :=
  beBytes 1 (yesNo x.loaded[tableIndex t]) ++ beBytes 2 x.generation[tableIndex t].toNat

/-- The link byte of the STATUS report: weight 1 the uplink, weights 2, 4, 8, 16 the ports (R203). -/
def linkReport (s : State) : Nat :=
  yesNo s.uplink.up + 2 * yesNo s.ports[0].up + 4 * yesNo s.ports[1].up + 8 * yesNo s.ports[2].up
    + 16 * yesNo s.ports[3].up

/-- The four counters of a port, in the order of the report (R203). -/
def portCounters (p : Port) : List Half := [p.strayRows, p.failedFrames, p.missingRows, p.noteDrops]

/-- The 36 counters of the part, in the order of the report (R189, R203). -/
def allCounters (s : State) : List Half :=
  s.glitches.toList ++ s.unpaired.toList ++ s.tracks.toList.map TrackRec.stray
    ++ s.ports.toList.flatMap portCounters
    ++ [s.uplink.alertsLost, s.uplink.summariesLost, s.uplink.commandsLost, s.uplink.foreignFrames,
        s.uplink.receiveErrors, s.uplink.recordsCut]

/-- The STATUS report, 127 bytes (R190, R203). -/
def statusReport (s : State) : List Byte :=
  beBytes 4 s.time.toNat ++ trackReport s .t1 ++ trackReport s .t2
    ++ tableReport s.tables .site ++ tableReport s.tables .consist ++ tableReport s.tables .headClass
    ++ tableReport s.tables .blankMap
    ++ beBytes 1 (yesNo s.tables.latch) ++ beBytes 1 (yesNo s.uplink.drain) ++ beBytes 1 (linkReport s)
    ++ beBytes 2 s.freeList.length ++ beBytes 1 s.delivery.length
    ++ beBytes 1 s.uplink.alerts.length ++ beBytes 1 s.uplink.summaries.length
    ++ beBytes 1 s.uplink.notes.length ++ beBytes 2 s.uplink.cumulative.toNat
    ++ (allCounters s).flatMap fun c => beBytes 2 c.toNat

/-! ### ALERT, PASSAGE-SUMMARY, CAMERA-NOTE (R203) -/

/-- The body of an ALERT record, 29 bytes. -/
def alertBody (a : Alert) : List Byte :=
  beBytes 1 a.capture.toNat ++ beBytes 1 a.camera.val ++ beBytes 1 (trackNumber a.track)
    ++ beBytes 2 a.passage.toNat ++ beBytes 1 a.panto ++ beBytes 1 a.profile.val ++ beBytes 2 a.code.toNat
    ++ beBytes 1 a.headClass.val ++ beBytes 2 a.headGen.toNat ++ beBytes 2 a.conditions.toNat
    ++ beBytes 2 a.alerted.toNat ++ beBytes 4 a.doneTime.toNat ++ resultBytes a.result

/-- The flags byte of a summary (R203). -/
def summaryFlags (x : Summary) : Nat :=
  yesNo x.reversed + 2 * yesNo x.unpairedSeen + 4 * yesNo x.paceClamp + 8 * yesNo x.axleOverflow
    + 16 * yesNo x.axleMismatch

/-- Profile presence, index and code (R203). -/
def profileBytes : Option (Fin 32 × Half) → List Byte
  | none => List.replicate 4 0
  | some (i, code) => beBytes 1 1 ++ beBytes 1 i.val ++ beBytes 2 code.toNat

/-- One window outcome, 4 bytes (R203). -/
def planBytes (e : PlanEntry) : List Byte :=
  beBytes 1 e.camera.val ++ beBytes 1 e.panto ++ outcomeBytes e.outcome

/-- One axle list entry, 13 bytes (R203). -/
def axleBytes (a : Axle) : List Byte :=
  beBytes 4 a.time.toNat ++ beBytes 4 (a.pace.getD 0) ++ beBytes 4 (a.spacing.getD 0)
    ++ beBytes 1 (yesNo a.unpaired + 2 * yesNo a.clamped + 4 * yesNo a.pace.isSome + 8 * yesNo a.spacing.isSome)

/-- The body of a PASSAGE-SUMMARY record. -/
def summaryBody (x : Summary) : List Byte :=
  beBytes 2 x.number.toNat ++ beBytes 1 (trackNumber x.track) ++ beBytes 1 (directionCode x.direction)
    ++ beBytes 4 x.start.toNat ++ beBytes 4 x.finish.toNat ++ beBytes 2 x.inCount ++ beBytes 2 x.outCount
    ++ beBytes 1 (matchCode x.matching) ++ profileBytes x.profile ++ beBytes 2 x.consistGen.toNat
    ++ beBytes 1 (endCode x.reason) ++ beBytes 1 (summaryFlags x)
    ++ beBytes 1 x.plan.length ++ x.plan.flatMap planBytes
    ++ beBytes 1 x.axles.length ++ x.axles.flatMap axleBytes

/-- The body of a CAMERA-NOTE record. -/
def noteBody (n : Note) : List Byte :=
  beBytes 1 n.camera.val ++ beBytes 4 n.time.toNat ++ beBytes 1 n.bytes.length ++ n.bytes

/-! ### The capture records (R172, R204) -/

/-- The body of a CAPTURE-HEADER record. -/
def headerBody (slot : Fin 32) (c : Capture) : List Byte :=
  beBytes 1 c.id.toNat ++ beBytes 1 slot.val ++ beBytes 1 c.camera.val ++ beBytes 1 (trackNumber c.track)
    ++ beBytes 2 c.passage.toNat ++ beBytes 1 c.panto ++ beBytes 1 c.headClass.val ++ beBytes 1 c.profile.val
    ++ beBytes 2 c.code.toNat ++ beBytes 2 c.consistGen.toNat ++ beBytes 2 c.headGen.toNat
    ++ beBytes 2 c.blankGen.toNat ++ beBytes 4 c.openPoint ++ beBytes 4 c.closePoint
    ++ beBytes 2 c.firstSequence.toNat ++ beBytes 2 c.tagged ++ beBytes 2 c.received ++ beBytes 2 c.stored
    ++ beBytes 2 c.repaired ++ beBytes 2 c.omitted ++ beBytes 1 (closeCode c.close)
    ++ beBytes 2 c.conditions.toNat ++ beBytes 4 c.openTime.toNat
    ++ beBytes 4 ((c.doneTime.map BitVec.toNat).getD 0)
    ++ beBytes 1 (roleCode c.role) ++ beBytes 2 c.slope ++ beBytes 1 c.kept.toNat ++ beBytes 2 c.rowLimit
    ++ beBytes 1 c.repairLimit ++ entryBytes (.headClass c.head) ++ beBytes 2 (blockCount c.stored)
    ++ entryBytes (.blankMap c.blank)

/-- The stored rows ROW-BLOCK `b` carries, in chain order: the block lies in the head segment of what is left of
the chain, since a segment is released when its last row is sent (R172, R174). -/
def blockContents (s : State) (c : Capture) (b : Nat) : List StoredRow :=
  match c.chain with
  | [] => []
  | g :: _ =>
    (List.range (blockRows c.stored b)).filterMap fun i => s.store.read (rowKey g ((4 * b + i) % rowsPerSegment))

/-- The body of a ROW-BLOCK record. -/
def blockBody (c : Capture) (b : Nat) (rows : List StoredRow) : List Byte :=
  beBytes 1 c.id.toNat ++ beBytes 2 b ++ beBytes 1 (blockRows c.stored b)
    ++ rows.flatMap (fun r => beBytes 2 r.sequence.toNat ++ beBytes 1 (yesNo r.repaired))
    ++ rows.flatMap StoredRow.pixels

/-- The cell list of a CAPTURE-END record: count, first cell, items (R204). -/
def cellListBytes (c : Capture) : List Byte :=
  match c.cells with
  | none => beBytes 2 0 ++ beBytes 1 0
  | some cells => beBytes 2 cells.length ++ beBytes 1 c.head.firstCell ++ cells.flatMap cellBytes

/-- The body of a CAPTURE-END record. -/
def endBody (c : Capture) (rowsSent : Nat) : List Byte :=
  beBytes 1 c.id.toNat ++ beBytes 2 rowsSent ++ resultBytes c.result ++ cellListBytes c

end Sys2Proof.Machine
end

