-- ==== Sys2Proof/Machine/Resets.lean ====
section
/-! DEFINITION. The three resets: power-on and RSTN, which have the same effect (R3, R205), and the soft reset of
the RESET command (R191). The meanings of POWER_ON, RSTN_RESET and RSTN_RELEASE. -/

namespace Sys2Proof.Machine

/-- A line at power-on or RSTN: its pin keeps its level, and its stage waits to see it at rest (R24). -/
def Line.hardReset (l : Line) : Line := { active := l.active, stage := .waitRest }

/-- The power-on reset and the RSTN reset of every block (R3, R37, R63, R89, R107, R118, R144, R158, R179, R192):
the values of `State.reset`, but for the pins, the frame store's contents, which are not cleared (R160, R179), and
the model's own queue and count. `low` says whether RSTN stays low. No crossing handed over before it is taken after it
(R37; DESIGN CHOICE, unsafe: log entry 20). -/
def hardReset (low : Bool) (s : State) : State :=
  { State.reset with
    rstnLow := low
    lines := s.lines.map Line.hardReset
    store := s.store
    freeIndex := s.freeIndex
    pending := s.pending }

/-- A line at a soft reset: a pulse being qualified is discarded, and its line must return to rest (R24, R37). -/
def Line.softReset (l : Line) : Line :=
  match l.stage with
  | .qualifying _ _ => { l with stage := .waitRest }
  | .waitRest | .ready | .accepted => l

/-- A channel at a soft reset: its sequence counter continues (R71, R89). -/
def Channel.softReset (c : Channel) : Channel := { Channel.reset with sequence := c.sequence }

/-- A camera port at a soft reset: its link state is kept, and what its return lane sends is cut off (R91, R107). -/
def Port.softReset (p : Port) : Port := { Port.reset with up := p.up, lane := p.lane.cut }

/-- The Uplink Port at a soft reset: link state, record number and partner address are kept (R192). -/
def Uplink.softReset (u : Uplink) : Uplink :=
  { Uplink.reset with up := u.up, recordNumber := u.recordNumber, partner := u.partner }

/-- The soft reset (R191): tables (R3), ADU (R37), tracks (R63), channels (R89), camera ports (R107), conditioning
records (R118), working sets (R144), conditions and alerts (R158), the frame store (R179), the uplink (R192). The
Timestamp Counter, the passage number counter and the capture id counter go on (R22, R46, R83). Every crossing handed over
before it has been taken, so none reaches a track in OFF after it as R37 also allows (DESIGN CHOICE, unsafe: log entry
20). -/
def softReset (s : State) : State :=
  { s with
    tables := { s.tables with staging := Images.empty, latch := false }
    lines := s.lines.map Line.softReset
    stations := Vector.replicate 4 none
    glitches := Vector.replicate 8 0
    unpaired := Vector.replicate 4 0
    tracks := Vector.replicate 2 { state := .off, stray := 0 }
    channels := s.channels.map Channel.softReset
    ports := s.ports.map Port.softReset
    condRecords := Vector.replicate 32 none
    workSets := Vector.replicate 8 none
    unprofiled := []
    freeList := List.range 512
    slots := Vector.replicate 32 none
    delivery := []
    sender := Sender.reset
    uplink := s.uplink.softReset }

/-- The time RSTN is low for a reset that is certain, in ns: 1 µs (R205). -/
def rstnNs : Nat := 1000

/-- An RSTN pulse shorter than 1 µs either has no effect or acts as a full RSTN reset (R205): the part's own
choice, which nothing in the model fixes (DESIGN CHOICE, safe: log entry 3). The pulse is over, so RSTN is high again. -/
def shortPulse (s : State) : State :=
  let counted : State := { s with freeIndex := s.freeIndex + 1 }
  if Config.shortPulseResets s.freeIndex then hardReset false counted else counted

/-- RSTN has been low for `lowNs` ns (R205). -/
def rstnFalls (lowNs : Nat) (s : State) : State :=
  if rstnNs ≤ lowNs then hardReset true s else if s.rstnLow then s else shortPulse s

/-- RSTN returns high: the part leaves reset, and the Timestamp Counter counts from 0 (R22, R205). -/
def rstnRises (s : State) : State := { s with rstnLow := false }

/-! ### The meanings -/

/-- POWER_ON (R3, R22). -/
def execPowerOn (s : State) : Outcome := .next (hardReset s.rstnLow s)

/-- RSTN_RESET (R205). -/
def execRstnReset (after lowNs : Nat) (s : State) : Outcome := .next (rstnFalls lowNs (s.pass after))

/-- RSTN_RELEASE (R22, R205). -/
def execRstnRelease (after : Nat) (s : State) : Outcome := .next (rstnRises (s.pass after))

end Sys2Proof.Machine
end

