-- ==== Sys2Proof/Machine/Uplink.lean ====
section
/-! DEFINITION. The Uplink Port's link, its receive side and its transmit arbiter (chapter 10). The meanings of
UPLINK_LINK_UP, UPLINK_LINK_DOWN, FRAME_RECEIVED, RECORD_GRANT and RECORD_END. -/

namespace Sys2Proof.Machine

/-! ### Received frames (R183, R184) -/

/-- The places of the command queue (R184). -/
def commandPlaces : Nat := 4

/-- A command is offered to the command queue: appended, or discarded and counted when the queue is full (R184). -/
def Uplink.offerCommand (c : Command) (u : Uplink) : Uplink :=
  if u.commands.length < commandPlaces then { u with commands := u.commands ++ [c] }
  else { u with commandsLost := bump u.commandsLost }

/-- A received frame, as it is sorted (R183). -/
def Uplink.takeFrame (f : ReceivedFrame) (u : Uplink) : Uplink :=
  match f with
  | .receiveError => { u with receiveErrors := bump u.receiveErrors }
  | .foreign => { u with foreignFrames := bump u.foreignFrames }
  | .command c => u.offerCommand c

/-- A whole frame has been received (R182, R183): one that began while the link was DOWN, or before the last
reset, is discarded without a count. -/
def frameArrives (fresh : Bool) (frame : List Byte) (s : State) : State :=
  if s.uplink.up ∧ fresh then s.modUplink (Uplink.takeFrame (sortFrame frame)) else s

/-! ### The arbiter (R193, R195) -/

/-- A record starts: it takes the record number, and the transmitter becomes busy (R193, R195, R202). -/
def Uplink.start (kind : TxKind) (code : Nat) (body : List Byte) (u : Uplink) : Uplink :=
  { u with
    transmitter := some { kind := kind, frame := uplinkFrame u.partner code u.recordNumber body, elapsed := 0 }
    mayLead := []
    recordNumber := u.recordNumber + 1 }

/-- The kind, the record code and the body of the capture record the sender offers (R172, R204). -/
def captureRecord (s : State) (k : Fin 32) (c : Capture) : TxKind × Nat × List Byte :=
  match s.sender.next with
  | .header => (.header, 0x90, headerBody k c)
  | .block b => (.block (blockRows c.stored b), 0x91, blockBody c b (blockContents s c b))
  | .captureEnd => (.captureEnd, 0x92, endBody c s.sender.rowsSent)

/-- The sender's offer is granted, if it makes one: a capture SENDING, no capture record in transmission, DRAIN ON
(R173, R193). -/
def grantCapture (s : State) : State :=
  match sendingCapture s with
  | none => s
  | some (k, c) =>
    if s.uplink.drain ∧ s.sender.inTransmission = false then
      let record := captureRecord s k c
      { s with
        uplink := s.uplink.start record.1 record.2.1 record.2.2
        sender := { s.sender with inTransmission := true } }
    else s

/-- The oldest waiting record of a class is granted (R193). -/
def grantClass (c : TxClass) (s : State) : State :=
  match c with
  | .reply => match s.uplink.replies with
    | [] => s
    | r :: rest => s.modUplink fun u => ({ u with replies := rest }).start (.reply r.code) 0x81 (replyBody r)
  | .alert => match s.uplink.alerts with
    | [] => s
    | a :: rest => s.modUplink fun u => ({ u with alerts := rest }).start .alert 0x82 (alertBody a)
  | .summary => match s.uplink.summaries with
    | [] => s
    | x :: rest => s.modUplink fun u => ({ u with summaries := rest }).start .summary 0x83 (summaryBody x)
  | .note => match s.uplink.notes with
    | [] => s
    | n :: rest => s.modUplink fun u => ({ u with notes := rest }).start .note 0x84 (noteBody n)
  | .capture => grantCapture s

/-- The classes a grant can take: the highest that waits (R193), and those that arrived together at this moment, each of
which may have been the first (R194). -/
def grantable (s : State) : List TxClass :=
  txClasses.filter fun c =>
    waits s c && ((txClasses.all fun d => !waits s d || c.number ≤ d.number) || s.uplink.mayLead.contains c)

/-- One record is granted, of a class the grant can take: the highest, or, among those that arrived together, a free one
(R193, R194; log entry 19). -/
def grantNext (s : State) : State :=
  match (freeOrder TxClass.number (fun _ _ => false) (grantable s) s).head? with
  | none => s
  | some c => grantClass c (s.chosen (grantable s).length)

/-- A grant is made when the link is UP and the transmitter is free (R193). -/
def grant (s : State) : State :=
  if s.uplink.up ∧ s.uplink.transmitter = none then grantNext s else s

/-! ### The end of a record (R174, R175, R191, R193) -/

/-- The time a record takes, in ns: 8 for each byte of its frame and for 20 bytes more (R193). -/
def recordNs (frame : List Byte) : Nat := 8 * (frame.length + 20)

/-- The command code of RESET (R202). -/
def resetCode : Byte := 0x0E#8

/-- What the end of a record brings besides a free transmitter: the soft reset after the RESET reply (R191), the
sender's step after a capture record (R174, R175). -/
def recordEnds (kind : TxKind) (s : State) : State :=
  match kind with
  | .reply code => if code = resetCode then softReset s else s
  | .alert => s
  | .summary => s
  | .note => s
  | .header => senderEnd .header s
  | .block rows => senderEnd (.block rows) s
  | .captureEnd => senderEnd .captureEnd s

/-- The record in transmission ends, when its time has passed (R193). -/
def recordEndNow (s : State) : State :=
  match s.uplink.transmitter with
  | none => s
  | some t =>
    if recordNs t.frame ≤ t.elapsed then
      recordEnds t.kind (s.modUplink fun u => { u with transmitter := none })
    else s

/-! ### The link (R182, R191) -/

/-- The time an established link is held before the port is UP, in ns: 10 ms (R182). -/
def uplinkUpNs : Nat := 10000000

/-- The link goes UP (R182). -/
def uplinkUp (heldNs : Nat) (s : State) : State :=
  if s.uplink.up ∨ heldNs < uplinkUpNs then s else s.modUplink fun u => { u with up := true }

/-- The port at the change to DOWN (R182): the frame in reception is a receive error, the record in transmission
is cut and counted. -/
def Uplink.goDown (inReception : Bool) (u : Uplink) : Uplink :=
  { u with
    up := false
    receiveErrors := if inReception then bump u.receiveErrors else u.receiveErrors
    recordsCut := if u.transmitter.isSome then bump u.recordsCut else u.recordsCut
    transmitter := none }

/-- A record cut off counts as sent: the sender takes its end (R177, R182). -/
def cutRecord (t : Option Transmission) (s : State) : State :=
  match t with
  | none => s
  | some x => senderEnd x.kind s

/-- The link goes DOWN (R182): the cut of R177 first, and then, with a RESET reply not yet sent, the soft reset
(R191). -/
def uplinkDown (inReception : Bool) (s : State) : State :=
  if s.uplink.up then
    let down := cutRecord s.uplink.transmitter (s.modUplink (Uplink.goDown inReception))
    if s.uplink.halted then softReset down else down
  else s

/-! ### The meanings -/

/-- UPLINK_LINK_UP (R182). -/
def execUplinkLinkUp (after heldNs : Nat) (s : State) : Outcome := timed after (uplinkUp heldNs) s

/-- UPLINK_LINK_DOWN (R182). -/
def execUplinkLinkDown (after : Nat) (inReception : Bool) (s : State) : Outcome :=
  timed after (uplinkDown inReception) s

/-- FRAME_RECEIVED (R183). -/
def execFrameReceived (after : Nat) (fresh : Bool) (frame : List Byte) (s : State) : Outcome :=
  timed after (frameArrives fresh frame) s

/-- RECORD_GRANT (R193). -/
def execRecordGrant (s : State) : Outcome := atOnce grant s

/-- RECORD_END (R193). -/
def execRecordEnd (after : Nat) (s : State) : Outcome := timed after recordEndNow s

end Sys2Proof.Machine
end

