-- ==== Sys2Proof/Machine/Commands.lean ====
section
/-! DEFINITION. The recorder's commands (chapter 10): the interpreter, and the meaning of each command row. A
command is executed from the head of the command queue while the interpreter is READY and the reply queue has
room (R185); a row whose command does not stand there has no effect. -/

namespace Sys2Proof.Machine

/-! ### The interpreter (R185, R186) -/

/-- What the owner of a command gives back (R185): a status, an entry index, a reply body. -/
structure Answer where
  status : Status
  index : Option Nat
  body : List Byte
  deriving DecidableEq, Repr

/-- An answer of a status alone. -/
def answer (status : Status) : Answer := { status := status, index := none, body := [] }

/-- The places of the reply queue (R186). -/
def replyPlaces : Nat := 4

/-- The command the interpreter executes next (R185): the head of the queue, when the interpreter is READY and the
reply queue has room. -/
def nextCommand (u : Uplink) : Option Command :=
  if u.halted = false ∧ u.replies.length < replyPlaces then u.commands.head? else none

/-- The command leaves the queue and the partner address is set (R185, steps 1 and 2). -/
def Uplink.popCommand (c : Command) (u : Uplink) : Uplink :=
  { u with commands := u.commands.tail, partner := c.source }

/-- The reply to a command (R186). -/
def replyTo (c : Command) (a : Answer) : Reply where
  tag := c.tag
  code := c.code
  status := a.status
  index := a.index
  body := a.body

/-- A reply is appended to the reply queue (R185, step 4). -/
def pushReply (r : Reply) (s : State) : State := s.modUplink fun u => { u with replies := u.replies ++ [r] }

/-- The owner's part of a command: what it does to the state, and its answer, both read at the execution. -/
abbrev Owner := List Byte → State → State × Answer

/-- One execution (R185): the command leaves the queue, the owner acts, the reply is queued. -/
def runCommand (owner : Owner) (c : Command) (s : State) : State :=
  let done := owner c.params (s.modUplink (Uplink.popCommand c))
  pushReply (replyTo c done.2) done.1

/-- Execute the next command if it is one of a row's commands. -/
def interpret (mine : Command → Bool) (owner : Owner) (s : State) : State :=
  match nextCommand s.uplink with
  | none => s
  | some c => if mine c then runCommand owner c s else s

/-- Execute the next command, one whose owner can bring a record beside the reply: they arrive together (R40, R194). -/
def interpretTogether (mine : Command → Bool) (owner : Owner) (s : State) : State := together s (interpret mine owner s)

/-! ### Command codes (R202) -/

/-- A command's code is a given one. -/
def hasCode (n : Nat) (c : Command) : Bool := c.code.toNat == n

/-- A TRACK-CONTROL command whose action byte is DISABLE. -/
def isDisable (c : Command) : Bool := c.params[1]? == some 0x00#8

/-- A DRAIN command whose byte is OFF. -/
def isOff (c : Command) : Bool := c.params[0]? == some 0x00#8

/-- A track byte (R39, R41, R202). -/
def trackOf (b : Byte) : Option Track :=
  match b.toNat with
  | 1 => some .t1
  | 2 => some .t2
  | _ => none

/-- An answer with no change of state. -/
def refuse (status : Status) (s : State) : State × Answer := (s, answer status)

/-! ### STATUS, TABLE-READ -/

/-- R190. -/
def ownStatus : Owner := fun _ s => (s, { status := .ok, index := none, body := statusReport s })

/-- The entry a TABLE-READ returns, after its three echoed bytes (R20, R203). -/
def readBody (x : Tables) (t : TableId) (active : Bool) (e : Option TableEntry) : List Byte :=
  (if active then beBytes 2 x.generation[tableIndex t].toNat ++ beBytes 1 (yesNo x.loaded[tableIndex t])
    else beBytes 2 0 ++ beBytes 1 0) ++ formBytes e

/-- An image code: 00h active, 01h staging (R199). -/
def imageOf (b : Byte) : Option Bool :=
  match b.toNat with
  | 0 => some true
  | 1 => some false
  | _ => none

/-- R20: the entry of a table's image, or RANGE. -/
def readEntry (x : Tables) (table image index : Byte) : Answer :=
  match tableOf table, imageOf image with
  | some t, some active =>
    match (if active then x.active else x.staging).entry t index.toNat with
    | none => answer .range
    | some e => { status := .ok, index := none, body := [table, image, index] ++ readBody x t active e }
  | _, _ => answer .range

/-- R20. -/
def ownTableRead : Owner := fun params s =>
  match params with
  | [table, image, index] => (s, readEntry s.tables table image index)
  | _ => refuse .range s

/-! ### Staging and the commit latch -/

/-- A staging command (R12 to R14): checked, and applied as a whole or not at all. -/
def ownStage (apply : TableId → List (Nat × Option TableEntry) → Images → Images) : Owner := fun params s =>
  match stageCheck params with
  | .error index => (s, { status := .range, index := index, body := [] })
  | .ok (t, entries) => (s.modTables fun x => { x with staging := apply t entries x.staging }, answer .ok)

/-- R15. -/
def ownLatch (value : Bool) : Owner := fun _ s => (s.modTables fun x => { x with latch := value }, answer .ok)

/-- R16: the table a COMMIT names, when its parameters are that one byte. -/
def commitTable (params : List Byte) : Option TableId :=
  match params with
  | [b] => tableOf b
  | _ => none

/-- R16, rows 2 to 5, and R17: a COMMIT that names a table. -/
def commitNamed (t : TableId) (s : State) : State × Answer :=
  if s.tables.latch = false then refuse .latch s
  else if commitBusy t s then refuse .busy s
  else match commitFailure t s.tables.staging s.tables.active with
    | some (status, index) => (s, { status := status, index := some index, body := [] })
    | none =>
      let taken := s.modTables (commitTaken t)
      (taken,
        { status := .ok, index := none, body := beBytes 2 taken.tables.generation[tableIndex t].toNat })

/-- The commit latch is cleared at the end of every COMMIT (R15, R16). -/
def clearLatch (x : State × Answer) : State × Answer := (x.1.modTables fun y => { y with latch := false }, x.2)

/-- R16. -/
def ownCommit : Owner := fun params s =>
  clearLatch
    (match commitTable params with
    | none => refuse .range s
    | some t => commitNamed t s)

/-! ### Tracks -/

/-- R39: ENABLE. -/
def enableTrack (t : Track) (s : State) : State × Answer :=
  match (s.track t).state with
  | .off =>
    if (s.siteTrack? t).isSome then (s.modTrack t fun r => { r with state := .idle }, answer .ok)
    else refuse .state s
  | .idle => refuse .ok s
  | .active _ => refuse .ok s
  | .settling _ => refuse .ok s

/-- R40: DISABLE. -/
def disableTrack (t : Track) (s : State) : State × Answer :=
  match (s.track t).state with
  | .active _ => (endPassage t .abandoned .off s, answer .ok)
  | .off => refuse .ok s
  | .idle => (s.modTrack t fun r => { r with state := .off }, answer .ok)
  | .settling _ => (s.modTrack t fun r => { r with state := .off }, answer .ok)

/-- R41. -/
def abandonTrack (t : Track) (s : State) : State × Answer :=
  match (s.track t).state with
  | .active _ => (endPassage t .abandoned .settling s, answer .ok)
  | .off => refuse .state s
  | .idle => refuse .state s
  | .settling _ => refuse .state s

/-- R39, R202: track 1 byte and the action ENABLE; any other form of parameters is refused with RANGE. -/
def ownEnable : Owner := fun params s =>
  match params with
  | [track, action] =>
    match trackOf track with
    | none => refuse .range s
    | some t => if action = 0x01#8 then enableTrack t s else refuse .range s
  | _ => refuse .range s

/-- R40, R202: track 1 byte and the action DISABLE; any other form of parameters is refused with RANGE. -/
def ownDisable : Owner := fun params s =>
  match params with
  | [track, action] =>
    match trackOf track with
    | none => refuse .range s
    | some t => if action = 0x00#8 then disableTrack t s else refuse .range s
  | _ => refuse .range s

/-- R41, R202. -/
def ownAbandon : Owner := fun params s =>
  match params with
  | [track] =>
    match trackOf track with
    | none => refuse .range s
    | some t => abandonTrack t s
  | _ => refuse .range s

/-! ### DRAIN, the clears, CAMERA-PASS, RESET -/

/-- R188: the switch takes the value; with DRAIN ON the sender takes a head that waits (R176). -/
def setDrain (value : Bool) (s : State) : State := senderTake (s.modUplink fun u => { u with drain := value })

/-- R188, R202: one byte, 01h for ON; any other form of parameters is refused with RANGE. -/
def ownDrainOn : Owner := fun params s =>
  if params = [0x01#8] then (setDrain true s, answer .ok) else refuse .range s

/-- R188, R202: one byte, 00h for OFF; any other form of parameters is refused with RANGE. -/
def ownDrainOff : Owner := fun params s =>
  if params = [0x00#8] then (setDrain false s, answer .ok) else refuse .range s

/-- A port with its counters at 0 (R106). -/
def Port.clearCounters (p : Port) : Port :=
  { p with strayRows := 0, failedFrames := 0, missingRows := 0, noteDrops := 0 }

/-- The six counters of the uplink at 0 (R198). -/
def Uplink.clearCounters (u : Uplink) : Uplink :=
  { u with
    alertsLost := 0, summariesLost := 0, commandsLost := 0, foreignFrames := 0, receiveErrors := 0
    recordsCut := 0 }

/-- The 36 counters of the part at 0 (R36, R43, R106, R157, R189, R198). -/
def clearCounters (s : State) : State :=
  { s with
    glitches := Vector.replicate 8 0
    unpaired := Vector.replicate 4 0
    tracks := s.tracks.map fun r => { r with stray := 0 }
    ports := s.ports.map Port.clearCounters
    uplink := s.uplink.clearCounters }

/-- R189. -/
def ownClearStats : Owner := fun _ s => (clearCounters s, answer .ok)

/-- R153. -/
def ownClearConditions : Owner := fun _ s => (s.modUplink fun u => { u with cumulative := 0 }, answer .ok)

/-- The places of a pass-through queue (R90, R104). -/
def passPlaces : Nat := 4

/-- The camera and the message of a CAMERA-PASS, when the parameters are in range (R104, row 1; R202). -/
def passParams (params : List Byte) : Option (Fin 4 × List Byte) :=
  match params with
  | camera :: length :: bytes =>
    if h : camera.toNat < 4 then
      if 1 ≤ length.toNat ∧ length.toNat ≤ 64 ∧ bytes.length = length.toNat then some (⟨camera.toNat, h⟩, bytes)
      else none
    else none
  | _ => none

/-- R104. -/
def ownCameraPass : Owner := fun params s =>
  match passParams params with
  | none => refuse .range s
  | some (cam, bytes) =>
    if s.ports[cam].up = false then refuse .state s
    else if s.ports[cam].passQueue.length < passPlaces then
      (s.modPort cam fun p => { p with passQueue := p.passQueue ++ [bytes] }, answer .ok)
    else refuse .full s

/-- R191: the interpreter goes to HALTED. -/
def ownReset : Owner := fun _ s => (s.modUplink fun u => { u with halted := true }, answer .ok)

/-- A RESET executed while the link is DOWN has its soft reset at its execution (R191). The interpreter is HALTED
only once a RESET has been executed. -/
def resetIfDown (s : State) : State := if s.uplink.halted ∧ s.uplink.up = false then softReset s else s

/-- RESET at the interpreter (R191). -/
def interpretReset (s : State) : State :=
  match nextCommand s.uplink with
  | none => s
  | some c => if hasCode 14 c then resetIfDown (runCommand ownReset c s) else s

/-- A command whose code names no command of the part (R187, R202). -/
def isUnknown (c : Command) : Bool := c.code.toNat == 0 || 14 < c.code.toNat

/-- R187. -/
def ownUnknown : Owner := fun _ s => refuse .unknown s

/-! ### The meanings -/

/-- STATUS (R190). -/
def execStatus (s : State) : Outcome := atOnce (interpret (hasCode 1) ownStatus) s

/-- TABLE_READ (R20). -/
def execTableRead (s : State) : Outcome := atOnce (interpret (hasCode 2) ownTableRead) s

/-- STAGE_LOAD (R12, R14). -/
def execStageLoad (s : State) : Outcome := atOnce (interpret (hasCode 3) (ownStage stageLoaded)) s

/-- STAGE_PATCH (R13, R14). -/
def execStagePatch (s : State) : Outcome := atOnce (interpret (hasCode 4) (ownStage stagePatched)) s

/-- COMMIT_ENABLE (R15). -/
def execCommitEnable (s : State) : Outcome := atOnce (interpret (hasCode 5) (ownLatch true)) s

/-- COMMIT_DISABLE (R15). -/
def execCommitDisable (s : State) : Outcome := atOnce (interpret (hasCode 6) (ownLatch false)) s

/-- COMMIT (R16, R17). -/
def execCommit (s : State) : Outcome := atOnce (interpret (hasCode 7) ownCommit) s

/-- TRACK_CONTROL_ENABLE (R39): a TRACK-CONTROL whose action byte is not DISABLE, a malformed one included. -/
def execTrackControlEnable (s : State) : Outcome :=
  atOnce (interpret (fun c => hasCode 8 c && !isDisable c) ownEnable) s

/-- TRACK_CONTROL_DISABLE (R40): a TRACK-CONTROL whose action byte is DISABLE. -/
def execTrackControlDisable (s : State) : Outcome :=
  atOnce (interpretTogether (fun c => hasCode 8 c && isDisable c) ownDisable) s

/-- ABANDON (R41). -/
def execAbandon (s : State) : Outcome := atOnce (interpretTogether (hasCode 9) ownAbandon) s

/-- DRAIN_ON (R188): a DRAIN whose byte is not OFF, a malformed one included. -/
def execDrainOn (s : State) : Outcome :=
  atOnce (interpretTogether (fun c => hasCode 10 c && !isOff c) ownDrainOn) s

/-- DRAIN_OFF (R188): a DRAIN whose byte is OFF. -/
def execDrainOff (s : State) : Outcome := atOnce (interpret (fun c => hasCode 10 c && isOff c) ownDrainOff) s

/-- CLEAR_STATS (R189). -/
def execClearStats (s : State) : Outcome := atOnce (interpret (hasCode 11) ownClearStats) s

/-- CLEAR_CONDITIONS (R153). -/
def execClearConditions (s : State) : Outcome := atOnce (interpret (hasCode 12) ownClearConditions) s

/-- CAMERA_PASS (R104). -/
def execCameraPass (s : State) : Outcome := atOnce (interpret (hasCode 13) ownCameraPass) s

/-- RESET (R191). -/
def execReset (s : State) : Outcome := atOnce interpretReset s

/-- UNKNOWN_COMMAND (R187). -/
def execUnknownCommand (s : State) : Outcome := atOnce (interpret isUnknown ownUnknown) s

end Sys2Proof.Machine
end

