-- ==== Sys2Proof/Machine/Dispatch.lean ====
section
/-! DEFINITION. One arm per command: a direct call of its meaning. -/

namespace Sys2Proof.Machine

def exec (i : Instr) (s : State) : Host.Outcome State Fault Refusal :=
  match i with
  | .powerOn => Sys2Proof.Machine.execPowerOn s
  | .rstnReset after lowNs => Sys2Proof.Machine.execRstnReset after lowNs s
  | .leadingEdge after line => Sys2Proof.Machine.execLeadingEdge after line s
  | .trailingEdge after line => Sys2Proof.Machine.execTrailingEdge after line s
  | .pulseAccepted after line => Sys2Proof.Machine.execPulseAccepted after line s
  | .pairTimeout after track station => Sys2Proof.Machine.execPairTimeout after track station s
  | .staleExpiry after track => Sys2Proof.Machine.execStaleExpiry after track s
  | .quietDeadline after track => Sys2Proof.Machine.execQuietDeadline after track s
  | .settleExpiry after track => Sys2Proof.Machine.execSettleExpiry after track s
  | .trigger after channel => Sys2Proof.Machine.execTrigger after channel s
  | .rowTimeout after camera => Sys2Proof.Machine.execRowTimeout after camera s
  | .rowFrame after camera fresh frame => Sys2Proof.Machine.execRowFrame after camera fresh frame s
  | .cameraNote after camera fresh frame => Sys2Proof.Machine.execCameraNote after camera fresh frame s
  | .cameraLinkUp after camera heldNs => Sys2Proof.Machine.execCameraLinkUp after camera heldNs s
  | .cameraLinkDown after camera inReception => Sys2Proof.Machine.execCameraLinkDown after camera inReception s
  | .passThroughSend camera => Sys2Proof.Machine.execPassThroughSend camera s
  | .messageSent after camera => Sys2Proof.Machine.execMessageSent after camera s
  | .uplinkLinkUp after heldNs => Sys2Proof.Machine.execUplinkLinkUp after heldNs s
  | .uplinkLinkDown after inReception => Sys2Proof.Machine.execUplinkLinkDown after inReception s
  | .frameReceived after fresh frame => Sys2Proof.Machine.execFrameReceived after fresh frame s
  | .recordGrant => Sys2Proof.Machine.execRecordGrant s
  | .recordEnd after => Sys2Proof.Machine.execRecordEnd after s
  | .status => Sys2Proof.Machine.execStatus s
  | .tableRead => Sys2Proof.Machine.execTableRead s
  | .stageLoad => Sys2Proof.Machine.execStageLoad s
  | .stagePatch => Sys2Proof.Machine.execStagePatch s
  | .commitEnable => Sys2Proof.Machine.execCommitEnable s
  | .commitDisable => Sys2Proof.Machine.execCommitDisable s
  | .commit => Sys2Proof.Machine.execCommit s
  | .trackControlEnable => Sys2Proof.Machine.execTrackControlEnable s
  | .trackControlDisable => Sys2Proof.Machine.execTrackControlDisable s
  | .abandon => Sys2Proof.Machine.execAbandon s
  | .drainOn => Sys2Proof.Machine.execDrainOn s
  | .drainOff => Sys2Proof.Machine.execDrainOff s
  | .clearStats => Sys2Proof.Machine.execClearStats s
  | .clearConditions => Sys2Proof.Machine.execClearConditions s
  | .cameraPass => Sys2Proof.Machine.execCameraPass s
  | .reset => Sys2Proof.Machine.execReset s
  | .unknownCommand => Sys2Proof.Machine.execUnknownCommand s
  | .rstnRelease after => Sys2Proof.Machine.execRstnRelease after s

end Sys2Proof.Machine
end

