-- ==== Sys2Proof/Machine/Step.lean ====
section
/-! DEFINITION. One step: the command at the front of the queue, run with the queue's rest; on an empty queue, one
period of the 25 MHz clock input passes (DESIGN CHOICE, safe: log entry 1). -/

namespace Sys2Proof.Machine

/-- One step of the block. With a command in front, the command is taken from the queue and executed. On an empty
queue the part idles for one clock period of 40 ns. -/
def step (s : State) : Host.Outcome State Fault Refusal :=
  match s.pending with
  | [] => .next (s.pass clockNs)
  | c :: rest => exec c { s with pending := rest }

/-- The state with the command that a word spells put at the front of its queue; unchanged where the word spells
none. -/
def State.withFetchWord (s : State) (nbits w : Nat) : State :=
  match decodeTableWord nbits w with
  | none => s
  | some c => { s with pending := c :: s.pending }

end Sys2Proof.Machine
end

