-- ==== Sys2Proof/Safety.lean ====
section
/-! DEFINITION. What counts as a sound state of the part: the bounds and the laws that the manual states over all
states, in the terms the claims use. Every state that a run reaches has them. -/

namespace Sys2Proof.Machine

/-! ### Queues -/

/-- The places of the queues: the command queue and the reply queue (R181, R184, R186), the alert queue (R155), the
summary queue (R196), the camera note queue (R197), the outstanding trigger lists (R95) and the pass-through queues
(R90, R104). -/
structure QueuesBounded (s : State) : Prop where
  commands : s.uplink.commands.length ≤ 4
  replies : s.uplink.replies.length ≤ 4
  alerts : s.uplink.alerts.length ≤ 8
  summaries : s.uplink.summaries.length ≤ 4
  notes : s.uplink.notes.length ≤ 8
  outstanding : ∀ c : Fin 4, s.ports[c].outstanding.length ≤ 64
  passQueues : ∀ c : Fin 4, s.ports[c].passQueue.length ≤ 4

/-! ### Tables -/

/-- Every entry of an image that is not EMPTY holds fields in range (R4, R5, R7, R9, R11, R14). -/
structure Images.InRange (im : Images) : Prop where
  siteTracks : ∀ (i : Fin 2) (e : SiteTrack), im.siteTracks[i] = some e → e.InRange
  siteCameras : ∀ (i : Fin 4) (e : SiteCamera), im.siteCameras[i] = some e → e.InRange
  consist : ∀ (i : Fin 32) (e : Profile), im.consist[i] = some e → e.InRange i.val
  headClasses : ∀ (i : Fin 16) (e : HeadClass), im.headClasses[i] = some e → e.InRange
  blankMap : ∀ (i : Fin 4) (e : BlankEntry), im.blankMap[i] = some e → e.InRange

/-- Every entry of the active and the staging images holds fields in range (R14, R17). -/
structure TablesInRange (s : State) : Prop where
  active : s.tables.active.InRange
  staging : s.tables.staging.InRange

/-- Every head class named by a valid active profile is valid in the active head class table (R8, R10). -/
def ReferencesValid (s : State) : Prop :=
  ∀ (i : Fin 32) (e : Profile), s.tables.active.consist[i] = some e →
    ∀ p ∈ e.pantos, s.tables.active.headClasses[p.headClass].isSome

/-! ### Passages and channels -/

/-- A pace the part can hold (R31, R50). -/
def PaceInRange (pace : Nat) : Prop := 8333 ≤ pace ∧ pace ≤ 1000000

/-- The ranges of a passage context (R45, R47, R48, R50). -/
structure Passage.InRange (p : Passage) : Prop where
  outCount : p.outCount ≤ p.inCount
  inCount : p.inCount ≤ 1023
  axlesNonempty : 1 ≤ p.axles.length
  axles : p.axles.length ≤ 128
  axlePaces : ∀ a ∈ p.axles, ∀ pace, a.pace = some pace → PaceInRange pace
  historyLength : p.paces.length ≤ 4
  history : ∀ pace ∈ p.paces, PaceInRange pace
  pace : PaceInRange p.pace
  spacingsTaken : p.spacingsTaken ≤ 8

/-- The passages in progress are in range (R45). -/
def PassagesInRange (s : State) : Prop := ∀ (t : Track) (p : Passage), s.passage? t = some p → p.InRange

/-- The ranges of a channel's record (R64, R74): travel, carry, and the period in force while RUNNING. -/
structure Channel.InRange (c : Channel) : Prop where
  travel : c.travel ≤ 4294967295
  carry : c.carry ≤ 999999
  period : ∀ t held period off elapsed, c.run = .running t held period off elapsed →
    5000 ≤ period ∧ period ≤ 2000000

/-- The channels are in range (R64). -/
def ChannelsInRange (s : State) : Prop := ∀ c : Fin 4, s.channels[c].InRange

/-! ### Lines and the clock -/

/-- A pulse that is being qualified is on an active line (R23); the time within a microsecond is below one; while
RSTN is low the Timestamp Counter is 0 and no pulse is qualified (R22, R24, R205). -/
structure ClockAndLinesSound (s : State) : Prop where
  subUs : s.subUs < 1000
  held : s.rstnLow = true → s.time = 0 ∧ s.subUs = 0
  heldLines : s.rstnLow = true → ∀ l : Fin 8, s.lines[l].stage = .waitRest
  qualifying : ∀ (l : Fin 8) (lead : Stamp) (elapsed : Nat),
    s.lines[l].stage = .qualifying lead elapsed → s.lines[l].active = true

/-! ### Tracks and channels -/

/-- What a channel of an ACTIVE track does: STOPPED after a reversal, else RUNNING for the track (R49, R65, R66). -/
def channelFollows (t : Track) (p : Passage) (c : Channel) : Prop :=
  if p.reversed then c.run = .stopped else ∃ held period off elapsed, c.run = .running t held period off elapsed

/-- A track out of OFF has a valid site entry (R16, R39); a RUNNING channel belongs to an ACTIVE track that its
camera's site entry names (R65); a STOPPED channel has an empty window list (R86); every channel of an ACTIVE
track's cameras runs until the first reversal (R49, R66). -/
structure TracksSound (s : State) : Prop where
  entryValid : ∀ t, (s.track t).state.isOn = true → (s.siteTrack? t).isSome = true
  running : ∀ (cam : Fin 4) (t : Track) held period off elapsed,
    s.channels[cam].run = .running t held period off elapsed →
      (s.passage? t).isSome = true ∧ cam ∈ s.camerasOf t
  stopped : ∀ cam : Fin 4, s.channels[cam].run = .stopped →
    s.channels[cam].windows = [] ∧ s.channels[cam].openWindow = none
  follows : ∀ (t : Track) (p : Passage), s.passage? t = some p →
    ∀ cam ∈ s.camerasOf t, channelFollows t p s.channels[cam]

/-- The window plan of a passage and the window lists of its channels agree (R55, R57, R76, R77, R80): a PENDING entry
has its window in its channel's list, and a window in the list has a PENDING entry and no other; while matching goes on
there are neither plan nor windows; a window's head class stays valid (R8, R10). With this a passage end leaves no entry
PENDING (log entry 12). -/
structure PlansSound (s : State) : Prop where
  pending : ∀ (t : Track) (p : Passage), s.passage? t = some p → ∀ e ∈ p.plan, e.outcome = .pending →
    e.camera ∈ s.camerasOf t ∧ ∃ w ∈ s.channels[e.camera].windows, w.panto = e.panto
  listed : ∀ (t : Track) (p : Passage), s.passage? t = some p → ∀ e ∈ p.plan, e.camera ∈ s.camerasOf t →
    ∀ w ∈ s.channels[e.camera].windows, w.panto = e.panto → e.outcome = .pending
  distinct : ∀ cam : Fin 4, (s.channels[cam].windows.map Window.panto).Nodup
  unplanned : ∀ (t : Track) (p : Passage), s.passage? t = some p → p.matching = .seeking →
    p.plan = [] ∧ ∀ cam ∈ s.camerasOf t, s.channels[cam].windows = []
  heads : ∀ cam : Fin 4, ∀ w ∈ s.channels[cam].windows, (s.tables.active.headClasses[w.headClass]).isSome = true

/-! ### The interpreter -/

/-- The interpreter can execute the command `c` at the head of its queue, `rest` being what stands behind it: RSTN
is high, the interpreter is READY and the reply queue has room (R185). -/
structure State.Ready (s : State) (c : Command) (rest : List Command) : Prop where
  awake : s.rstnLow = false
  running : s.uplink.halted = false
  room : s.uplink.replies.length < 4
  head : s.uplink.commands = c :: rest

/-- Steps 1 and 2 of an execution (R185): the command has left the queue, and the partner address is the source
address of its frame. -/
def State.taken (s : State) (c : Command) (rest : List Command) : State :=
  { s with uplink := { s.uplink with commands := rest, partner := c.source } }

/-- Step 4 of an execution (R185, R186): the reply stands at the tail of the reply queue. -/
def State.replied (s : State) (c : Command) (status : Status) (index : Option Nat) (body : List Byte) : State :=
  { s with
    uplink :=
      { s.uplink with
        replies := s.uplink.replies ++ [{ tag := c.tag, code := c.code, status := status, index := index, body := body }] } }

/-! ### The fields of a record -/

/-- The number that the `width` bytes at `offset` hold, most significant byte first (R199). -/
def fieldAt (bytes : List Byte) (offset width : Nat) : Nat := beNat ((bytes.drop offset).take width)

/-- The bytes hold a layout's fields, each given by its offset, its width and its value, a number of that width
(R199). -/
def HoldsFields (bytes : List Byte) (fields : List (Nat × Nat × Nat)) : Prop :=
  ∀ f ∈ fields, fieldAt bytes f.1 f.2.1 = f.2.2 % 256 ^ f.2.1

/-- The fields of a result, from its presence byte on (R203, R204): an absent one is 00h throughout (R199). -/
def resultFields (offset : Nat) : Option WearResult → List (Nat × Nat × Nat)
  | none => [(offset, 1, 0), (offset + 1, 2, 0), (offset + 3, 1, 0), (offset + 4, 2, 0), (offset + 6, 2, 0),
      (offset + 8, 1, 0)]
  | some r => [(offset, 1, 1), (offset + 1, 2, r.minimum), (offset + 3, 1, r.cell), (offset + 4, 2, r.mean),
      (offset + 6, 2, r.wear), (offset + 8, 1, r.steps)]

/-- A staged entry as a staging command spells it (R202): its index, a form byte, and for form 01h the fields of its
kind to the last. -/
structure Spelled where
  index : Nat
  fields : Option RawEntry
  bytes : List Byte
  deriving DecidableEq, Repr

/-- The bytes of a spelled entry are those of its index, its form and its fields (R202). -/
def Spelled.Sound (t : TableId) (x : Spelled) : Prop :=
  ∃ i : Byte, i.toNat = x.index ∧ match x.fields with
    | none => x.bytes = [i, 0x00#8]
    | some raw => ∃ fields, x.bytes = i :: 0x01#8 :: fields
        ∧ ∀ rest, takeEntry (entryKind t x.index) (fields ++ rest) = some (raw, rest)

/-- Every field of a spelled entry lies in its range (R14, step 3). A byte that holds no code of its field is out of
range (DEDUCED, unsafe: log entry 6). -/
def Spelled.Passes (x : Spelled) : Prop :=
  ∀ raw, x.fields = some raw → ∃ e, entryOf raw = some e ∧ e.inRange x.index = true

/-! ### The frame store -/

/-- The frame store is in its canonical form, and every segment number is one of the 512 (R160). -/
structure StoreInRange (s : State) : Prop where
  store : s.store.wf = true
  freeList : ∀ g ∈ s.freeList, g < 512
  chains : ∀ (k : Fin 32) (c : Capture), s.slots[k] = some c → ∀ g ∈ c.chain, g < 512

/-- A capture occupies a slot. -/
def State.Holds (s : State) (k : Fin 32) (c : Capture) : Prop := s.slots[k] = some c

/-- Two captures in the descriptor table never share an id (R83). -/
def IdsDistinct (s : State) : Prop :=
  ∀ j k c d, s.Holds j c → s.Holds k d → c.id = d.id → j = k

/-- A capture that waits for delivery or is being sent (R165). -/
def Capture.Settled (c : Capture) : Prop := c.state = .complete ∨ c.state = .sending

/-- A capture that rows can still reach (R165). -/
def Capture.Live (c : Capture) : Prop := c.state = .opened ∨ c.state = .closing

/-- The law of the delivery queue (R169): each capture at most once, only captures in COMPLETE or SENDING, every
such capture; at most one SENDING, and it is the head and the sender's. -/
structure DeliverySound (s : State) : Prop where
  nodup : s.delivery.Nodup
  settled : ∀ id ∈ s.delivery, ∃ k c, s.Holds k c ∧ c.id = id ∧ c.Settled
  joined : ∀ k c, s.Holds k c → c.Settled → c.id ∈ s.delivery
  head : ∀ id, s.sender.capture = some id →
    s.delivery.head? = some id ∧ ∃ k c, s.Holds k c ∧ c.id = id ∧ c.state = .sending
  oneSends : ∀ k c, s.Holds k c → c.state = .sending → s.sender.capture = some c.id

/-- Every tagged entry of an outstanding trigger list names a capture of its camera that is OPEN or CLOSING, and
every OPEN window names an OPEN capture of its camera (R76, R99, R102). -/
structure TagsSound (s : State) : Prop where
  entries : ∀ (cam : Fin 4) (e : Entry) (id : CaptureId), e ∈ s.ports[cam].outstanding → e.capture = some id →
    ∃ k c, s.Holds k c ∧ c.id = id ∧ c.camera = cam ∧ c.Live
  windows : ∀ (cam : Fin 4) (w : OpenWindow), s.channels[cam].openWindow = some w →
    ∃ k c, s.Holds k c ∧ c.id = w.capture ∧ c.camera = cam ∧ c.state = .opened

/-- The captures in the descriptor table: their ids, the delivery queue, the tags. -/
structure CapturesSound (s : State) : Prop where
  ids : IdsDistinct s
  delivery : DeliverySound s
  tags : TagsSound s

/-- The segments that rows yet unsent occupy in a chain of `stored` rows of which `sent` have been sent (R166,
R174). -/
def segmentsLeft (stored sent : Nat) : Nat := if stored ≤ sent then 0 else (stored + 63) / 64 - sent / 64

/-- The rows sent at each next record of a capture of `stored` rows (R171, R172, R174). -/
def nextSound (stored sent : Nat) : NextRecord → Prop
  | .header => sent = 0
  | .block b => sent = 4 * b ∧ sent < stored
  | .captureEnd => sent = stored

/-- A record in transmission is the next record of the sender's capture (R173). -/
def kindMatches (stored : Nat) : NextRecord → TxKind → Prop
  | .header, kind => kind = .header
  | .block b, kind => kind = .block (blockRows stored b)
  | .captureEnd, kind => kind = .captureEnd

/-- A kind of capture record (R172). -/
def TxKind.isCapture : TxKind → Bool
  | .reply _ | .alert | .summary | .note => false
  | .header | .block _ | .captureEnd => true

/-- The sender is in transmission exactly while a capture record is, and that record is its next one (R171, R173). -/
structure SenderSound (s : State) : Prop where
  sending : ∀ k c, s.Holds k c → c.state = .sending →
    s.sender.rowsSent ≤ c.stored ∧ nextSound c.stored s.sender.rowsSent s.sender.next
      ∧ ∀ t, s.uplink.transmitter = some t → t.kind.isCapture = true → kindMatches c.stored s.sender.next t.kind
  busy : s.sender.inTransmission = true ↔ ∃ t, s.uplink.transmitter = some t ∧ t.kind.isCapture = true
  idle : s.sender.capture = none → s.sender.inTransmission = false

/-- Every chain is as long as its rows need (R166, R174). -/
structure ChainsSound (s : State) : Prop where
  held : ∀ k c, s.Holds k c → c.state ≠ .sending → c.chain.length = segmentsLeft c.stored 0
  sent : ∀ k c, s.Holds k c → c.state = .sending → c.chain.length = segmentsLeft c.stored s.sender.rowsSent

/-- The chain in a slot; a free slot has none. -/
def chainIn (o : Option Capture) : List Nat :=
  match o with
  | none => []
  | some c => c.chain

/-- How often a segment number stands in the free list and in the chains together. -/
def timesHeld (s : State) (g : Nat) : Nat :=
  s.freeList.count g + ∑ k : Fin 32, (chainIn s.slots[k]).count g

/-- Each of the 512 segments is in the free list or in the chain of one descriptor, once, and no other number is
(R161). -/
def SegmentsPartitioned (s : State) : Prop := ∀ g, timesHeld s g = if g < 512 then 1 else 0

/-- What the blocks hold for the capture in a slot: a conditioning record of it (R108), and the working set it was
given (R120, R121). A free slot has no conditioning record, and a held working set is that of a capture in the
table (R118, R123, R175). -/
structure SlotsSound (s : State) : Prop where
  records : ∀ k c, s.Holds k c → ∃ r, s.condRecords[k] = some r ∧ r.capture = c.id ∧ r.camera = c.camera
    ∧ r.role = c.role ∧ r.hasWorkSet = c.workSet.isSome
  freeRecords : ∀ k : Fin 32, s.slots[k] = none → s.condRecords[k] = none
  workSets : ∀ k c w, s.Holds k c → c.workSet = some w →
    w.val / 2 = c.camera.val ∧ ∃ x, s.workSets[w] = some x ∧ x.capture = c.id ∧ x.slot = k
  heldSets : ∀ (w : Fin 8) (x : WorkSet), s.workSets[w] = some x → ∃ c, s.Holds x.slot c ∧ c.workSet = some w

/-- The frame store's law with what keeps it. -/
structure StoreSound (s : State) : Prop where
  captures : CapturesSound s
  sender : SenderSound s
  chains : ChainsSound s
  segments : SegmentsPartitioned s

end Sys2Proof.Machine
end

