-- ==== Sys2Proof/Certificates/Slice0/Obligations.lean ====
section
/-! DEFINITION. The statements for the provers: what the commands do, by the manual's rules, and the invariants that
every step keeps. In them, `now` is the state at the command's moment, when its `after` nanoseconds have passed. -/

open Sys2Proof Sys2Proof.Machine

/-! ### The queue of commands, and time -/

/-- A step with a command at the front of the queue is the command's effect on the state with the queue's rest. -/
def Obligations.StepTakesFrontCommand : Prop :=
  ∀ (c : Instr) (s : State), step { s with pending := c :: s.pending } = exec c s

/-- Every command answers a next state, whatever the state, and leaves the queue of waiting commands as it is. No
rule stops the part: no command faults and none is refused. -/
def Obligations.CommandsAnswerAndKeepTheQueue : Prop :=
  ∀ (c : Instr) (s : State), ∃ t, exec c s = .next t ∧ t.pending = s.pending

/-- R22: the Timestamp Counter counts microseconds, rolling, and a span of time in two parts is the span in one; while
RSTN is low no time passes. A time moved on by microseconds rolls too. With the time, the time since the leading edge of
each pulse being qualified (R23), the interval in progress of each RUNNING channel (R68), the return lanes, as ReturnLane
says, and the time of the record in transmission (R193) go on by the same span; the moment at which records arrived
together is over (R194, log entry 19); nothing else changes. On an empty queue a step lets one 40 ns clock period pass
(the model's choice, log entry 1). -/
def Obligations.TimePasses : Prop :=
  (∀ (s : State) (ns : Nat), s.rstnLow = false →
    (1000 * (s.pass ns).time.toNat + (s.pass ns).subUs) % (1000 * 4294967296)
        = (1000 * s.time.toNat + s.subUs + ns) % (1000 * 4294967296)
      ∧ (s.pass ns).subUs < 1000)
  ∧ (∀ (s : State) (a b : Nat), (s.pass a).pass b = s.pass (a + b))
  ∧ (∀ (s : State) (ns : Nat), s.rstnLow = true → s.pass ns = s)
  ∧ (∀ (time : Stamp) (us : Nat), (later time us).toNat = (time.toNat + us) % 4294967296)
  ∧ (∀ (s t : State) (ns : Nat), s.rstnLow = false → t = s.pass ns →
    (∀ l : Fin 8, (∀ lead elapsed, s.lines[l].stage = .qualifying lead elapsed →
          t.lines[l] = { active := s.lines[l].active, stage := .qualifying lead (elapsed + ns) })
        ∧ ((∀ lead elapsed, s.lines[l].stage ≠ .qualifying lead elapsed) → t.lines[l] = s.lines[l]))
    ∧ (∀ c : Fin 4, (s.channels[c].run = .stopped → t.channels[c] = s.channels[c])
        ∧ ∀ track held period off elapsed, s.channels[c].run = .running track held period off elapsed →
          t.channels[c] = { s.channels[c] with run := .running track held period off (elapsed + ns) })
    ∧ (∀ c : Fin 4, t.ports[c] = { s.ports[c] with lane := s.ports[c].lane.pass ns })
    ∧ (t.uplink = { s.uplink with transmitter := t.uplink.transmitter, mayLead := t.uplink.mayLead }
      ∧ (s.uplink.transmitter = none → t.uplink.transmitter = none)
      ∧ (∀ x, s.uplink.transmitter = some x → t.uplink.transmitter = some { x with elapsed := x.elapsed + ns })
      ∧ (ns = 0 → t.uplink.mayLead = s.uplink.mayLead) ∧ (0 < ns → t.uplink.mayLead = []))
    ∧ t = { s with
        time := t.time, subUs := t.subUs, lines := t.lines, channels := t.channels, ports := t.ports
        uplink := t.uplink })
  ∧ (∀ s : State, s.pending = [] → step s = .next (s.pass 40))

/-! ### Resets -/

/-- POWER_ON gives every block its power-on values (R3, R22, R63, R83, R89, R107, R161, R192): the tables EMPTY and
not loaded, both tracks OFF, every channel STOPPED, every free list place filled, DRAIN ON. The pins keep their levels
and the frame store's rows are not cleared (log entry 5); the return lanes can start a frame at once (log entry 13). -/
def Obligations.PowerOnResets : Prop :=
  ∀ s : State, ∃ t, exec .powerOn s = .next t
    ∧ t = { State.reset with
            rstnLow := s.rstnLow
            lines := s.lines.map fun l => { active := l.active, stage := .waitRest }
            store := s.store
            freeIndex := s.freeIndex
            pending := s.pending }
    ∧ t.time = 0 ∧ t.tables.latch = false
    ∧ (∀ (x : TableId) (index : Nat), index < tableSize x →
        t.tables.active.entry x index = some none ∧ t.tables.staging.entry x index = some none
          ∧ t.tables.generation[tableIndex x] = 0 ∧ t.tables.loaded[tableIndex x] = false)
    ∧ (∀ k : Track, (t.track k).state = .off ∧ (t.track k).stray = 0)
    ∧ t.passageNumber = 0 ∧ t.captureIds = 0
    ∧ (∀ c : Fin 4, t.channels[c].run = .stopped ∧ t.channels[c].sequence = 0 ∧ t.ports[c].up = false
        ∧ t.ports[c].outstanding = [])
    ∧ (∀ k : Fin 32, t.slots[k] = none ∧ t.condRecords[k] = none)
    ∧ (∀ w : Fin 8, t.workSets[w] = none)
    ∧ t.freeList = List.range 512 ∧ t.delivery = [] ∧ t.sender.capture = none
    ∧ t.uplink.up = false ∧ t.uplink.drain = true ∧ t.uplink.recordNumber = 0
    ∧ t.uplink.partner = BitVec.allOnes 48 ∧ t.uplink.cumulative = 0
    ∧ (∀ c ∈ allCounters t, c = 0)

/-- R205: RSTN low for 1 µs or more performs the RSTN reset of every block, and the part is held in reset while it
stays low: an event then changes at most the levels of the detector pins. A shorter pulse either has no effect or acts
as a full RSTN reset; which of the two is left free, and one reported while RSTN is already low changes nothing (log
entry 3). A reset keeps the pins and the frame store's contents and sets the time within the microsecond to 0 (log entry
5); the return lanes can start a frame at once (log entry 13): these are the model's, not R205's.
When RSTN returns high nothing else changes, and the Timestamp Counter, held at 0, counts from there (R22). -/
def Obligations.RstnResets : Prop :=
  ((∀ (s : State) (after lowNs : Nat), 1000 ≤ lowNs →
    exec (.rstnReset after lowNs) s
      = .next { State.reset with
                rstnLow := true
                lines := s.lines.map fun l => { active := l.active, stage := .waitRest }
                store := s.store
                freeIndex := s.freeIndex
                pending := s.pending })
  ∧ (∀ (c : Instr) (s : State), s.rstnLow = true → c ≠ .powerOn → (∀ a n, c ≠ .rstnReset a n) →
      (∀ a, c ≠ .rstnRelease a) →
      ∃ lines : Vector Line 8, exec c s = .next { s with lines := lines }
        ∧ ∀ l : Fin 8, lines[l].stage = s.lines[l].stage)
  ∧ (∀ (s now : State) (after lowNs : Nat), now = s.pass after → lowNs < 1000 → now.rstnLow = false →
      exec (.rstnReset after lowNs) s = .next { now with freeIndex := now.freeIndex + 1 }
      ∨ exec (.rstnReset after lowNs) s
          = .next { State.reset with
                    lines := now.lines.map fun l => { active := l.active, stage := .waitRest }
                    store := now.store
                    freeIndex := now.freeIndex + 1
                    pending := now.pending })
  ∧ (∀ (s : State) (after lowNs : Nat), s.rstnLow = true → lowNs < 1000 →
      exec (.rstnReset after lowNs) s = .next s))
  ∧ ((∀ (s : State) (after : Nat), s.rstnLow = true →
    exec (.rstnRelease after) s = .next { s with rstnLow := false })
  ∧ (∀ (s : State) (after : Nat), s.rstnLow = false → exec (.rstnRelease after) s = .next (s.pass after)))

/-- R191: the soft reset is performed at the end of the RESET reply; at the link change, after its other effects, when
the link goes DOWN with the RESET reply not sent; and at the execution of a RESET while the link is DOWN. The soft reset
keeps the Timestamp Counter, the active tables with their generations and loaded flags, the passage number and capture
id counters, every sequence counter, every link state, the record number and the partner address; it empties staging,
clears the latch, and takes every track, channel, port list, slot, queue and counter to its reset value, the notes of
unprofiled captures to none, the free list to its 512 segments in order and DRAIN to ON. What a return lane sends is cut
off (that a waiting token goes with it, and the idle word after it, are the model's: log entries 7 and 13). That a
RECORD_END after the end of the RESET reply still acts is the model's choice (log entry 2), and so is that no crossing
handed over before the reset is taken after it (R37, log entry 20). -/
def Obligations.SoftReset : Prop :=
  ((∀ (s : State) (c : Command) (rest : List Command), s.Ready c rest → c.code = 0x0E#8 →
    ∃ t : State, t = { (s.taken c rest).replied c .ok none [] with
              uplink := { ((s.taken c rest).replied c .ok none []).uplink with halted := true } }
      ∧ exec .reset s = .next (if s.uplink.up then t else softReset t))
  ∧ (∀ (s now : State) (after : Nat) (x : Transmission), now = s.pass after → now.rstnLow = false →
      now.uplink.transmitter = some x → x.kind = .reply 0x0E#8 → 8 * (x.frame.length + 20) ≤ x.elapsed →
      exec (.recordEnd after) s
        = .next (softReset { now with uplink := { now.uplink with transmitter := none } }))
  ∧ (∀ (s now t : State) (after : Nat) (inReception : Bool), now = s.pass after → now.rstnLow = false →
      now.uplink.up = true → now.uplink.halted = true →
      exec (.uplinkLinkDown after inReception)
          { s with uplink := { s.uplink with halted := false } } = .next t →
      exec (.uplinkLinkDown after inReception) s = .next (softReset t)))
  ∧ (∀ s t : State, t = softReset s →
    (t.time = s.time ∧ t.subUs = s.subUs ∧ t.tables.active = s.tables.active
      ∧ t.tables.generation = s.tables.generation ∧ t.tables.loaded = s.tables.loaded
      ∧ t.passageNumber = s.passageNumber ∧ t.captureIds = s.captureIds ∧ t.store = s.store
      ∧ t.uplink.up = s.uplink.up ∧ t.uplink.recordNumber = s.uplink.recordNumber
      ∧ t.uplink.partner = s.uplink.partner
      ∧ ∀ c : Fin 4, t.channels[c].sequence = s.channels[c].sequence ∧ t.ports[c].up = s.ports[c].up)
    ∧ (t.tables.staging = Images.empty ∧ t.tables.latch = false
      ∧ (∀ l : Fin 8, t.lines[l].active = s.lines[l].active ∧ ∀ lead e, t.lines[l].stage ≠ .qualifying lead e)
      ∧ (∀ i : Fin 4, t.stations[i] = none)
      ∧ (∀ k : Track, (t.track k).state = .off)
      ∧ (∀ c : Fin 4, t.channels[c] = { Channel.reset with sequence := s.channels[c].sequence }
          ∧ t.ports[c] = { Port.reset with
                           up := s.ports[c].up
                           lane := { item := none, elapsed := 0, waiting := []
                                     idle := if s.ports[c].lane.item = none then s.ports[c].lane.idle else 0 } })
      ∧ (∀ k : Fin 32, t.slots[k] = none ∧ t.condRecords[k] = none) ∧ (∀ w : Fin 8, t.workSets[w] = none)
      ∧ t.unprofiled = [] ∧ t.freeList = List.range 512 ∧ t.delivery = [] ∧ t.sender.capture = none
      ∧ t.sender.inTransmission = false ∧ t.sender.rowsSent = 0
      ∧ t.uplink = { Uplink.reset with
                     up := s.uplink.up, recordNumber := s.uplink.recordNumber, partner := s.uplink.partner }
      ∧ ∀ c ∈ allCounters t, c = 0))

/-! ### The Axle Detection Unit -/

/-- R23, R24: a leading edge on a line at rest records the time and begins to qualify the pulse; a line already active
takes none. A trailing edge before the pulse's 40 µs have passed makes it a glitch; at that very moment either order is
allowed, and a trailing edge that stands in the queue before PULSE_ACCEPTED makes it a glitch (the model's choice, log
entry 1). After them the pulse is accepted and the line falls, whether PULSE_ACCEPTED has been sent or, by the model's
choice (log entries 1 and 2), is made good at the trailing edge. While RSTN is low the pin alone follows the edge. -/
def Obligations.LineEdges : Prop :=
  ∀ (s now : State) (after : Nat) (l : Fin 8), now = s.pass after →
    (now.rstnLow = false → now.lines[l].active = false →
      exec (.leadingEdge after l) s
        = .next (now.modLine l fun _ => { active := true, stage := .qualifying now.time 0 }))
    ∧ (now.rstnLow = false → now.lines[l].active = true → exec (.leadingEdge after l) s = .next now)
    ∧ (now.rstnLow = false → now.lines[l].active = true →
      (∃ lead elapsed, now.lines[l].stage = .qualifying lead elapsed ∧ elapsed ≤ 40000) →
      exec (.trailingEdge after l) s
        = .next ((now.modLine l fun _ => { active := false, stage := .ready }).bumpGlitch l))
    ∧ (now.rstnLow = false → now.lines[l].active = true →
      (∃ lead elapsed, now.lines[l].stage = .qualifying lead elapsed ∧ 40000 < elapsed) →
      ∀ t, exec (.pulseAccepted after l) s = .next t →
        t.lines[l] = { active := true, stage := .accepted }
        ∧ exec (.trailingEdge after l) s = .next (t.modLine l fun _ => { active := false, stage := .ready }))
    ∧ (now.rstnLow = false → now.lines[l].active = true → (∀ lead e, now.lines[l].stage ≠ .qualifying lead e) →
      exec (.trailingEdge after l) s = .next (now.modLine l fun _ => { active := false, stage := .ready }))
    ∧ (now.rstnLow = false → now.lines[l].active = false → exec (.trailingEdge after l) s = .next now)
    ∧ (now.rstnLow = true →
      exec (.leadingEdge after l) s = .next (now.modLine l fun x => { active := true, stage := x.stage })
      ∧ exec (.trailingEdge after l) s = .next (now.modLine l fun x => { active := false, stage := x.stage }))

/-- R21, R26: a pulse that has been qualified for 40 µs on an active line is accepted; a station in CLEAR takes it as
the first pulse of a wait, with the spacing read at that moment and the deadline computed from it. With no valid site
entry the station stays CLEAR and no counter changes. Lines WL0, WL1 serve track 1 A, WL2, WL3 track 1 B, and WL4 to
WL7 track 2 in the same way; WL0, WL3, WL4 and WL7 are outer detectors. That a PULSE_ACCEPTED sent after the 40 µs still
acts, and one sent before them does nothing, is the model's choice (log entry 2). -/
def Obligations.PulseStartsWait : Prop :=
  (∀ (s now : State) (after : Nat) (l : Fin 8) (lead : Stamp) (elapsed : Nat) (t : Track) (st : Station)
      (d : Detector), now = s.pass after → now.rstnLow = false →
    (l, t, st, d) ∈ [(0, Track.t1, Station.a, Detector.outer), (1, .t1, .a, .inner), (2, .t1, .b, .inner),
      (3, .t1, .b, .outer), (4, .t2, .a, .outer), (5, .t2, .a, .inner), (6, .t2, .b, .inner),
      (7, .t2, .b, .outer)] →
    now.lines[l] = { active := true, stage := .qualifying lead elapsed } → 40000 ≤ elapsed →
    now.stations[stationIndex t st] = none →
    (∀ site, now.siteTrack? t = some site →
      exec (.pulseAccepted after l) s
        = .next ((now.modLine l fun _ => { active := true, stage := .accepted }).setStation (stationIndex t st)
            (some
              { seen := d
                first := lead
                spacing := match st with | .a => site.spacingA | .b => site.spacingB
                deadline := later lead ((match st with | .a => site.spacingA | .b => site.spacingB) * 1000 + 40) })))
    ∧ (now.siteTrack? t = none →
      exec (.pulseAccepted after l) s
        = .next (now.modLine l fun _ => { active := true, stage := .accepted })))
  ∧ (∀ (s now : State) (after : Nat) (l : Fin 8), now = s.pass after →
      (∀ lead elapsed, now.lines[l].stage = .qualifying lead elapsed → now.lines[l].active = false ∨ elapsed < 40000) →
      exec (.pulseAccepted after l) s = .next now)

/-- R27, R28: a partner pulse completes the pair and the station returns to CLEAR: an ARRIVAL at the time of the inner
pulse that ends it, a DEPARTURE at the time of the inner pulse that began it, each with the axle pace of the time
between the pulses. A second pulse of the same detector hands the waiting one on as UNPAIRED, counts it, and starts a
fresh wait, or leaves the station CLEAR without a valid site entry. That a PULSE_ACCEPTED sent after the 40 µs still acts
is the model's choice (log entry 2), and so is that the crossing is taken in the same command (R37, log entry 20). -/
def Obligations.PulseEndsWait : Prop :=
  ∀ (s now got : State) (after : Nat) (l : Fin 8) (lead : Stamp) (elapsed : Nat) (t : Track) (st : Station) (w : Wait),
    now = s.pass after → now.rstnLow = false → t = lineTrack l → st = lineStation l →
    now.lines[l] = { active := true, stage := .qualifying lead elapsed } → 40000 ≤ elapsed →
    now.stations[stationIndex t st] = some w →
    got = now.modLine l (fun _ => { active := true, stage := .accepted }) →
    (w.seen = .outer → lineDetector l = .inner →
      exec (.pulseAccepted after l) s
        = .next (takeCrossing t
            { station := st
              kind := .arrival (axlePace (lead - w.first).toNat w.spacing).1
                (axlePace (lead - w.first).toNat w.spacing).2
              time := lead }
            (got.setStation (stationIndex t st) none)))
    ∧ (w.seen = .inner → lineDetector l = .outer →
      exec (.pulseAccepted after l) s
        = .next (takeCrossing t
            { station := st
              kind := .departure (axlePace (lead - w.first).toNat w.spacing).1
                (axlePace (lead - w.first).toNat w.spacing).2
              time := w.first }
            (got.setStation (stationIndex t st) none)))
    ∧ (w.seen = lineDetector l →
      exec (.pulseAccepted after l) s
        = .next (takeCrossing t { station := st, kind := .unpaired, time := w.first }
            ((got.setStation (stationIndex t st)
                ((now.siteTrack? t).map fun site =>
                  { seen := lineDetector l
                    first := lead
                    spacing := match st with | .a => site.spacingA | .b => site.spacingB
                    deadline :=
                      later lead ((match st with | .a => site.spacingA | .b => site.spacingB) * 1000 + 40) })).bumpUnpaired
              (stationIndex t st))))

/-- R29: when the Timestamp Counter reaches the deadline of a wait, the waiting pulse is handed on as an UNPAIRED
crossing at the first time, the station's unpaired counter goes up, and the station goes to CLEAR. Before the deadline,
and at a station in CLEAR, nothing changes. That a PAIR_TIMEOUT sent after the deadline, by less than half a roll of the
counter, still acts is the model's choice (log entry 2), and so is that the crossing is taken in the same command (R37,
log entry 20). -/
def Obligations.WaitExpires : Prop :=
  ∀ (s now : State) (after : Nat) (t : Track) (st : Station), now = s.pass after → now.rstnLow = false →
    (now.stations[stationIndex t st] = none → exec (.pairTimeout after t st) s = .next now)
    ∧ ∀ w : Wait, now.stations[stationIndex t st] = some w →
      ((now.time - w.deadline).toNat < 2147483648 →
        exec (.pairTimeout after t st) s
          = .next (takeCrossing t { station := st, kind := .unpaired, time := w.first }
              ((now.setStation (stationIndex t st) none).bumpUnpaired (stationIndex t st))))
      ∧ (2147483648 ≤ (now.time - w.deadline).toNat → exec (.pairTimeout after t st) s = .next now)

/-- R31, R67: the axle pace and the line period are quotients rounded to nearest, halves going up, then clamped, and
the mark says whether the value before the clamp lay outside; the upper pace clamp is never needed within a pair
timeout.
R50: the pace history holds the last four paces of the passage direction, oldest first, and the passage pace is
their sum divided by their number, rounded down; paces in 8,333 to 1,000,000 ns/mm give a passage pace in that range. -/
def Obligations.PaceArithmetic : Prop :=
  ((∀ us d : Nat, 0 < d →
    ∃ raw, 2 * d * raw ≤ 2 * (us * 1000) + d ∧ 2 * (us * 1000) < 2 * d * raw + d
      ∧ axlePace us d = (max 8333 (min raw 1000000), decide (raw < 8333 ∨ 1000000 < raw))
      ∧ (us ≤ d * 1000 → raw ≤ 1000000))
  ∧ (∀ (pace : Nat) (cam : SiteCamera), cam.periodMin ≤ cam.periodMax →
    ∃ raw, 1000 * raw ≤ pace * cam.pitch + 500 ∧ pace * cam.pitch + 500 < 1000 * raw + 1000
      ∧ linePeriod pace cam
          = (max cam.periodMin (min raw cam.periodMax), decide (raw < cam.periodMin ∨ cam.periodMax < raw))
      ∧ nextPeriod false pace cam = linePeriod pace cam
      ∧ nextPeriod true pace cam = (cam.periodMax, true)))
  ∧ (∀ (p q : Passage) (now : Stamp) (hold pace : Nat), p.paces.length ≤ 4 → q = p.takePace now hold pace →
    q.paces = (p.paces ++ [pace]).drop (p.paces.length - 3) ∧ q.paces = pushPace pace p.paces ∧ 1 ≤ q.paces.length ∧ q.paces.length ≤ 4
    ∧ q.pace * q.paces.length ≤ q.paces.sum ∧ q.paces.sum < (q.pace + 1) * q.paces.length
    ∧ q.stale = false ∧ q.staleDeadline = later now (hold * 1000 + 1)
    ∧ ((∀ x ∈ p.paces, 8333 ≤ x ∧ x ≤ 1000000) → 8333 ≤ pace ∧ pace ≤ 1000000 →
        8333 ≤ q.pace ∧ q.pace ≤ 1000000))

/-! ### The Passage Tracker -/

/-- R43: a crossing that reaches a track in OFF or SETTLING, and a DEPARTURE or UNPAIRED crossing in IDLE, is a stray
axle: the track's stray axle counter goes up by 1, saturating, and no other state changes. -/
def Obligations.CrossingOutsidePassage : Prop :=
  ∀ (s : State) (t : Track) (x : Crossing),
    (s.track t).state = .off ∨ (∃ d, (s.track t).state = .settling d)
      ∨ ((s.track t).state = .idle ∧ ∀ pace clamped, x.kind ≠ .arrival pace clamped) →
    takeCrossing t x s
      = s.modTrack t (fun r =>
          { r with stray := if r.stray = BitVec.allOnes 16 then BitVec.allOnes 16 else r.stray + 1 })

/-- R44, R46, R66: an ARRIVAL on a track in IDLE makes it ACTIVE with a new context, takes the next passage number, and
starts the channels of the track's cameras with travel 0, carry 0 and the period of the arrival's pace; the sequence
counters go on, and nothing else changes. R2, R38: the site entry of a track is the active one whose valid field is yes,
and the cameras of a track are those whose active site entry names it, in ascending number. -/
def Obligations.PassageStarts : Prop :=
  (∀ (s s' : State) (t : Track) (x : Crossing) (pace : Nat) (clamped : Bool) (site : SiteTrack),
    (s.track t).state = .idle → x.kind = .arrival pace clamped → s.siteTrack? t = some site →
    s' = takeCrossing t x s →
    s' = { s with tracks := s'.tracks, channels := s'.channels, passageNumber := s.passageNumber + 1 }
    ∧ (∀ k, k ≠ t → s'.track k = s.track k) ∧ (s'.track t).stray = (s.track t).stray
    ∧ (s'.track t).state = .active
        { number := s.passageNumber
          direction := (match x.station with | .a => .ab | .b => .ba)
          start := x.time
          inCount := 1
          outCount := 0
          axles := [{ time := x.time, pace := some pace, spacing := none, unpaired := false, clamped := clamped }]
          paces := [pace]
          pace := pace
          stale := false
          staleDeadline := later s.time (site.paceHold * 1000 + 1)
          quietDeadline := later s.time (site.quiet * 1000)
          consistGen := s.tables.generation[tableIndex .consist]
          matching := .seeking
          candidates := startCandidates s.tables.active
          spacingsTaken := 0
          profile := none
          reversed := false
          unpairedSeen := false
          paceClamp := clamped
          axleOverflow := false
          plan := [] }
    ∧ (∀ c ∈ startCandidates s.tables.active, c.deviation = 0)
    ∧ (∀ i : Fin 32, (∃ c ∈ startCandidates s.tables.active, c.index = i)
        ↔ i ≠ 0 ∧ s.tables.active.consist[i].isSome = true)
    ∧ (∀ (cam : Fin 4) (e : SiteCamera), s.siteCamera? cam = some e → e.track = some t →
        s'.channels[cam]
          = { run := .running t false (linePeriod pace e).1 (linePeriod pace e).2 0
              travel := 0
              carry := 0
              sequence := s.channels[cam].sequence
              windows := []
              openWindow := none })
    ∧ (∀ cam : Fin 4, cam ∉ s.camerasOf t → s'.channels[cam] = s.channels[cam]))
  ∧ (∀ s : State,
    (∀ t : Track, s.track t = s.tracks[trackIndex t])
    ∧ (∀ (t : Track) (p : Passage), s.passage? t = some p ↔ (s.track t).state = .active p)
    ∧ (∀ (t : Track) (e : SiteTrack), s.siteTrack? t = some e
        ↔ s.tables.active.siteTracks[trackIndex t] = some e ∧ e.valid = true)
    ∧ (∀ cam : Fin 4, s.siteCamera? cam = s.tables.active.siteCameras[cam])
    ∧ (∀ (t : Track) (cam : Fin 4), cam ∈ s.camerasOf t ↔ ∃ e, s.siteCamera? cam = some e ∧ e.track = some t)
    ∧ ∀ t : Track, (s.camerasOf t).Pairwise (fun c d => c < d))

/-- R47, R48, R50, R52, R54, R59: an ARRIVAL or UNPAIRED crossing at the approach station of an ACTIVE track restarts
the quiet deadline, counts in, or sets AXLE-OVERFLOW at 1,023, enters its pace, and is appended to the axle list while
that holds fewer than 128 entries, with its spacing. The first eight spacings go to matching while it is SEEKING and the
passage is not reversed: an absent one ends it FALLBACK; any other tests every candidate, and the candidates left decide
whether matching goes on, ends MATCHED, or ends FALLBACK with profile 0. Any other crossing changes the passage alone.
The approach station is A for AB and B for BA (R44); a pair carries its pace and its CLAMPED flag, an UNPAIRED none
(R32). -/
def Obligations.ApproachAxle : Prop :=
  (∀ (s : State) (t : Track) (x : Crossing) (p g : Passage) (site : SiteTrack) (k : Nat) (spacing : Option Nat),
    (s.track t).state = .active p → s.siteTrack? t = some site → x.station = approachStation p.direction →
    (∀ pace clamped, x.kind ≠ .departure pace clamped) →
    k = p.axles.length →
    spacing = (match p.axles.getLast?, x.pace with
      | some last, some pace =>
        if last.unpaired then none else some ((x.time - last.time).toNat * 1000 / pace)
      | _, _ => none) →
    g = { p with
          inCount := if p.inCount < 1023 then p.inCount + 1 else p.inCount
          axleOverflow := p.axleOverflow || decide (1023 ≤ p.inCount)
          quietDeadline := later s.time (site.quiet * 1000)
          unpairedSeen := p.unpairedSeen || decide (x.kind = .unpaired)
          paceClamp := p.paceClamp || x.clamped
          paces := (match x.pace with | none => p.paces | some pace => pushPace pace p.paces)
          pace := (match x.pace with
            | none => p.pace
            | some pace => (pushPace pace p.paces).sum / (pushPace pace p.paces).length)
          stale := (match x.pace with | none => p.stale | some _ => false)
          staleDeadline := (match x.pace with
            | none => p.staleDeadline
            | some _ => later s.time (site.paceHold * 1000 + 1))
          axles := if k < 128 then p.axles ++
            [{ time := x.time, pace := x.pace, spacing := spacing, unpaired := decide (x.kind = .unpaired)
               clamped := x.clamped }] else p.axles } →
    (k = 0 ∨ 8 < k ∨ p.matching ≠ .seeking ∨ p.reversed = true → takeCrossing t x s = s.setPassage t g)
    ∧ (1 ≤ k → k ≤ 8 → p.matching = .seeking → p.reversed = false →
      (spacing = none → takeCrossing t x s = planPassage t 0 .fallback { g with spacingsTaken := k } s)
      ∧ ∀ (d : Nat) (left : List Candidate), spacing = some d →
          left = p.candidates.filterMap (testCandidate s.tables.active k d) →
          (decideMatch s.tables.active k left = .seeking →
            takeCrossing t x s = s.setPassage t { g with spacingsTaken := k, candidates := left })
          ∧ (∀ i, decideMatch s.tables.active k left = .matched i →
            takeCrossing t x s = planPassage t i .matched { g with spacingsTaken := k, candidates := left } s)
          ∧ (decideMatch s.tables.active k left = .fallback →
            takeCrossing t x s = planPassage t 0 .fallback { g with spacingsTaken := k, candidates := left } s)))
  ∧ (approachStation .ab = .a ∧ approachStation .ba = .b
    ∧ ∀ x : Crossing, (x.kind = .unpaired → x.pace = none ∧ x.clamped = false)
      ∧ ∀ pace clamped, x.kind = .arrival pace clamped ∨ x.kind = .departure pace clamped →
          x.pace = some pace ∧ x.clamped = clamped)

/-- R47, R58: a DEPARTURE or UNPAIRED crossing at the far station enters its pace and counts out while out is below in;
the increment that makes out equal to in ends the passage BALANCED; with out equal to in it is a stray axle. -/
def Obligations.FarAxle : Prop :=
  ∀ (s : State) (t : Track) (x : Crossing) (p q : Passage) (site : SiteTrack),
    (s.track t).state = .active p → s.siteTrack? t = some site → x.station ≠ approachStation p.direction →
    (∀ pace clamped, x.kind ≠ .arrival pace clamped) →
    q = (match x.pace with
      | none =>
        { p with
          quietDeadline := later s.time (site.quiet * 1000)
          unpairedSeen := p.unpairedSeen || decide (x.kind = .unpaired)
          paceClamp := p.paceClamp || x.clamped }
      | some pace =>
        { p with
          quietDeadline := later s.time (site.quiet * 1000)
          unpairedSeen := p.unpairedSeen || decide (x.kind = .unpaired)
          paceClamp := p.paceClamp || x.clamped
          paces := pushPace pace p.paces
          pace := (pushPace pace p.paces).sum / (pushPace pace p.paces).length
          stale := false
          staleDeadline := later s.time (site.paceHold * 1000 + 1) }) →
    (p.outCount + 1 < p.inCount → takeCrossing t x s = s.setPassage t { q with outCount := p.outCount + 1 })
    ∧ (p.outCount + 1 = p.inCount →
        takeCrossing t x s = endPassage t .balanced .settling (s.setPassage t { q with outCount := p.outCount + 1 }))
    ∧ (p.inCount ≤ p.outCount →
        takeCrossing t x s = (s.setPassage t q).modTrack t fun r => { r with stray := bump r.stray })

/-- R49: a reversal crossing restarts the quiet deadline, gives no pace, and counts in or out down, or is a stray axle
when that count cannot change. The first one sets REVERSED and stops every channel of the track's cameras with reason
REVERSAL; a later one changes nothing more. R60, R86: where a track's channels stop, the channel of each of its cameras
stops once, as WindowCloses says. They stop at one moment, and the captures that complete with them do so in either
order (R103, R151, R168): which order it is, is left free (log entry 17). Their records arrive together, as
RecordGranted says. -/
def Obligations.ReversalCrossing : Prop :=
  (∀ (s mid : State) (t : Track) (x : Crossing) (p q : Passage) (site : SiteTrack),
    (s.track t).state = .active p → s.siteTrack? t = some site →
    q = { p with
          quietDeadline := later s.time (site.quiet * 1000)
          paceClamp := p.paceClamp || x.clamped } →
    ((x.station = approachStation p.direction ∧ (∃ pace clamped, x.kind = .departure pace clamped)
        ∧ mid = (if p.outCount < p.inCount then s.setPassage t { q with inCount := p.inCount - 1 }
                 else (s.setPassage t q).modTrack t fun r => { r with stray := bump r.stray }))
      ∨ (x.station ≠ approachStation p.direction ∧ (∃ pace clamped, x.kind = .arrival pace clamped)
        ∧ mid = (if 0 < p.outCount then s.setPassage t { q with outCount := p.outCount - 1 }
                 else (s.setPassage t q).modTrack t fun r => { r with stray := bump r.stray }))) →
    (p.reversed = true → takeCrossing t x s = mid)
    ∧ (p.reversed = false → ∀ r, mid.passage? t = some r →
        takeCrossing t x s = stopChannels t .reversal (mid.setPassage t { r with reversed := true })))
  ∧ (∀ (s : State) (t : Track) (why : DropReason), ∃ order : List (Fin 4), order.Perm (s.camerasOf t)
      ∧ stopChannels t why s = together s (order.foldl (fun x cam => stopChannel t why cam x)
          { s with freeIndex := s.freeIndex + ((s.camerasOf t).length - 1) }))

/-- R42, R51, R59: when the Timestamp Counter reaches it, the stale deadline sets the stale mark, empties the pace
history and makes the default pace the passage pace; the quiet deadline ends the passage TIMEOUT, into SETTLING; the
settle deadline takes the track to IDLE. Before its deadline, without a passage or out of SETTLING, and with the stale
mark already set, each changes nothing. That one sent after its deadline, by less than half a roll of the counter, still
acts is the model's choice (log entry 2). -/
def Obligations.TrackDeadlines : Prop :=
  ∀ (s now : State) (after : Nat) (t : Track) (isReached : Stamp → Prop), now = s.pass after → now.rstnLow = false →
    (∀ deadline, isReached deadline ↔ (now.time - deadline).toNat < 2147483648) →
    (now.passage? t = none →
      exec (.staleExpiry after t) s = .next now ∧ exec (.quietDeadline after t) s = .next now)
    ∧ (∀ (p : Passage) (site : SiteTrack), now.passage? t = some p → now.siteTrack? t = some site →
      (p.stale = false → isReached p.staleDeadline →
        exec (.staleExpiry after t) s
          = .next (now.setPassage t { p with stale := true, paces := [], pace := site.defaultPace }))
      ∧ (p.stale = true ∨ ¬ isReached p.staleDeadline → exec (.staleExpiry after t) s = .next now))
    ∧ (∀ p : Passage, now.passage? t = some p →
      (isReached p.quietDeadline →
        exec (.quietDeadline after t) s = .next (endPassage t .timeout .settling now))
      ∧ (¬ isReached p.quietDeadline → exec (.quietDeadline after t) s = .next now))
    ∧ (∀ deadline, (now.track t).state = .settling deadline →
      (isReached deadline →
        exec (.settleExpiry after t) s = .next (now.modTrack t fun r => { r with state := .idle }))
      ∧ (¬ isReached deadline → exec (.settleExpiry after t) s = .next now))
    ∧ ((∀ deadline, (now.track t).state ≠ .settling deadline) → exec (.settleExpiry after t) s = .next now)

/-- R57, R60, R62, R196: at a passage end every channel of the track's cameras is STOPPED, the context is discarded, the
track goes to SETTLING with its settle deadline or, for DISABLE, to OFF, and the summary of the context joins the
summary queue of four, or is counted as lost. A match state of SEEKING is reported UNDECIDED; a plan entry still PENDING
becomes DROPPED ENDED and every other keeps its outcome, so none is left PENDING (what such an entry's bytes would be is
log entry 12). R194: the summary and the alerts of the captures that complete arrive together, as RecordGranted says. -/
def Obligations.PassageEnds : Prop :=
  ∀ (s s' : State) (t : Track) (reason : EndReason) (dest : EndTo) (p : Passage), TracksSound s →
    PlansSound s → s.passage? t = some p → s' = endPassage t reason dest s →
    s'.passage? t = none ∧ (∀ k, k ≠ t → s'.track k = s.track k) ∧ (s'.track t).stray = (s.track t).stray
    ∧ (dest = .off → (s'.track t).state = .off)
    ∧ (∀ site, s.siteTrack? t = some site → dest = .settling →
        (s'.track t).state = .settling (later s.time (site.settle * 1000)))
    ∧ (∀ cam ∈ s.camerasOf t,
        s'.channels[cam].run = .stopped ∧ s'.channels[cam].windows = [] ∧ s'.channels[cam].openWindow = none
          ∧ s'.channels[cam].sequence = s.channels[cam].sequence)
    ∧ (∀ cam, cam ∉ s.camerasOf t → s'.channels[cam] = s.channels[cam])
    ∧ ∃ x : Summary,
        x.number = p.number ∧ x.track = t ∧ x.direction = p.direction ∧ x.start = p.start ∧ x.finish = s.time
        ∧ x.inCount = p.inCount ∧ x.outCount = p.outCount ∧ x.reason = reason ∧ x.profile = p.profile
        ∧ x.matching = (if p.matching = .seeking then .undecided else p.matching)
        ∧ x.consistGen = p.consistGen ∧ x.axles = p.axles ∧ x.reversed = p.reversed
        ∧ x.unpairedSeen = p.unpairedSeen ∧ x.paceClamp = p.paceClamp ∧ x.axleOverflow = p.axleOverflow
        ∧ x.plan = p.plan.map (fun e => if e.outcome = .pending then { e with outcome := .dropped .ended } else e)
        ∧ (∀ e ∈ x.plan, e.outcome ≠ .pending)
        ∧ (x.axleMismatch = true ↔ reason = .balanced ∧ ∃ i code e n, p.profile = some (i, code)
            ∧ s.tables.active.consist[i] = some e ∧ e.expectedAxles = some n ∧ n ≠ p.inCount)
        ∧ (s.uplink.summaries.length < 4 →
            s'.uplink.summaries = s.uplink.summaries ++ [x] ∧ s'.uplink.summariesLost = s.uplink.summariesLost)
        ∧ (4 ≤ s.uplink.summaries.length →
            s'.uplink.summaries = s.uplink.summaries ∧ s'.uplink.summariesLost = bump s.uplink.summariesLost)
        ∧ together s s' = s'

/-- R52, R53: a candidate whose signature holds the spacing is kept exactly when the spacing differs by no more than
its tolerance, and its deviation grows by the difference; a shorter one stays as it is. A candidate is complete when its
signature holds no more spacings than have been observed. No candidate left is FALLBACK;
every candidate complete, or the eighth spacing, chooses the complete candidate of least deviation, and of lowest index
among equals; otherwise matching goes on. -/
def Obligations.MatchDecision : Prop :=
  (∀ (im : Images) (k observed : Nat) (c : Candidate) (e : Profile), im.consist[c.index] = some e → 1 ≤ k →
    (∀ d tol, e.signature[k - 1]? = some d → e.tolerance = some tol →
      testCandidate im k observed c
        = if Int.natAbs ((observed : Int) - d) ≤ tol then
            some { c with deviation := c.deviation + Int.natAbs ((observed : Int) - d) } else none)
    ∧ (e.signature.length < k → testCandidate im k observed c = some c)
    ∧ (isCompleteCandidate im k c = true ↔ e.signature.length ≤ k))
  ∧ (∀ (im : Images) (k : Nat) (cs : List Candidate),
    (decideMatch im k cs = .fallback ↔ cs = [])
    ∧ (cs ≠ [] → (∀ c ∈ cs, isCompleteCandidate im k c = true) ∨ k = 8 ∧ (∃ c ∈ cs, isCompleteCandidate im k c = true) →
        ∃ c ∈ cs, decideMatch im k cs = .matched c.index ∧ isCompleteCandidate im k c = true
          ∧ ∀ d ∈ cs, isCompleteCandidate im k d = true →
              c.deviation < d.deviation ∨ (c.deviation = d.deviation ∧ c.index ≤ d.index))
    ∧ (k ≠ 8 → (∃ c ∈ cs, isCompleteCandidate im k c = false) → decideMatch im k cs = .seeking))

/-- R53 to R56, R77: at MATCHED or FALLBACK the passage takes the match state, the profile with its code (0, and no
pantograph, for a profile 0 that is not valid) and its window plan: for every camera of the track in ascending number the
windows of the profile's pantographs in index order, PENDING, or DROPPED MISSED when travel has reached the close point.
Each channel's list takes the windows that are not MISSED at its end; nothing else changes. L is the camera's A distance
for AB and its B distance for BA. A window's open and close points are (L + offset − window before) × 1,000, or 0 if that
is below 0, and (L + offset + window after) × 1,000; the windows are handed over ordered by open point, those of equal
open point in plan order; one whose open point travel has reached is LATE. -/
def Obligations.WindowsPlanned : Prop :=
  (∀ (l : Nat) (unmatched : Bool) (head : HeadClass) (i : Nat) (p : Panto),
    ((planWindow l unmatched head i p).openPoint : Int)
        = max 0 (((l : Int) + p.offset - head.windowBefore) * 1000)
      ∧ (planWindow l unmatched head i p).closePoint = (l + p.offset + head.windowAfter) * 1000
      ∧ (planWindow l unmatched head i p).panto = i ∧ (planWindow l unmatched head i p).headClass = p.headClass
      ∧ (planWindow l unmatched head i p).unmatched = unmatched)
  ∧ (∀ (im : Images) (l : Nat) (unmatched : Bool) (pantos : List Panto),
      (∀ q ∈ pantos, im.headClasses[q.headClass] ≠ none) →
      (planWindows im l unmatched 0 pantos).length = pantos.length
      ∧ ∀ (i : Nat) (q : Panto) (head : HeadClass), pantos[i]? = some q → im.headClasses[q.headClass] = some head →
          (planWindows im l unmatched 0 pantos)[i]? = some (planWindow l unmatched head i q))
  ∧ (∀ (travel : Nat) (ws : List Window),
      (orderWindows ws).Perm ws
      ∧ (orderWindows ws).Pairwise (fun v w => v.openPoint ≤ w.openPoint)
      ∧ (∀ o, (orderWindows ws).filter (fun w => w.openPoint == o) = ws.filter (fun w => w.openPoint == o))
      ∧ takenWindows travel ws
          = ((orderWindows ws).filter fun w => decide (travel < w.closePoint)).map fun w =>
              { w with late := decide (w.openPoint ≤ travel) })
  ∧ (∀ (s s' : State) (t : Track) (i : Fin 32) (result : MatchState) (p : Passage) (code : Half) (pantos : List Panto)
      (planned : Fin 4 → List Window), result = .matched ∨ result = .fallback →
      (s.tables.active.consist[i] = none → code = 0 ∧ pantos = []) →
      (∀ e, s.tables.active.consist[i] = some e → code = e.code ∧ pantos = e.pantos) →
      (∀ (cam : Fin 4) (site : SiteCamera), s.siteCamera? cam = some site →
        planned cam
          = planWindows s.tables.active (match p.direction with | .ab => site.aDistance | .ba => site.bDistance)
              (decide (result = .fallback)) 0 pantos) →
      s' = planPassage t i result p s →
      s'.passage? t = some
          { p with
            matching := result
            profile := some (i, code)
            plan := (s.camerasOf t).flatMap fun cam => (planned cam).map fun w =>
              { camera := cam, panto := w.panto
                outcome := if s.channels[cam].travel < w.closePoint then .pending else .dropped .missed } }
      ∧ (∀ cam ∈ s.camerasOf t, s'.channels[cam]
          = { s.channels[cam] with
              windows := s.channels[cam].windows ++ takenWindows s.channels[cam].travel (planned cam) })
      ∧ (∀ cam, cam ∉ s.camerasOf t → s'.channels[cam] = s.channels[cam])
      ∧ (∀ u, u ≠ t → s'.track u = s.track u) ∧ (s'.track t).stray = (s.track t).stray
      ∧ s' = { s with tracks := s'.tracks, channels := s'.channels })

/-! ### The Trigger and Window Unit -/

/-- R70 to R73, R85, R87: a trigger is taken when the interval in force has ended, at an edge of the clock (which
moments are edges, those a multiple of 40 ns after the counter's 0, is the model's reading, log entry 15; so is that a
TRIGGER sent after the end of its interval still acts, log entry 2; and that a token goes at once only behind an idle
word of 8 ns, R201, log entry 13). It reads the pace and the stale mark, adds the travel step of the interval just
ended, closes the OPEN window, examines the PENDING windows, tags and hands on the trigger, in this order; the next
interval begins with the period of R67. With no OPEN window that closes, no PENDING window at the head of the list that
is due, and room in the port's list, it changes the channel's travel, carry, period and sequence, and appends one entry,
its token sent when the link is UP and the lane free. The entry is untagged without an OPEN window; under one it is
tagged with its capture, the tagged counts of the window and of the descriptor go up by 1, and PITCH joins the capture's
set when the trigger carries it. Nothing else changes. A channel that is STOPPED, whose interval has not ended, or at a
moment that is no edge, issues none. -/
def Obligations.TriggerTaken : Prop :=
  ∀ (s now stepped : State) (after : Nat) (cam : Fin 4), now = s.pass after → now.rstnLow = false →
    (now.channels[cam].run = .stopped → exec (.trigger after cam) s = .next now)
    ∧ ∀ (t : Track) (held : Bool) (period : Nat) (offPitch : Bool) (elapsed : Nat),
        now.channels[cam].run = .running t held period offPitch elapsed →
        (elapsed < period ∨ now.subUs % 40 ≠ 0 → exec (.trigger after cam) s = .next now)
        ∧ ∀ (site : SiteCamera) (p : Passage) (travel carry : Nat), period ≤ elapsed → now.subUs % 40 = 0 →
            now.siteCamera? cam = some site → now.passage? t = some p →
            (travel, carry)
              = (if p.stale then (now.channels[cam].travel, now.channels[cam].carry)
                 else (min (now.channels[cam].travel + (period * 1000 + now.channels[cam].carry) / p.pace) 4294967295,
                   (period * 1000 + now.channels[cam].carry) % p.pace)) →
            stepped = now.modChannel cam (fun c =>
              { c with
                travel := travel
                carry := carry
                run := .running t p.stale (nextPeriod p.stale p.pace site).1 (nextPeriod p.stale p.pace site).2
                  (elapsed - period) }) →
            (exec (.trigger after cam) s
              = .next (issueTrigger cam site travel (tagTrigger cam (offPitch || p.stale)
                  (examineWindows t cam site p travel (closeReached cam travel stepped).channels[cam].windows
                    (closeReached cam travel stepped)))))
            ∧ ∀ (tag : Option CaptureId) (tagged : State),
                (∀ v, now.channels[cam].windows.head? = some v →
                  v.late = false ∧ travel < v.openPoint ∧ travel < v.closePoint) →
                now.ports[cam].outstanding.length < 64 →
                (now.channels[cam].openWindow = none ∧ tag = none ∧ tagged = stepped)
                  ∨ (∃ (w : OpenWindow) (k : Fin 32) (c : Capture), now.channels[cam].openWindow = some w
                      ∧ w.tagged ≠ w.rowLimit ∧ travel < w.window.closePoint
                      ∧ now.slotOf w.capture = some k ∧ now.slots[k] = some c ∧ tag = some w.capture
                      ∧ tagged = { stepped.modChannel cam
                            (fun x => { x with openWindow := some { w with tagged := w.tagged + 1 } }) with
                          slots := upd now.slots k fun _ => some
                            { c with
                              tagged := c.tagged + 1
                              conditions :=
                                if offPitch || p.stale then condAdd c.conditions .pitch else c.conditions } }) →
                exec (.trigger after cam) s
                  = .next ((tagged.modChannel cam fun c => { c with sequence := c.sequence + 1 }).modPort cam fun x =>
                      { x with
                        outstanding := x.outstanding ++
                          [{ sequence := now.channels[cam].sequence
                             capture := tag
                             travel := travel
                             issue := now.time
                             expiry := later now.time site.rowTimeout }]
                        lane :=
                          if x.up = false then x.lane
                          else if x.lane.item = none ∧ x.lane.waiting = [] ∧ 8 ≤ x.lane.idle then
                            { item := some (.token now.channels[cam].sequence), elapsed := 0, waiting := [], idle := 0 }
                          else { x.lane with waiting := x.lane.waiting ++ [now.channels[cam].sequence] } })

/-- R74: with constant period and pace from a carry of 0, travel after n triggers is exactly
floor(n × T × 1,000 / pace), held at its largest value; no rounding is lost from step to step. -/
def Obligations.TravelIsExact : Prop :=
  ∀ (period pace n : Nat) (x : Nat → Nat × Nat), 0 < pace → x 0 = (0, 0) →
    (∀ k, x (k + 1) = travelAfter false period pace (x k).1 (x k).2) →
    (x n).1 = min (n * (period * 1000) / pace) 4294967295 ∧ (x n).2 = n * (period * 1000) % pace
      ∧ travelAfter true period pace (x n).1 (x n).2 = x n

/-- R80, R57: at a trigger the PENDING windows are taken in list order. Those whose close point travel has reached are
dropped MISSED, each reported to the window plan; the first other one opens if it is LATE or travel has reached its
open point, and else stays; no further window is taken. A report records the outcome in the plan entry of the camera and
the pantograph, and changes nothing else: after the drops, the entries of this camera and a dropped window's pantograph
are DROPPED MISSED and the others as before. -/
def Obligations.WindowsExamined : Prop :=
  (∀ (s missed : State) (t : Track) (cam : Fin 4) (site : SiteCamera) (p : Passage) (travel : Nat)
      (gone : List Window), (∀ w ∈ gone, w.closePoint ≤ travel) →
    missed = gone.foldl (fun s w => reportWindow t cam w.panto (.dropped .missed) s) s →
    (∀ q, s.passage? t = some q → missed = s.setPassage t
        { q with plan := q.plan.map fun e =>
            if e.camera = cam ∧ (∃ w ∈ gone, w.panto = e.panto) then { e with outcome := .dropped .missed } else e })
    ∧ examineWindows t cam site p travel gone s = missed.modChannel cam (fun c => { c with windows := [] })
    ∧ ∀ (w : Window) (rest : List Window), travel < w.closePoint →
        (w.late = true ∨ w.openPoint ≤ travel →
          examineWindows t cam site p travel (gone ++ w :: rest) s
            = openWindow t cam site p w (missed.modChannel cam fun c => { c with windows := rest }))
        ∧ (w.late = false → travel < w.openPoint →
          examineWindows t cam site p travel (gone ++ w :: rest) s
            = missed.modChannel cam fun c => { c with windows := w :: rest }))
  ∧ (∀ (s : State) (t : Track) (cam : Fin 4) (panto : Nat) (outcome : PlanOutcome),
      (s.passage? t = none → reportWindow t cam panto outcome s = s)
      ∧ ∀ q, s.passage? t = some q → reportWindow t cam panto outcome s = s.setPassage t
          { q with plan := q.plan.map fun e =>
              if e.camera = cam ∧ e.panto = panto then { e with outcome := outcome } else e })

/-- R57, R81 to R84, R108, R115, R121, R122, R163: a window that opens takes the lowest-numbered free slot and the first
capture id, counting up from the capture id counter, that no capture in the table holds; the descriptor, the
conditioning record with its fill row and, for a PROFILE camera, the lower free working set of the camera with its
thresholds, limits, slope and blank set are filled from the copies of that moment; the channel holds the OPEN window;
the plan entry becomes OPENED with the capture id. Every other slot, record, working set, channel and track, and
everything else, stays. With no free slot the window is dropped NOSLOT. -/
def Obligations.CaptureOpens : Prop :=
  ∀ (s s' : State) (t : Track) (cam : Fin 4) (site : SiteCamera) (p : Passage) (head : HeadClass) (w : Window),
    s' = takeSlot t cam site p head w s →
    ((∀ k : Fin 32, s.slots[k] ≠ none) → s' = reportWindow t cam w.panto (.dropped .noSlot) s)
    ∧ ∀ k : Fin 32, s.slots[k] = none → (∀ j : Fin 32, j < k → s.slots[j] ≠ none) →
        ∃ c : Capture, s'.slots[k] = some c ∧ (∀ j : Fin 32, j ≠ k → s'.slots[j] = s.slots[j])
          ∧ (∀ (j : Fin 32) (d : Capture), s.slots[j] = some d → d.id ≠ c.id) ∧ s'.captureIds = c.id + 1
          ∧ (∃ n ≤ 31, c.id = s.captureIds + BitVec.ofNat 8 n
              ∧ ∀ m < n, ∃ (j : Fin 32) (d : Capture), s.slots[j] = some d ∧ d.id = s.captureIds + BitVec.ofNat 8 m)
          ∧ c.state = .opened ∧ c.camera = cam ∧ c.track = t ∧ c.passage = p.number ∧ c.panto = w.panto
          ∧ c.headClass = w.headClass ∧ c.openPoint = w.openPoint ∧ c.closePoint = w.closePoint
          ∧ c.firstSequence = s.channels[cam].sequence ∧ c.head = head ∧ c.rowLimit = site.rowLimit
          ∧ c.repairLimit = site.repairLimit ∧ c.role = site.role ∧ c.kept = site.kept ∧ c.slope = site.slope
          ∧ c.blank = blankEntry s.tables.active.blankMap[cam]
          ∧ c.conditions = (condIf w.unmatched .unmatched ||| condIf w.late .late)
          ∧ c.tagged = 0 ∧ c.received = 0 ∧ c.repaired = 0 ∧ c.omitted = 0 ∧ c.repairRun = 0 ∧ c.stored = 0
          ∧ c.chain = [] ∧ c.openTime = s.time ∧ c.doneTime = none ∧ c.result = none ∧ c.cells = none
          ∧ (∀ (i : Fin 32) code, p.profile = some (i, code) → c.profile = i ∧ c.code = code)
          ∧ c.headGen = s.tables.generation[tableIndex .headClass]
          ∧ c.blankGen = s.tables.generation[tableIndex .blankMap]
          ∧ c.consistGen = s.tables.generation[tableIndex .consist]
          ∧ (s.passage? t = none → s'.tracks = s.tracks)
          ∧ (∀ q, s.passage? t = some q → s'.passage? t = some
              { q with plan := q.plan.map fun e =>
                  if e.camera = cam ∧ e.panto = w.panto then { e with outcome := .opened c.id } else e })
          ∧ (∀ u, u ≠ t → s'.track u = s.track u) ∧ (s'.track t).stray = (s.track t).stray
          ∧ s'.condRecords[k] = some
              { capture := c.id, camera := cam, role := site.role, kept := site.kept, fill := c.blank.fill
                blank := blankColumns c.blank, blankGen := s.tables.generation[tableIndex .blankMap]
                fillRow := fillRow site.kept c.blank.fill (blankColumns c.blank), hasWorkSet := c.workSet.isSome }
          ∧ (∀ j : Fin 32, j ≠ k → s'.condRecords[j] = s.condRecords[j])
          ∧ s'.channels[cam]
              = { s.channels[cam] with
                  openWindow := some { window := w, capture := c.id, tagged := 0, rowLimit := site.rowLimit } }
          ∧ (∀ d : Fin 4, d ≠ cam → s'.channels[d] = s.channels[d])
          ∧ (site.role = .image → c.workSet = none ∧ s'.unprofiled = s.unprofiled)
          ∧ (site.role = .profile → ∀ low high : Fin 8, low.val = 2 * cam.val → high.val = 2 * cam.val + 1 →
              (s.workSets[low] = none → c.workSet = some low)
              ∧ (s.workSets[low] ≠ none → s.workSets[high] = none → c.workSet = some high)
              ∧ (s.workSets[low] ≠ none → s.workSets[high] ≠ none →
                  c.workSet = none ∧ s'.unprofiled = s.unprofiled ++ [c.id]))
          ∧ (∀ v, c.workSet = some v → s'.unprofiled = s.unprofiled ∧ s'.workSets[v] = some
              { capture := c.id, slot := k, firstCell := head.firstCell, lastCell := head.lastCell
                referenceThreshold := head.referenceThreshold, stripThreshold := head.stripThreshold
                minGap := head.minGap, minValid := head.minValid, nominal := head.nominal
                wearLimit := head.wearLimit, stepLimit := head.stepLimit, slope := site.slope
                blank := blankColumns c.blank
                columns := List.replicate (8 * (head.lastCell + 1 - head.firstCell)) .seekReference })
          ∧ (∀ v : Fin 8, c.workSet ≠ some v → s'.workSets[v] = s.workSets[v])
          ∧ s' = { s with
              tracks := s'.tracks, channels := s'.channels, captureIds := s'.captureIds, slots := s'.slots
              condRecords := s'.condRecords, workSets := s'.workSets, unprofiled := s'.unprofiled }

/-- R76, R78, R79, R81, R86, R87: an OPEN window whose tagged count has reached its row limit closes LIMIT; else, when
travel has reached its close point, it closes with no close condition; a window that opens cuts the OPEN one, and a
channel that stops closes it SHORT and drops the PENDING windows; one that is STOPPED already does nothing. The capture
of a closed window goes to CLOSING with the reason, the condition of that name joins its set, and it completes at once
if none of its entries is left. -/
def Obligations.WindowCloses : Prop :=
  (∀ (s : State) (cam : Fin 4) (w : OpenWindow) (travel : Nat), s.channels[cam].openWindow = some w →
    (w.tagged = w.rowLimit → closeReached cam travel s = closeWindow cam .limit s)
    ∧ (w.tagged ≠ w.rowLimit → w.window.closePoint ≤ travel → closeReached cam travel s = closeWindow cam .none s)
    ∧ (w.tagged ≠ w.rowLimit → travel < w.window.closePoint → closeReached cam travel s = s)
    ∧ (∀ (t : Track) (site : SiteCamera) (p : Passage) (v : Window) (head : HeadClass),
        s.tables.active.headClasses[v.headClass] = some head →
        openWindow t cam site p v s = takeSlot t cam site p head v (closeWindow cam .cut s))
    ∧ (∀ (reason : CloseReason) (k : Fin 32) (c : Capture) (n : State), s.slotOf w.capture = some k →
        s.slots[k] = some c → c.state = .opened →
        n = { s.modChannel cam (fun x => { x with openWindow := none }) with
              slots := upd s.slots k fun _ =>
                some { c with
                  state := .closing
                  close := reason
                  conditions := c.conditions ||| (match reason with
                    | .none => 0#16 | .cut => condBit .cut | .limit => condBit .limit | .short => condBit .short) } } →
        ((∃ e ∈ s.ports[c.camera].outstanding, e.capture = some c.id) → closeWindow cam reason s = n)
        ∧ ((∀ e ∈ s.ports[c.camera].outstanding, e.capture ≠ some c.id) →
            closeWindow cam reason s = conditionClose k n)))
  ∧ (∀ (s : State) (cam : Fin 4), s.channels[cam].openWindow = none →
      (∀ reason, closeWindow cam reason s = s) ∧ (∀ travel, closeReached cam travel s = s)
      ∧ ∀ (t : Track) (site : SiteCamera) (p : Passage) (v : Window) (head : HeadClass),
        s.tables.active.headClasses[v.headClass] = some head →
        openWindow t cam site p v s = takeSlot t cam site p head v s)
  ∧ (∀ (s : State) (cam : Fin 4) (t : Track) (why : DropReason), s.channels[cam].run = .stopped →
      stopChannel t why cam s = s)
  ∧ (∀ (s halted : State) (cam : Fin 4) (t k : Track) (why : DropReason) held period off elapsed,
      s.channels[cam].run = .running k held period off elapsed →
      halted = closeWindow cam .short (s.modChannel cam fun c => { c with run := .stopped }) →
      stopChannel t why cam s
        = (s.channels[cam].windows.foldl (fun x v => reportWindow t cam v.panto (.dropped why) x)
            halted).modChannel cam fun c => { c with windows := [] })

/-! ### The camera ports -/

/-- R93, R95: a trigger joins the tail of its port's outstanding trigger list; with 64 entries in the list the oldest
one expires as missing first; the token goes to the return lane when the link is UP, at once when the lane is free and an
idle word stands behind its last frame (R94, R201; log entry 13), and else behind what is there. -/
def Obligations.PortTakesTrigger : Prop :=
  ∀ (s room : State) (cam : Fin 4) (e : Entry),
    (s.ports[cam].outstanding.length < 64 → room = s) →
    (64 ≤ s.ports[cam].outstanding.length → room = resolveHead cam .missing s) →
    portTrigger cam e s = room.modPort cam (fun p =>
      { p with
        outstanding := p.outstanding ++ [e]
        lane :=
          if p.up = false then p.lane
          else if p.lane.item = none ∧ p.lane.waiting = [] ∧ 8 ≤ p.lane.idle then
            { item := some (.token e.sequence), elapsed := 0, waiting := [], idle := 0 }
          else { p.lane with waiting := p.lane.waiting ++ [e.sequence] } })
    ∧ (QueuesBounded s → (portTrigger cam e s).ports[cam].outstanding.length ≤ 64
        ∧ (portTrigger cam e s).ports[cam].outstanding.getLast? = some e)

/-- R96: the entries at the head of a port's list whose expiry time has been reached expire as missing, head first, up
to the first whose time has not come; each counts as a missing row. They are resolved as
EntryResolved says. That a time stays reached once it has passed is the model's choice (log entry 2). -/
def Obligations.RowTimeout : Prop :=
  ∀ (s now t : State) (after : Nat) (cam : Fin 4) (gone rest : List Entry), now = s.pass after → now.rstnLow = false →
    now.ports[cam].outstanding = gone ++ rest → (∀ e ∈ gone, (now.time - e.expiry).toNat < 2147483648) →
    (∀ e, rest.head? = some e → 2147483648 ≤ (now.time - e.expiry).toNat) →
    exec (.rowTimeout after cam) s = .next (resolveHeads cam (List.replicate gone.length .missing) now)
    ∧ (t = resolveHeads cam (List.replicate gone.length .missing) now → t.ports[cam].outstanding = rest
        ∧ t.ports[cam].missingRows.toNat = min 65535 (now.ports[cam].missingRows.toNat + gone.length)
        ∧ (∀ c : Fin 4, c ≠ cam → t.ports[c] = now.ports[c]) ∧ t.channels = now.channels ∧ t.tracks = now.tracks
        ∧ t.tables = now.tables ∧ t.time = now.time)

/-- R97, R98: a good row frame whose echo is the sequence of an entry lets the older entries expire as missing, head
first, and is received for its own, as EntryResolved says; one whose echo names no entry is stray. A row frame that is
not good, and a frame of no known kind, is a failed frame; the row frame also resolves the head entry as missing. A port
in DOWN, and a frame that began before the change to UP, take nothing. -/
def Obligations.RowFrame : Prop :=
  ∀ (s now : State) (after : Nat) (cam : Fin 4) (fresh : Bool) (frame : List Byte), now = s.pass after →
    now.rstnLow = false →
    (now.ports[cam].up = false ∨ fresh = false → exec (.rowFrame after cam fresh frame) s = .next now)
    ∧ (now.ports[cam].up = true → fresh = true →
      (∀ (echo : Half) (pixels : List Byte), pixels.length = 2048 →
        frame = 0xA5#8 :: (beBytes 2 echo.toNat ++ pixels ++ beBytes 4 (check (beBytes 2 echo.toNat ++ pixels)).toNat) →
        (∀ (older rest : List Entry) (e : Entry), now.ports[cam].outstanding = older ++ e :: rest →
          e.sequence = echo → (∀ x ∈ older, x.sequence ≠ echo) →
          exec (.rowFrame after cam fresh frame) s
            = .next (resolveHeads cam (List.replicate older.length .missing ++ [.received pixels]) now))
        ∧ ((∀ e ∈ now.ports[cam].outstanding, e.sequence ≠ echo) →
          exec (.rowFrame after cam fresh frame) s
            = .next (now.modPort cam fun p => { p with strayRows := bump p.strayRows })))
      ∧ (∀ rest : List Byte, frame = 0xA5#8 :: rest →
          rest.length ≠ 2054 ∨ beNat (rest.drop 2050) ≠ (check (rest.take 2050)).toNat →
          exec (.rowFrame after cam fresh frame) s
            = .next (resolveHead cam .missing (now.modPort cam fun p => { p with failedFrames := bump p.failedFrames })))
      ∧ (∀ (start : Byte) (rest : List Byte), frame = start :: rest → start ≠ 0xA5#8 → start ≠ 0xC3#8 →
          exec (.rowFrame after cam fresh frame) s
            = .next (now.modPort cam fun p => { p with failedFrames := bump p.failedFrames })))

/-- R105: a good camera note makes an entry of the camera, the time and the note's bytes at the tail of the camera note
queue, or is dropped and counted at its port when the queue holds 8; a note of no byte, of more than 64 bytes or with a
check that fails is a failed frame. It resolves no entry. -/
def Obligations.CameraNote : Prop :=
  ∀ (s now : State) (after : Nat) (cam : Fin 4), now = s.pass after → now.rstnLow = false →
    (∀ (fresh : Bool) (frame : List Byte), now.ports[cam].up = false ∨ fresh = false →
      exec (.cameraNote after cam fresh frame) s = .next now)
    ∧ (now.ports[cam].up = true →
    (∀ bytes : List Byte, 1 ≤ bytes.length → bytes.length ≤ 64 →
      ∀ frame, frame = 0xC3#8 :: BitVec.ofNat 8 bytes.length :: (bytes
          ++ beBytes 4 (check (BitVec.ofNat 8 bytes.length :: bytes)).toNat) →
      (now.uplink.notes.length < 8 →
        exec (.cameraNote after cam true frame) s
          = .next { now with
              uplink := { now.uplink with
                notes := now.uplink.notes ++ [{ camera := cam, time := now.time, bytes := bytes }] } })
      ∧ (8 ≤ now.uplink.notes.length →
        exec (.cameraNote after cam true frame) s
          = .next (now.modPort cam fun p => { p with noteDrops := bump p.noteDrops })))
    ∧ (∀ rest : List Byte,
        (∀ bytes : List Byte, 1 ≤ bytes.length → bytes.length ≤ 64 →
          rest ≠ BitVec.ofNat 8 bytes.length :: (bytes
            ++ beBytes 4 (check (BitVec.ofNat 8 bytes.length :: bytes)).toNat)) →
        exec (.cameraNote after cam true (0xC3#8 :: rest)) s
          = .next (now.modPort cam fun p => { p with failedFrames := bump p.failedFrames })))

/-- R99 to R102, R110, R113, R114, R116: entries are resolved head first, each leaving the list, a missing one counted.
An untagged entry forms no row. A received tagged row is counted, its stored row stored, and searched when the capture
is profiled; a missing one is repaired by a copy of the capture's last stored row, or the fill row, while the repair run
is below the repair limit, and omitted at the limit. At each resolution the capture of the entry is declared complete if
it is CLOSING and no entry of its own is left in its camera's list. R168, R170: a capture declared takes its condition
close at that moment. The closes of one moment come in either order (R151), which is left free (log entry 17), but for a
capture CUT by another, the one whose first trigger follows its last, which always comes before it. Their records arrive
together, as RecordGranted says. -/
def Obligations.EntryResolved : Prop :=
  (∀ (s out : State) (e : Entry) (k : Fin 32) (c : Capture) (r : CondRecord) (pixels : List Byte),
    (e.capture = none → resolveEntry e .missing s = s ∧ resolveEntry e (.received pixels) s = s)
    ∧ (e.capture = some c.id → s.slotOf c.id = some k → s.slots[k] = some c → s.condRecords[k] = some r →
      (out = storeRow k
          { sequence := e.sequence, rowIndex := (e.sequence - c.firstSequence).toNat, repaired := false
            pixels := storedPixels r.kept r.fill r.blank pixels }
          { s with slots := upd s.slots k (fun _ => some { c with received := c.received + 1, repairRun := 0 }) } →
        (r.role = .profile → r.hasWorkSet = true → ∀ v, c.workSet = some v →
          resolveEntry e (.received pixels) s
            = { out with
                workSets := upd out.workSets v
                  (Option.map (searchRow (e.sequence - c.firstSequence).toNat e.travel pixels)) })
        ∧ (r.role = .image ∨ r.hasWorkSet = false → resolveEntry e (.received pixels) s = out))
      ∧ (c.repairRun < c.repairLimit →
          resolveEntry e .missing s
            = storeRow k
                { sequence := e.sequence, rowIndex := (e.sequence - c.firstSequence).toNat, repaired := true
                  pixels := match lastStoredRow s c with | some row => row.pixels | none => r.fillRow }
                { s with
                  slots := upd s.slots k (fun _ => some
                    { c with
                      repaired := c.repaired + 1
                      repairRun := c.repairRun + 1
                      conditions := condAdd c.conditions .repaired }) })
      ∧ (c.repairLimit ≤ c.repairRun →
          resolveEntry e .missing s
            = { s with
                slots := upd s.slots k (fun _ => some
                  { c with omitted := c.omitted + 1, conditions := condAdd c.conditions .gap }) })))
  ∧ (∀ (s : State) (cam : Fin 4) (how : Resolution) (hows : List Resolution),
      (s.ports[cam].outstanding = [] → takeHead cam how s = s)
      ∧ (∀ e rest, s.ports[cam].outstanding = e :: rest →
          takeHead cam how s = resolveEntry e how (s.modPort cam fun p =>
            { p with
              outstanding := rest
              missingRows := match how with | .received _ => p.missingRows | .missing => bump p.missingRows }))
      ∧ takeHeads cam [] s = s ∧ takeHeads cam (how :: hows) s = takeHeads cam hows (takeHead cam how s)
      ∧ resolveHead cam how s = resolveHeads cam [how] s
      ∧ ∃ order : List CaptureId, order.Perm (declared cam hows s)
          ∧ (∀ (cut cutter : CaptureId) (j k : Fin 32) (c d : Capture),
              (takeHeads cam hows s).slotOf cut = some j → (takeHeads cam hows s).slotOf cutter = some k →
              (takeHeads cam hows s).slots[j] = some c → (takeHeads cam hows s).slots[k] = some d →
              c.close = .cut → d.camera = c.camera → d.firstSequence = c.firstSequence + BitVec.ofNat 16 c.tagged →
              [cut, cutter].Sublist (declared cam hows s) → [cut, cutter].Sublist order)
          ∧ resolveHeads cam hows s = together s (order.foldl (fun x id => completeCapture id x)
              { takeHeads cam hows s with freeIndex := s.freeIndex + (order.length - 1) }))
  ∧ (∀ (s u : State) (cam : Fin 4) (how : Resolution) (hows : List Resolution), u = takeHead cam how s →
      declared cam [] s = []
      ∧ ((∀ e id, s.ports[cam].outstanding.head? = some e → e.capture = some id → u.slotOf id = none) →
          declared cam (how :: hows) s = declared cam hows u)
      ∧ ∀ (e : Entry) (id : CaptureId) (k : Fin 32) (c : Capture), s.ports[cam].outstanding.head? = some e →
          e.capture = some id → u.slotOf id = some k → u.slots[k] = some c →
          (c.state = .closing → (∀ x ∈ u.ports[c.camera].outstanding, x.capture ≠ some c.id) →
            declared cam (how :: hows) s = id :: declared cam hows u)
          ∧ (c.state ≠ .closing ∨ (∃ x ∈ u.ports[c.camera].outstanding, x.capture = some c.id) →
            declared cam (how :: hows) s = declared cam hows u))
  ∧ (∀ (s : State) (id : CaptureId) (k : Fin 32), s.slotOf id = some k
      ↔ (∃ c, s.slots[k] = some c ∧ c.id = id) ∧ ∀ j, j < k → ∀ d, s.slots[j] = some d → d.id ≠ id)
  ∧ (∀ (s : State) (id : CaptureId),
      (s.slotOf id = none → completeCapture id s = s)
      ∧ ∀ (k : Fin 32) (c : Capture), s.slotOf id = some k → s.slots[k] = some c →
          (c.state = .closing → (∀ e ∈ s.ports[c.camera].outstanding, e.capture ≠ some c.id) →
            completeCapture id s = conditionClose k s)
          ∧ (c.state ≠ .closing ∨ (∃ e ∈ s.ports[c.camera].outstanding, e.capture = some c.id) →
            completeCapture id s = s))

/-- R91, R92: 1 ms of good alignment brings a camera port UP and changes nothing else. At the change to DOWN the frame
in reception is a failed frame, the item on the return lane is cut off, the pass-through queue is emptied, and the
outstanding trigger list is kept. That a token which waits behind the item is dropped with it is the model's choice (log
entry 7), and so is the idle word that must pass after a frame cut off (log entry 13). The time held and the frame in
reception are operands, and a change to the state a port is in already changes nothing: the model's choice (log entry
8). -/
def Obligations.CameraLink : Prop :=
  ∀ (s now : State) (after : Nat) (cam : Fin 4), now = s.pass after → now.rstnLow = false →
    (∀ heldNs, now.ports[cam].up = false → 1000000 ≤ heldNs →
      exec (.cameraLinkUp after cam heldNs) s = .next (now.modPort cam fun p => { p with up := true }))
    ∧ (∀ heldNs, now.ports[cam].up = true ∨ heldNs < 1000000 →
      exec (.cameraLinkUp after cam heldNs) s = .next now)
    ∧ (∀ inReception, now.ports[cam].up = true →
      exec (.cameraLinkDown after cam inReception) s
        = .next (now.modPort cam fun p =>
            { p with
              up := false
              passQueue := []
              lane := { item := none, elapsed := 0, waiting := []
                        idle := if p.lane.item = none then p.lane.idle else 0 }
              failedFrames := if inReception then bump p.failedFrames else p.failedFrames }))
    ∧ (∀ inReception, now.ports[cam].up = false →
      exec (.cameraLinkDown after cam inReception) s = .next now)

/-- R94, R201: the head pass-through message is started, whole, when the lane is free, no token waits and an idle word
stands behind the last frame, and leaves the queue; it ends 8 ns a byte later. A token leaves the lane after 24 ns. What
waits behind either follows, in order, after one idle word of 8 ns (that the part sends no more than one, and the times
themselves, are the model's: log entry 13; that a MESSAGE_SENT after the end still acts, log entry 2). -/
def Obligations.ReturnLane : Prop :=
  (∀ (s : State) (cam : Fin 4), s.rstnLow = false →
    (∀ (m : List Byte) (rest : List (List Byte)), s.ports[cam].up = true → s.ports[cam].passQueue = m :: rest →
      s.ports[cam].lane.item = none → s.ports[cam].lane.waiting = [] → 8 ≤ s.ports[cam].lane.idle →
      exec (.passThroughSend cam) s
        = .next (s.modPort cam fun p =>
            { p with
              passQueue := rest
              lane := { item := some (.message m), elapsed := 0, waiting := [], idle := 0 } }))
    ∧ (s.ports[cam].up = false ∨ s.ports[cam].passQueue = [] ∨ s.ports[cam].lane.item ≠ none
        ∨ s.ports[cam].lane.waiting ≠ [] ∨ s.ports[cam].lane.idle < 8 → exec (.passThroughSend cam) s = .next s))
  ∧ (∀ (s now : State) (after : Nat) (cam : Fin 4) (m : List Byte), now = s.pass after → now.rstnLow = false →
      now.ports[cam].lane.item = some (.message m) →
      (8 * (messageBytes m).length ≤ now.ports[cam].lane.elapsed →
        exec (.messageSent after cam) s
          = .next (now.modPort cam fun p =>
              { p with
                lane := ReturnLane.pass (p.lane.elapsed - 8 * (messageBytes m).length)
                  { item := none, elapsed := 0, waiting := p.lane.waiting, idle := 0 } }))
      ∧ (now.ports[cam].lane.elapsed < 8 * (messageBytes m).length → exec (.messageSent after cam) s = .next now))
  ∧ (∀ (s : State) (ns : Nat) (cam : Fin 4), s.rstnLow = false →
      (s.pass ns).ports[cam] = { s.ports[cam] with lane := s.ports[cam].lane.pass ns })
  ∧ (∀ (ns elapsed idle : Nat) (token : Half) (waiting : List Half),
      (elapsed + ns < 24 →
        ReturnLane.pass ns { item := some (.token token), elapsed := elapsed, waiting := waiting, idle := 0 }
          = { item := some (.token token), elapsed := elapsed + ns, waiting := waiting, idle := 0 })
      ∧ (24 ≤ elapsed + ns →
        ReturnLane.pass ns { item := some (.token token), elapsed := elapsed, waiting := waiting, idle := 0 }
          = ReturnLane.pass (elapsed + ns - 24) { item := none, elapsed := 0, waiting := waiting, idle := 0 })
      ∧ (ReturnLane.pass ns { item := none, elapsed := 0, waiting := [], idle := idle }
          = { item := none, elapsed := 0, waiting := [], idle := min (idle + ns) 8 })
      ∧ (idle + ns < 8 →
        ReturnLane.pass ns { item := none, elapsed := 0, waiting := token :: waiting, idle := idle }
          = { item := none, elapsed := 0, waiting := token :: waiting, idle := idle + ns })
      ∧ (8 ≤ idle + ns →
        ReturnLane.pass ns { item := none, elapsed := 0, waiting := token :: waiting, idle := idle }
          = ReturnLane.pass (idle + ns - 8)
              { item := some (.token token), elapsed := 0, waiting := waiting, idle := 0 })
      ∧ ∀ m : List Byte,
          ReturnLane.pass ns { item := some (.message m), elapsed := elapsed, waiting := waiting, idle := 0 }
            = { item := some (.message m), elapsed := elapsed + ns, waiting := waiting, idle := 0 })

/-! ### The Row Conditioner and the Strip Profiler -/

/-- R109, R111, R112, R115: in a stored row a column that some run of the blank entry covers holds the fill value as it
stands, and any other column holds the received pixel reduced to the kept-bit set, the bits outside it 0. The fill row is
the stored row of a row of the fill value. An EMPTY blank entry reads as fill value 0 without a run (R2). -/
def Obligations.StoredPixels : Prop :=
  (∀ (e : BlankEntry) (kept : Byte) (pixels row : List Byte), pixels.length = 2048 →
    row = storedPixels kept e.fill (blankColumns e) pixels →
    row.length = 2048
    ∧ (∀ (cell position : Nat) (pixel : Byte), cell < 256 → position < 8 → pixels[8 * cell + position]? = some pixel →
        ((∃ r ∈ e.runs, r.firstCell ≤ cell ∧ cell ≤ r.lastCell ∧ r.pattern.getLsbD position = true) →
          row[8 * cell + position]? = some e.fill)
        ∧ ((∀ r ∈ e.runs, cell < r.firstCell ∨ r.lastCell < cell ∨ r.pattern.getLsbD position = false) →
          ∃ v, row[8 * cell + position]? = some v
            ∧ ∀ bit < 8, v.getLsbD bit = (pixel.getLsbD bit && kept.getLsbD bit)))
    ∧ (pixels = List.replicate 2048 e.fill → row = fillRow kept e.fill (blankColumns e)))
  ∧ (∀ (e : BlankEntry) (cell position : Nat), cell < 256 → position < 8 →
      ∃ blanked : Bool, (blankColumns e)[8 * cell + position]? = some blanked
        ∧ (blanked = true ↔ ∃ r ∈ e.runs, r.firstCell ≤ cell ∧ cell ≤ r.lastCell ∧ r.pattern.getLsbD position = true))
  ∧ (blankEntry none = { fill := 0, runs := [] } ∧ ∀ e, blankEntry (some e) = e)

/-- R124, R125, R127: at a profiled row every column of the band that is not blanked takes its own pixel: above the
reference threshold it sets the reference edge, and at least the min gap later a pixel below the strip threshold sets the
strip edge; both comparisons are strict, and a column makes at most one change. Blanked columns, and all columns once
FOUND, stay; the working set's other fields stay. -/
def Obligations.EdgeSearch : Prop :=
  ∀ (w v : WorkSet) (rowIndex travel : Nat) (pixels : List Byte), pixels.length = 2048 → w.blank.length = 2048 →
    w.lastCell < 256 → w.firstCell ≤ w.lastCell → w.columns.length = 8 * (w.lastCell + 1 - w.firstCell) →
    v = searchRow rowIndex travel pixels w →
    v = { w with columns := v.columns } ∧ v.columns.length = w.columns.length
    ∧ ∀ (i : Nat) (c : Column) (pixel : Byte) (blanked : Bool), w.columns[i]? = some c →
        pixels[8 * w.firstCell + i]? = some pixel → w.blank[8 * w.firstCell + i]? = some blanked →
        (blanked = true → v.columns[i]? = some c)
        ∧ (blanked = false → c = .seekReference →
            v.columns[i]? = some (if w.referenceThreshold < pixel.toNat then .seekStrip rowIndex travel else c))
        ∧ (blanked = false → ∀ r tr, c = .seekStrip r tr →
            v.columns[i]?
              = some (if r + w.minGap ≤ rowIndex ∧ pixel.toNat < w.stripThreshold then .found r tr travel else c))
        ∧ (∀ r tr ts, c = .found r tr ts → v.columns[i]? = some c)

/-- R128, R130: a column in FOUND has the thickness of its travel difference times the slope factor, divided by 10,240
and rounded down, clamped to 65,535 with the mark OVER; any other column is invalid, a blanked one as blanked. A cell is
BLANKED when all its columns are, SPARSE with fewer valid columns than the smaller of its unblanked columns and the min
valid count, and else present with its total divided by the number of its valid columns. The cell list holds one item
for each cell of the band, first cell to last, made from the eight columns of that cell, each measured with its own flag
of the blank set. -/
def Obligations.CellsMeasured : Prop :=
  (∀ (slope r tr ts : Nat), tr ≤ ts →
    measureColumn slope false (.found r tr ts)
      = .valid (min ((ts - tr) * slope / 10240) 65535) (decide (65535 < (ts - tr) * slope / 10240)))
  ∧ (∀ (slope : Nat) (b : Bool) (c : Column), b = true ∨ (∀ r tr ts, c ≠ .found r tr ts) →
    (measureColumn slope b c).isValid = false)
  ∧ (∀ (slope : Nat) (c : Column), measureColumn slope true c = .blanked
    ∧ ((∀ r tr ts, c ≠ .found r tr ts) → measureColumn slope false c = .invalid))
  ∧ (∀ (minValid u n sum : Nat) (columns : List Measured), columns.length = 8 → 1 ≤ minValid →
      (∀ t ov, .valid t ov ∈ columns → t ≤ 65535) →
      u = columns.countP (fun m => !m.isBlanked) → n = columns.countP Measured.isValid →
      sum = (columns.map Measured.amount).sum →
      (u = 0 → makeCell minValid columns = .blanked)
      ∧ (0 < u → n < min u minValid → makeCell minValid columns = .sparse)
      ∧ (0 < u → min u minValid ≤ n → 65535 < sum → makeCell minValid columns = .saturated)
      ∧ (0 < u → min u minValid ≤ n → sum ≤ 65535 →
          makeCell minValid columns = .present (sum / n) ∧ 1 ≤ n ∧ sum / n ≤ 65535))
  ∧ (∀ (w : WorkSet) (cells : Nat), w.blank.length = 2048 → w.firstCell ≤ w.lastCell → w.lastCell < 256 →
      cells = w.lastCell + 1 - w.firstCell → w.columns.length = 8 * cells →
      (measuredCells w).length = cells ∧ (cellList w).length = cells
      ∧ ∀ i < cells, ∃ columns : List Measured, (measuredCells w)[i]? = some columns ∧ columns.length = 8
          ∧ (cellList w)[i]? = some (makeCell w.minValid columns)
          ∧ ∀ position < 8, ∀ (blanked : Bool) (c : Column),
              w.blank[8 * (w.firstCell + i) + position]? = some blanked →
              w.columns[8 * i + position]? = some c →
              columns[position]? = some (measureColumn w.slope blanked c))

/-- R133 to R138: the result is absent exactly when no cell is present and unsaturated; else the minimum is no greater
than any such cell and its index the lowest that holds it, the mean is the exact sum divided by the count and lies
between the minimum and the largest value, the wear is what the minimum lacks of the nominal thickness, and the step
count is the number of pairs of adjacent cells, both present and unsaturated, that differ by more than the step limit,
or 255 if that is less. The marks are SPARSE and SAT for such a cell in the band, OVER for an OVER column in a summed
cell, NOCELL for an absent result, WEAR for a minimum below the wear limit, STEP for a step count of at least 1, and no
other. -/
def Obligations.ResultOfCells : Prop :=
  (∀ (w : WorkSet) (cells : List Cell),
    (captureResult w cells = none ↔ ∀ v, Cell.present v ∉ cells)
    ∧ ∀ r, captureResult w cells = some r →
        (w.firstCell ≤ r.cell ∧ cells[r.cell - w.firstCell]? = some (.present r.minimum))
        ∧ (∀ (i v : Nat), cells[i]? = some (.present v) →
            r.minimum ≤ v ∧ (v = r.minimum → r.cell ≤ w.firstCell + i))
        ∧ (∃ values : List Nat,
            values = cells.filterMap (fun x => match x with
              | .present v => some v
              | .blanked | .sparse | .saturated => none)
            ∧ r.mean = values.sum / values.length)
        ∧ (r.minimum ≤ r.mean ∧ ∃ v, Cell.present v ∈ cells ∧ r.mean ≤ v)
        ∧ ((∀ v, Cell.present v ∈ cells → v ≤ 65535) → r.mean ≤ 65535)
        ∧ (w.nominal ≤ r.minimum → r.wear = 0) ∧ (r.minimum < w.nominal → r.wear = w.nominal - r.minimum)
        ∧ (r.steps = 0 ↔ ∀ (i a b : Nat), cells[i]? = some (.present a) → cells[i + 1]? = some (.present b) →
            a ≤ b + w.stepLimit ∧ b ≤ a + w.stepLimit)
        ∧ r.steps = min 255 ((List.range cells.length).countP fun i =>
            match cells[i]?, cells[i + 1]? with
            | some (Cell.present a), some (Cell.present b) => decide (a + w.stepLimit < b ∨ b + w.stepLimit < a)
            | _, _ => false))
  ∧ (∀ (w : WorkSet) (mark : Cond), condHas (measurementMarks w) mark = true ↔
      (mark = .sparse ∧ Cell.sparse ∈ cellList w)
      ∨ (mark = .sat ∧ Cell.saturated ∈ cellList w)
      ∨ (mark = .overMark ∧ ∃ columns ∈ measuredCells w, makeCell w.minValid columns ≠ .blanked
          ∧ makeCell w.minValid columns ≠ .sparse ∧ ∃ thickness, Measured.valid thickness true ∈ columns)
      ∨ (mark = .nocell ∧ ∀ v, Cell.present v ∉ cellList w)
      ∨ (mark = .wear ∧ ∃ r, captureResult w (cellList w) = some r ∧ r.minimum < w.wearLimit)
      ∨ (mark = .step ∧ ∃ r, captureResult w (cellList w) = some r ∧ 1 ≤ r.steps))

/-! ### The Frame Store Controller and the condition close -/

/-- R166, R167: a row whose chain position is the first of a segment takes the head of the free list into the chain;
any other goes to the tail segment. The row at that place reads as written, no other row of the store changes, and the
stored count goes up by 1. With no segment free the row is not stored and TRUNC joins the set. R100: the last stored row
is the last row of the chain, none in a capture that has stored none: a row stored becomes it, a row not stored leaves
it. -/
def Obligations.RowStored : Prop :=
  (∀ (s s' : State) (k : Fin 32) (c : Capture) (row : StoredRow), s.slots[k] = some c → s' = storeRow k row s →
    (∀ g, (c.stored % 64 = 0 ∧ s.freeList.head? = some g) ∨ (c.stored % 64 ≠ 0 ∧ c.chain.getLast? = some g) →
        s'.store.read (64 * g + c.stored % 64) = some row
          ∧ (∀ key, key ≠ 64 * g + c.stored % 64 → s'.store.read key = s.store.read key)
          ∧ ∀ d, s'.slots[k] = some d → lastStoredRow s' d = some row)
    ∧ (c.stored % 64 = 0 → ∀ g, s.freeList.head? = some g →
        s' = { s with
          freeList := s.freeList.tail
          store := s'.store
          slots := upd s.slots k (fun _ => some { c with stored := c.stored + 1, chain := c.chain ++ [g] }) })
    ∧ (c.stored % 64 ≠ 0 → ∀ g, c.chain.getLast? = some g →
        s' = { s with
          store := s'.store
          slots := upd s.slots k (fun _ => some { c with stored := c.stored + 1 }) })
    ∧ (c.stored % 64 = 0 → s.freeList = [] →
        s' = { s with slots := upd s.slots k (fun _ => some { c with conditions := condAdd c.conditions .trunc }) }
          ∧ ∀ d, s'.slots[k] = some d → lastStoredRow s' d = lastStoredRow s c)
    ∧ (s.store.wf = true → (∀ g ∈ s.freeList ++ c.chain, g < 512) → s'.store.wf = true))
  ∧ (∀ (s : State) (c : Capture),
      (c.stored = 0 → lastStoredRow s c = none)
      ∧ ∀ g, 0 < c.stored → c.chain.getLast? = some g →
          lastStoredRow s c = s.store.read (64 * g + (c.stored - 1) % 64))

/-- R148 to R157, R168, R169: at the condition close the capture takes NOROWS when no row was received and none stored,
and else the marks of its result record; its set joins the cumulative summary, an ALERT entry is queued, or counted as
lost with 8 in the queue, when the set meets the alert mask, the completion timestamp is recorded, and the capture goes
to the tail of the delivery queue, COMPLETE, or SENDING at once when it is alone there, DRAIN is ON and nothing is being
sent. Its note as unprofiled, if it has one, is taken away (R121); everything else stays. -/
def Obligations.ConditionClose : Prop :=
  ∀ (s s' : State) (k : Fin 32) (c : Capture) (set : Half), IdsDistinct s → s.slots[k] = some c →
    s' = conditionClose k s →
    set = (c.conditions
        ||| (if c.received = 0 ∧ c.stored = 0 then condBit .norows
             else match c.role, c.workSet.bind fun w => s.workSets[w] with
               | .image, _ => 0#16
               | .profile, none => condBit .nocell
               | .profile, some w => measurementMarks w)) →
    ∃ d, s'.slots[k] = some d ∧ (∀ j : Fin 32, j ≠ k → s.sender.capture ≠ none ∨ s.delivery = [] ∨ s.uplink.drain = false →
          s'.slots[j] = s.slots[j])
      ∧ d = { c with
          state := d.state, conditions := set, doneTime := some s.time, result := d.result, cells := d.cells }
      ∧ s' = { s with
          slots := s'.slots
          uplink := { s.uplink with
            cumulative := s'.uplink.cumulative, alerts := s'.uplink.alerts, alertsLost := s'.uplink.alertsLost }
          unprofiled := s.unprofiled.filter fun id => decide (id ≠ c.id)
          delivery := s'.delivery
          sender := s'.sender }
      ∧ d.conditions = set ∧ d.doneTime = some s.time
      ∧ (d.result = match c.role, c.workSet.bind fun w => s.workSets[w] with
          | .profile, some w =>
            if c.received = 0 ∧ c.stored = 0 then none else captureResult w (cellList w)
          | _, _ => none)
      ∧ (d.cells = match c.role, c.workSet.bind fun w => s.workSets[w] with
          | .profile, some w => if c.received = 0 ∧ c.stored = 0 then none else some (cellList w)
          | _, _ => none)
      ∧ s'.delivery = s.delivery ++ [c.id]
      ∧ (s.sender.capture ≠ none ∨ s.uplink.drain = false → d.state = .complete ∧ s'.sender = s.sender)
      ∧ (s.sender.capture = none → s.uplink.drain = true → s.delivery = [] →
          d.state = .sending
            ∧ s'.sender = { capture := some c.id, next := .header, inTransmission := false, rowsSent := 0 })
      ∧ s'.uplink.cumulative = (s.uplink.cumulative ||| set)
      ∧ (set &&& c.head.alertMask = 0 →
          s'.uplink.alerts = s.uplink.alerts ∧ s'.uplink.alertsLost = s.uplink.alertsLost)
      ∧ (set &&& c.head.alertMask ≠ 0 → 8 ≤ s.uplink.alerts.length →
          s'.uplink.alerts = s.uplink.alerts ∧ s'.uplink.alertsLost = bump s.uplink.alertsLost)
      ∧ (set &&& c.head.alertMask ≠ 0 → s.uplink.alerts.length < 8 →
          s'.uplink.alertsLost = s.uplink.alertsLost
          ∧ s'.uplink.alerts = s.uplink.alerts ++
            [{ capture := c.id, camera := c.camera, track := c.track, passage := c.passage, panto := c.panto
               profile := c.profile, code := c.code, headClass := c.headClass, headGen := c.headGen
               conditions := set, alerted := set &&& c.head.alertMask, doneTime := s.time, result := d.result }])
      ∧ s'.ports = s.ports ∧ s'.channels = s.channels ∧ s'.tracks = s.tracks ∧ s'.freeList = s.freeList
      ∧ s'.store = s.store ∧ s'.tables = s.tables ∧ s'.condRecords = s.condRecords ∧ s'.workSets = s.workSets

/-! ### The Uplink Port -/

/-- R182, R177: 10 ms of established link brings the port UP and changes nothing else. At the change to DOWN the frame
in reception is a receive error, the record in transmission is cut, counted and, for a capture record, taken as sent: a
CAPTURE-HEADER is followed by ROW-BLOCK 0, or by CAPTURE-END without a row; a ROW-BLOCK adds its rows to the rows sent
and releases a segment whose last row it carried; a CAPTURE-END frees the slot with its conditioning record and working
set, and the sender takes the next head (R174, R175). The time held and the frame in reception are operands, and a
change to the state the port is in already changes nothing: the model's choice (log entry 8). -/
def Obligations.UplinkLink : Prop :=
  ∀ (s now : State) (after : Nat), now = s.pass after → now.rstnLow = false →
    (∀ heldNs, now.uplink.up = false → 10000000 ≤ heldNs →
      exec (.uplinkLinkUp after heldNs) s = .next { now with uplink := { now.uplink with up := true } })
    ∧ (∀ heldNs, now.uplink.up = true ∨ heldNs < 10000000 → exec (.uplinkLinkUp after heldNs) s = .next now)
    ∧ (∀ inReception, now.uplink.up = false → exec (.uplinkLinkDown after inReception) s = .next now)
    ∧ (∀ (inReception : Bool) (down : State), now.uplink.up = true → now.uplink.halted = false →
      down = { now with
        uplink := { now.uplink with
          up := false
          receiveErrors := if inReception then bump now.uplink.receiveErrors else now.uplink.receiveErrors
          recordsCut := if now.uplink.transmitter = none then now.uplink.recordsCut else bump now.uplink.recordsCut
          transmitter := none } } →
      (now.uplink.transmitter = none → exec (.uplinkLinkDown after inReception) s = .next down)
      ∧ (∀ x, now.uplink.transmitter = some x →
          (x.kind.isCapture = false → exec (.uplinkLinkDown after inReception) s = .next down)
          ∧ ∀ (id : CaptureId) (k : Fin 32) (c : Capture), now.sender.capture = some id → now.slotOf id = some k →
              now.slots[k] = some c →
              (x.kind = .header →
                exec (.uplinkLinkDown after inReception) s = .next { down with
                  sender := { now.sender with
                    inTransmission := false
                    next := if c.stored = 0 then .captureEnd else .block 0 } })
              ∧ (∀ (rows b : Nat) (t : State), x.kind = .block rows → now.sender.next = .block b →
                t = { down with
                  sender := { now.sender with
                    inTransmission := false
                    rowsSent := now.sender.rowsSent + rows
                    next := if now.sender.rowsSent + rows < c.stored then .block (b + 1) else .captureEnd } } →
                (¬ ((now.sender.rowsSent + rows) % 64 = 0 ∨ now.sender.rowsSent + rows = c.stored) →
                  exec (.uplinkLinkDown after inReception) s = .next t)
                ∧ (∀ g rest, (now.sender.rowsSent + rows) % 64 = 0 ∨ now.sender.rowsSent + rows = c.stored →
                  c.chain = g :: rest →
                  exec (.uplinkLinkDown after inReception) s = .next { t with
                    freeList := t.freeList ++ [g]
                    slots := upd t.slots k fun _ => some { c with chain := rest } }))
              ∧ (x.kind = .captureEnd →
                ∃ t : State, exec (.uplinkLinkDown after inReception) s = .next (senderTake t)
                  ∧ t = { down with
                    slots := upd down.slots k (fun _ => none)
                    condRecords := upd down.condRecords k (fun _ => none)
                    workSets := t.workSets
                    delivery := down.delivery.tail
                    sender := { down.sender with capture := none, inTransmission := false } }
                  ∧ (∀ w : Fin 8, c.workSet = some w → t.workSets[w] = none)
                  ∧ (∀ w : Fin 8, c.workSet ≠ some w → t.workSets[w] = now.workSets[w]))))

/-- R183, R184: a frame received whole, that began while the link was UP, is a receive error when its check fails, it is
shorter than 64 bytes or its payload longer than 9,000; foreign when its type is not the part's; a receive error when it
holds no command; and else a command, which joins the command queue of four or is counted as lost. Only the counter or
the queue changes. A frame that began while the link was DOWN changes nothing. -/
def Obligations.FrameReceived : Prop :=
  ∀ (s now : State) (after : Nat) (frame bytes : List Byte), now = s.pass after → now.rstnLow = false →
    (∀ fresh, now.uplink.up = false ∨ fresh = false → exec (.frameReceived after fresh frame) s = .next now)
    ∧ (now.uplink.up = true → bytes = frame.take (frame.length - 4) →
      (frame.length < 64 ∨ 9018 < frame.length ∨ frame.drop (frame.length - 4) ≠ frameCheck bytes →
        exec (.frameReceived after true frame) s
          = .next { now with
              uplink := { now.uplink with receiveErrors := bump now.uplink.receiveErrors } })
      ∧ (64 ≤ frame.length → frame.length ≤ 9018 → frame.drop (frame.length - 4) = frameCheck bytes →
        (beNat ((frame.drop 12).take 2) ≠ 0x88B6 →
          exec (.frameReceived after true frame) s
            = .next { now with
                uplink := { now.uplink with foreignFrames := bump now.uplink.foreignFrames } })
        ∧ (beNat ((frame.drop 12).take 2) = 0x88B6 →
          (frame[14]? ≠ some 0x01#8 ∨ beNat ((frame.drop 17).take 2) < 3
              ∨ frame.length < 23 + beNat ((frame.drop 17).take 2) →
            exec (.frameReceived after true frame) s
              = .next { now with
                  uplink := { now.uplink with receiveErrors := bump now.uplink.receiveErrors } })
          ∧ ∀ c : Command, frame[14]? = some 0x01#8 → 3 ≤ beNat ((frame.drop 17).take 2) →
              23 + beNat ((frame.drop 17).take 2) ≤ frame.length →
              c.source.toNat = beNat ((frame.drop 6).take 6) → c.tag.toNat = beNat ((frame.drop 19).take 2) →
              frame[21]? = some c.code → c.params = (frame.drop 22).take (beNat ((frame.drop 17).take 2) - 3) →
              (now.uplink.commands.length < 4 →
                exec (.frameReceived after true frame) s
                  = .next { now with
                      uplink := { now.uplink with commands := now.uplink.commands ++ [c] } })
              ∧ (4 ≤ now.uplink.commands.length →
                exec (.frameReceived after true frame) s
                  = .next { now with
                      uplink := { now.uplink with commandsLost := bump now.uplink.commandsLost } }))))

/-- R173, R193, R195: with the link UP and the transmitter free, the oldest waiting record of the highest class is
granted: a reply, an alert, a summary, a camera note, or the sender's next capture record while DRAIN is ON. Its entry
leaves its queue, its frame takes the record number, which goes up by 1, and the transmitter becomes busy. Otherwise no
record is granted. R194: records of several classes that one command brings, each higher than every class that waited
before, arrive together in either order, so at that moment any of them may be granted first: which, is left free (log
entry 19); but the records of a capture come after its own ALERT entry (R148, R168). R172: ROW-BLOCK b carries the rows
at the chain positions 4b to 4b + 3, or to the last stored row, read from the segments of the chain as it was taken, of
which those sent have left the head. -/
def Obligations.RecordGranted : Prop :=
  (∀ s : State, s.rstnLow = false →
    (s.uplink.up = false ∨ s.uplink.transmitter ≠ none ∨ (∀ c, waits s c = false) → exec .recordGrant s = .next s)
    ∧ (s.uplink.up = true → s.uplink.transmitter = none → ∀ high, waits s high = true →
        (∀ c, waits s c = true → high.number ≤ c.number) →
        ((∀ c ∈ s.uplink.mayLead, waits s c = true → c = high) → exec .recordGrant s = .next (grantClass high s))
        ∧ ∃ (c : TxClass) (n : Nat), waits s c = true ∧ (c = high ∨ c ∈ s.uplink.mayLead)
            ∧ exec .recordGrant s = .next (grantClass c { s with freeIndex := n })))
  ∧ ([TxClass.reply, .alert, .summary, .note, .capture].map TxClass.number = [1, 2, 3, 4, 5]
    ∧ ∀ s : State,
        (waits s .reply = true ↔ s.uplink.replies ≠ []) ∧ (waits s .alert = true ↔ s.uplink.alerts ≠ [])
        ∧ (waits s .summary = true ↔ s.uplink.summaries ≠ []) ∧ (waits s .note = true ↔ s.uplink.notes ≠ [])
        ∧ (waits s .capture = true ↔ s.uplink.drain = true ∧ s.sender.inTransmission = false
            ∧ ∃ (id : CaptureId) (k : Fin 32) (c : Capture), s.sender.capture = some id ∧ s.slotOf id = some k
              ∧ s.slots[k] = some c))
  ∧ (∀ (s : State) (f : TxKind → Nat → List Byte → Uplink → Uplink),
      (∀ kind code body u, f kind code body u = { u with
        transmitter := some
          { kind := kind, frame := uplinkFrame u.partner code u.recordNumber body, elapsed := 0 }
        mayLead := []
        recordNumber := u.recordNumber + 1 }) →
      (∀ r rest, s.uplink.replies = r :: rest →
        grantClass .reply s
          = { s with uplink := f (.reply r.code) 0x81 (replyBody r) { s.uplink with replies := rest } })
      ∧ (∀ a rest, s.uplink.alerts = a :: rest →
        grantClass .alert s = { s with uplink := f .alert 0x82 (alertBody a) { s.uplink with alerts := rest } })
      ∧ (∀ x rest, s.uplink.summaries = x :: rest →
        grantClass .summary s
          = { s with uplink := f .summary 0x83 (summaryBody x) { s.uplink with summaries := rest } })
      ∧ (∀ n rest, s.uplink.notes = n :: rest →
        grantClass .note s = { s with uplink := f .note 0x84 (noteBody n) { s.uplink with notes := rest } })
      ∧ ∀ (id : CaptureId) (k : Fin 32) (c : Capture), s.sender.capture = some id → s.slotOf id = some k →
          s.slots[k] = some c → s.uplink.drain = true → s.sender.inTransmission = false →
          (s.sender.next = .header →
            grantClass .capture s = { s with
              sender := { s.sender with inTransmission := true }
              uplink := f .header 0x90 (headerBody k c) s.uplink })
          ∧ (∀ b, s.sender.next = .block b →
            grantClass .capture s = { s with
              sender := { s.sender with inTransmission := true }
              uplink := f (.block (min 4 (c.stored - 4 * b))) 0x91 (blockBody c b (blockContents s c b)) s.uplink })
          ∧ (s.sender.next = .captureEnd →
            grantClass .capture s = { s with
              sender := { s.sender with inTransmission := true }
              uplink := f .captureEnd 0x92 (endBody c s.sender.rowsSent) s.uplink }))
  ∧ (∀ before after : State,
      (arrivals before after).Nodup
      ∧ (∀ c, c ∈ arrivals before after ↔ waits after c = true
          ∧ (∀ d, waits before d = true → c.number < d.number)
          ∧ (c = .capture → ∀ a ∈ after.uplink.alerts, after.sender.capture ≠ some a.capture))
      ∧ (2 ≤ (arrivals before after).length → together before after
          = { after with uplink := { after.uplink with mayLead := arrivals before after } })
      ∧ ((arrivals before after).length ≤ 1 → together before after = after)
      ∧ ∀ ns, after.rstnLow = false → (after.pass (ns + 1)).uplink.mayLead = []
          ∧ (after.pass 0).uplink.mayLead = after.uplink.mayLead)
  ∧ (∀ (s : State) (c : Capture) (b : Nat) (taken : List Nat) (rows : List StoredRow),
      c.chain = taken.drop (4 * b / 64) → rows.length = min 4 (c.stored - 4 * b) →
      (∀ i < rows.length, ∃ g, taken[(4 * b + i) / 64]? = some g
        ∧ s.store.read (64 * g + (4 * b + i) % 64) = rows[i]?) →
      blockContents s c b = rows)

/-- R174, R175, R193: a record ends 8 ns for each byte of its frame and for 20 bytes more after its grant, and the
transmitter becomes free. After a CAPTURE-HEADER the next record is ROW-BLOCK 0, or CAPTURE-END without a row; a
ROW-BLOCK adds its rows to the rows sent and, with the last row of a segment, releases that segment to the tail of the
free list; a CAPTURE-END frees the slot with its conditioning record and working set, and the sender takes the next
head. That a RECORD_END sent after the end of its record still acts, and one sent before it does nothing, is the model's
choice (log entry 2). -/
def Obligations.RecordEnds : Prop :=
  ∀ (s now free : State) (after : Nat) (x : Transmission), now = s.pass after → now.rstnLow = false →
    now.uplink.transmitter = some x → free = { now with uplink := { now.uplink with transmitter := none } } →
    (x.elapsed < 8 * (x.frame.length + 20) → exec (.recordEnd after) s = .next now)
    ∧ (8 * (x.frame.length + 20) ≤ x.elapsed →
      (x.kind = .alert ∨ x.kind = .summary ∨ x.kind = .note ∨ (∃ code, x.kind = .reply code ∧ code ≠ 0x0E#8) →
        exec (.recordEnd after) s = .next free)
      ∧ ∀ (id : CaptureId) (k : Fin 32) (c : Capture), now.sender.capture = some id → now.slotOf id = some k →
          now.slots[k] = some c →
          (x.kind = .header →
            exec (.recordEnd after) s = .next { free with
              sender := { now.sender with
                inTransmission := false
                next := if c.stored = 0 then .captureEnd else .block 0 } })
          ∧ (∀ (rows b : Nat) (t : State), x.kind = .block rows → now.sender.next = .block b →
            t = { free with
              sender := { now.sender with
                inTransmission := false
                rowsSent := now.sender.rowsSent + rows
                next := if now.sender.rowsSent + rows < c.stored then .block (b + 1) else .captureEnd } } →
            (¬ ((now.sender.rowsSent + rows) % 64 = 0 ∨ now.sender.rowsSent + rows = c.stored) →
              exec (.recordEnd after) s = .next t)
            ∧ (∀ g rest, (now.sender.rowsSent + rows) % 64 = 0 ∨ now.sender.rowsSent + rows = c.stored →
              c.chain = g :: rest →
              exec (.recordEnd after) s = .next { t with
                freeList := t.freeList ++ [g]
                slots := upd t.slots k fun _ => some { c with chain := rest } }))
          ∧ (x.kind = .captureEnd →
            ∃ t : State, exec (.recordEnd after) s = .next (senderTake t)
              ∧ t = { free with
                slots := upd free.slots k (fun _ => none)
                condRecords := upd free.condRecords k (fun _ => none)
                workSets := t.workSets
                delivery := free.delivery.tail
                sender := { free.sender with capture := none, inTransmission := false } }
              ∧ (∀ w : Fin 8, c.workSet = some w → t.workSets[w] = none)
              ∧ (∀ w : Fin 8, c.workSet ≠ some w → t.workSets[w] = now.workSets[w])))

/-! ### The recorder's commands -/

/-- R185: a command row, UNKNOWN_COMMAND among them, has no effect while the interpreter is HALTED, the reply queue is
full, no command waits, or the command at the head of the queue is not the row's own; a command whose code names none of
the part is answered UNKNOWN and changes nothing else (R187). -/
def Obligations.CommandsWaitTheirTurn : Prop :=
  (∀ (row : Instr) (code : Nat) (s : State),
    (row, code) ∈ [(Instr.status, 1), (.tableRead, 2), (.stageLoad, 3), (.stagePatch, 4), (.commitEnable, 5),
      (.commitDisable, 6), (.commit, 7), (.trackControlEnable, 8), (.trackControlDisable, 8), (.abandon, 9),
      (.drainOn, 10), (.drainOff, 10), (.clearStats, 11), (.clearConditions, 12), (.cameraPass, 13), (.reset, 14)] →
    s.uplink.halted = true ∨ 4 ≤ s.uplink.replies.length ∨ s.uplink.commands = []
      ∨ (∃ c rest, s.uplink.commands = c :: rest ∧ c.code.toNat ≠ code) →
    exec row s = .next s)
  ∧ (∀ s : State, s.uplink.halted = true ∨ 4 ≤ s.uplink.replies.length ∨ s.uplink.commands = [] →
      exec .unknownCommand s = .next s)
  ∧ (∀ (s : State) (c : Command) (rest : List Command), s.Ready c rest →
      (c.code = 0 ∨ 14 < c.code.toNat → exec .unknownCommand s = .next ((s.taken c rest).replied c .unknown none []))
      ∧ (1 ≤ c.code.toNat → c.code.toNat ≤ 14 → exec .unknownCommand s = .next s))

/-- R153, R189, R190: STATUS is answered with the report of 127 bytes, read at its execution, and changes nothing else.
CLEAR-STATS sets the 36 counters of the part to 0 and CLEAR-CONDITIONS the cumulative summary to the empty set; each is
answered OK and changes nothing else.
COMMIT-ENABLE sets the commit latch and COMMIT-DISABLE clears it, whatever it held (R15). -/
def Obligations.StatusLatchAndClears : Prop :=
  (∀ (s : State) (c : Command) (rest : List Command), s.Ready c rest →
    (c.code = 0x01#8 →
      exec .status s = .next ((s.taken c rest).replied c .ok none (statusReport s)) ∧ (statusReport s).length = 127)
    ∧ (c.code = 0x0B#8 →
      exec .clearStats s = .next (({ s.taken c rest with
          glitches := Vector.replicate 8 0
          unpaired := Vector.replicate 4 0
          tracks := s.tracks.map (fun r => { r with stray := 0 })
          ports := s.ports.map (fun p =>
            { p with strayRows := 0, failedFrames := 0, missingRows := 0, noteDrops := 0 })
          uplink := { (s.taken c rest).uplink with
            alertsLost := 0, summariesLost := 0, commandsLost := 0, foreignFrames := 0, receiveErrors := 0
            recordsCut := 0 } } : State).replied c .ok none [])
      ∧ (∀ t, exec .clearStats s = .next t → (allCounters t).length = 36 ∧ ∀ n ∈ allCounters t, n = 0))
    ∧ (c.code = 0x0C#8 →
      exec .clearConditions s = .next (({ s.taken c rest with
          uplink := { (s.taken c rest).uplink with cumulative := 0 } } : State).replied c .ok none [])))
  ∧ (∀ (s : State) (c : Command) (rest : List Command), s.Ready c rest →
    (c.code = 0x05#8 →
      exec .commitEnable s = .next (({ s.taken c rest with
        tables := { s.tables with latch := true } } : State).replied c .ok none []))
    ∧ (c.code = 0x06#8 →
      exec .commitDisable s = .next (({ s.taken c rest with
        tables := { s.tables with latch := false } } : State).replied c .ok none [])))

/-- R20: a TABLE-READ of one of the four tables, an image and an index inside the table is answered OK with the three
bytes it named, the table's generation and loaded flag for the active image, or zeros, and the entry or EMPTY; any other
is answered RANGE with no entry. It changes no table. -/
def Obligations.TableRead : Prop :=
  ∀ (s : State) (c : Command) (rest : List Command), s.Ready c rest → c.code = 0x02#8 →
    (∀ (t : TableId) (table image index : Byte) (e : Option TableEntry), c.params = [table, image, index] →
      table.toNat = tableCode t → image.toNat ≤ 1 →
      (if image = 0x00#8 then s.tables.active else s.tables.staging).entry t index.toNat = some e →
      exec .tableRead s = .next ((s.taken c rest).replied c .ok none
        ([table, image, index]
          ++ (if image = 0x00#8 then
                beBytes 2 s.tables.generation[tableIndex t].toNat
                  ++ [if s.tables.loaded[tableIndex t] then 0x01#8 else 0x00#8]
              else [0x00#8, 0x00#8, 0x00#8])
          ++ (match e with
              | none => [0x00#8]
              | some x => 0x01#8 :: entryBytes x))))
    ∧ (∀ (t : TableId) (im : Images) (index : Nat), index < tableSize t ↔ (im.entry t index).isSome = true)
    ∧ ((∀ (t : TableId) (table image index : Byte), c.params = [table, image, index] →
          table.toNat = tableCode t → image.toNat ≤ 1 → tableSize t ≤ index.toNat) →
      exec .tableRead s = .next ((s.taken c rest).replied c .range none []))

/-- R12 to R14: a staging command that passes its checks is answered OK; each entry it names takes the contents given,
and every other entry of the table becomes EMPTY under STAGE-LOAD and keeps its contents under STAGE-PATCH; the other
tables keep their staging entries. One that fails is answered RANGE and no part of it is applied: with no entry index
when it names no table or holds no entry count, when its bytes end between two entries before the count is reached, or
when bytes remain after the last; with the index of the first entry that lies outside the table, is listed twice, has a
form byte other than 00h and 01h, or whose bytes run out; and, when every entry decodes, with the index of the first
entry with a field out of its range (a byte without a code of its field among them, and a command without its count: the
model's reading, log entry 6). The active images, the generations, the loaded flags and the latch are unchanged. -/
def Obligations.Staging : Prop :=
  ∀ (row : Instr) (code : Byte) (keep : Bool) (s : State) (c : Command) (rest : List Command),
    (row, code, keep) ∈ [(Instr.stageLoad, 0x03#8, false), (.stagePatch, 0x04#8, true)] →
    s.Ready c rest → c.code = code →
    (∀ index, stageCheck c.params = .error index →
      exec row s = .next ((s.taken c rest).replied c .range index []))
    ∧ ((∀ (t : TableId) (b : Byte), c.params.head? = some b → b.toNat ≠ tableCode t) ∨ c.params.length ≤ 1 →
      exec row s = .next ((s.taken c rest).replied c .range none []))
    ∧ (∀ (t : TableId) (b count : Byte) (read : List Spelled) (tail : List Byte), b.toNat = tableCode t →
        c.params = b :: count :: (read.flatMap Spelled.bytes ++ tail) → (∀ x ∈ read, x.Sound t) →
        (∀ x ∈ read, x.index < tableSize t) → (read.map Spelled.index).Nodup →
        (read.length < count.toNat → tail = [] → exec row s = .next ((s.taken c rest).replied c .range none []))
        ∧ (read.length = count.toNat → tail ≠ [] → exec row s = .next ((s.taken c rest).replied c .range none []))
        ∧ (∀ (i : Byte) (more : List Byte), read.length < count.toNat → tail = i :: more →
            tableSize t ≤ i.toNat ∨ i.toNat ∈ read.map Spelled.index ∨ more = []
              ∨ (∃ form, more.head? = some form ∧ form ≠ 0x00#8 ∧ form ≠ 0x01#8)
              ∨ (∃ fields, more = 0x01#8 :: fields ∧ takeEntry (entryKind t i.toNat) fields = none) →
            exec row s = .next ((s.taken c rest).replied c .range (some i.toNat) []))
        ∧ (∀ (before later : List Spelled) (x : Spelled), read.length = count.toNat → tail = [] →
            read = before ++ x :: later → (∀ y ∈ before, y.Passes) → ¬ x.Passes →
            exec row s = .next ((s.taken c rest).replied c .range (some x.index) [])))
    ∧ (∀ (t : TableId) (entries : List (Nat × Option TableEntry)), stageCheck c.params = .ok (t, entries) →
      ∃ staged : Images,
        exec row s = .next (({ s.taken c rest with
            tables := { s.tables with staging := staged } } : State).replied c .ok none [])
        ∧ (∀ x ∈ entries, x.1 < tableSize t ∧ staged.entry t x.1 = some x.2
            ∧ ∀ e, x.2 = some e → e.inRange x.1 = true)
        ∧ (∀ index, index < tableSize t → (∀ x ∈ entries, x.1 ≠ index) →
            staged.entry t index = if keep then s.tables.staging.entry t index else some none)
        ∧ (∀ (u : TableId) (index : Nat), u ≠ t → staged.entry u index = s.tables.staging.entry u index))

/-- R6, R8, R10, R16, R17: a COMMIT is answered by the first row that holds: RANGE for malformed parameters, LATCH with
the latch clear, BUSY while the tracks forbid the table, INVALID or REFERENCE with the first failing entry; else it is
taken: every active entry of the table takes the staging entry, the generation goes up by 1, the loaded flag is set, and
the reply carries the new generation. A blank map COMMIT with the latch set is always taken. Every COMMIT clears the
latch, and a refused one changes nothing else. -/
def Obligations.Commit : Prop :=
  ∀ (s : State) (c : Command) (rest : List Command) (refused : Status → Option Nat → State), s.Ready c rest →
    c.code = 0x07#8 →
    (∀ status index, refused status index
      = ({ s.taken c rest with tables := { s.tables with latch := false } } : State).replied c status index []) →
    ((∀ (t : TableId) (b : Byte), b.toNat = tableCode t → c.params ≠ [b]) → exec .commit s = .next (refused .range none))
    ∧ ∀ (t : TableId) (b : Byte), b.toNat = tableCode t → c.params = [b] →
      (s.tables.latch = false → exec .commit s = .next (refused .latch none))
      ∧ (s.tables.latch = true →
        ((t = .site ∧ (∃ k, (s.track k).state ≠ .off))
            ∨ ((t = .consist ∨ t = .headClass) ∧ ∃ k p, (s.track k).state = .active p) →
          exec .commit s = .next (refused .busy none))
        ∧ (t = .site → (∀ k, (s.track k).state = .off) → ∀ (cam : Fin 4) (e : SiteCamera) (k : Track),
            s.tables.staging.siteCameras[cam] = some e → e.track = some k →
            (∀ x, s.tables.staging.siteTracks[trackIndex k] = some x → x.valid = false) →
            (∀ (i : Fin 4) (d : SiteCamera) (j : Track), i < cam → s.tables.staging.siteCameras[i] = some d →
              d.track = some j → ∃ x, s.tables.staging.siteTracks[trackIndex j] = some x ∧ x.valid = true) →
            exec .commit s = .next (refused .invalid (some (cam.val + 2))))
        ∧ (t = .consist → (∀ k p, (s.track k).state ≠ .active p) →
            (s.tables.staging.consist[0] = none → exec .commit s = .next (refused .invalid (some 0)))
            ∧ (∀ (i : Fin 32), s.tables.staging.consist[0] ≠ none →
                (∃ e, s.tables.staging.consist[i] = some e
                  ∧ ∃ p ∈ e.pantos, s.tables.active.headClasses[p.headClass] = none) →
                (∀ j, j < i → ∀ e, s.tables.staging.consist[j] = some e →
                  ∀ p ∈ e.pantos, s.tables.active.headClasses[p.headClass] ≠ none) →
                exec .commit s = .next (refused .reference (some i.val))))
        ∧ (t = .headClass → (∀ k p, (s.track k).state ≠ .active p) → ∀ i : Fin 16,
            s.tables.staging.headClasses[i] = none →
            (∃ (j : Fin 32) (e : Profile), s.tables.active.consist[j] = some e ∧ ∃ p ∈ e.pantos, p.headClass = i) →
            (∀ m : Fin 16, m < i → s.tables.staging.headClasses[m] = none →
              ∀ (j : Fin 32) (e : Profile), s.tables.active.consist[j] = some e → ∀ p ∈ e.pantos, p.headClass ≠ m) →
            exec .commit s = .next (refused .reference (some i.val)))
        ∧ ((t = .site → (∀ k, (s.track k).state = .off) ∧ ∀ (cam : Fin 4) (e : SiteCamera) (k : Track),
              s.tables.staging.siteCameras[cam] = some e → e.track = some k →
              ∃ x, s.tables.staging.siteTracks[trackIndex k] = some x ∧ x.valid = true) →
            (t = .consist ∨ t = .headClass → ∀ k p, (s.track k).state ≠ .active p) →
            (t = .consist → s.tables.staging.consist[0] ≠ none ∧ ∀ (i : Fin 32) (e : Profile),
              s.tables.staging.consist[i] = some e → ∀ p ∈ e.pantos, s.tables.active.headClasses[p.headClass] ≠ none) →
            (t = .headClass → ∀ i : Fin 16, s.tables.staging.headClasses[i] = none →
              ∀ (j : Fin 32) (e : Profile), s.tables.active.consist[j] = some e → ∀ p ∈ e.pantos, p.headClass ≠ i) →
            ∃ x : Tables,
              exec .commit s = .next (({ s.taken c rest with tables := x } : State).replied c .ok none
                (beBytes 2 (s.tables.generation[tableIndex t] + 1).toNat))
              ∧ x.staging = s.tables.staging ∧ x.latch = false
              ∧ x.generation[tableIndex t] = s.tables.generation[tableIndex t] + 1 ∧ x.loaded[tableIndex t] = true
              ∧ (∀ index, x.active.entry t index = s.tables.staging.entry t index)
              ∧ ∀ u, u ≠ t → x.generation[tableIndex u] = s.tables.generation[tableIndex u]
                  ∧ x.loaded[tableIndex u] = s.tables.loaded[tableIndex u]
                  ∧ ∀ index, x.active.entry u index = s.tables.active.entry u index))

/-- R39 to R41: ENABLE takes a track in OFF to IDLE when its active site entry is valid, and is answered STATE when not;
out of OFF it changes nothing. DISABLE takes the track to OFF, and in ACTIVE ends the passage ABANDONED. ABANDON ends a
passage ABANDONED, into SETTLING, and is answered STATE when there is none. A track byte other than 1 or 2, an action
byte other than 00h or 01h, and parameters of another length are answered RANGE and change nothing (R187, R202). Which
row runs a TRACK-CONTROL is the model's choice (log entry 4): DISABLE when its second byte is 00h, else ENABLE; the other
row has no effect. The summary of a passage that ends, and the reply, arrive together (R194), as RecordGranted says. -/
def Obligations.TrackCommands : Prop :=
  ∀ (s mid : State) (c : Command) (rest : List Command), s.Ready c rest → mid = s.taken c rest →
    (∀ (t : Track) (b : Byte), b.toNat = trackNumber t →
      (c.code = 0x08#8 → c.params = [b, 0x01#8] →
        ((s.track t).state = .off → (s.siteTrack? t).isSome = true →
          exec .trackControlEnable s
            = .next ((mid.modTrack t fun r => { r with state := .idle }).replied c .ok none []))
        ∧ ((s.track t).state = .off → s.siteTrack? t = none →
          exec .trackControlEnable s = .next (mid.replied c .state none []))
        ∧ ((s.track t).state ≠ .off → exec .trackControlEnable s = .next (mid.replied c .ok none [])))
      ∧ (c.code = 0x08#8 → c.params = [b, 0x00#8] →
        ((s.passage? t).isSome = true →
          exec .trackControlDisable s
            = .next (together s ((endPassage t .abandoned .off mid).replied c .ok none [])))
        ∧ (s.passage? t = none →
          exec .trackControlDisable s
            = .next ((mid.modTrack t fun r => { r with state := .off }).replied c .ok none [])))
      ∧ (c.code = 0x09#8 → c.params = [b] →
        ((s.passage? t).isSome = true →
          exec .abandon s = .next (together s ((endPassage t .abandoned .settling mid).replied c .ok none [])))
        ∧ (s.passage? t = none → exec .abandon s = .next (mid.replied c .state none []))))
    ∧ (c.code = 0x08#8 → c.params[1]? ≠ some 0x00#8 →
        (∀ (t : Track) (b : Byte), b.toNat = trackNumber t → c.params ≠ [b, 0x01#8]) →
        exec .trackControlEnable s = .next (mid.replied c .range none []))
    ∧ (c.code = 0x08#8 → c.params[1]? = some 0x00#8 →
        (∀ (t : Track) (b : Byte), b.toNat = trackNumber t → c.params ≠ [b, 0x00#8]) →
        exec .trackControlDisable s = .next (mid.replied c .range none []))
    ∧ (c.code = 0x08#8 → c.params[1]? = some 0x00#8 → exec .trackControlEnable s = .next s)
    ∧ (c.code = 0x08#8 → c.params[1]? ≠ some 0x00#8 → exec .trackControlDisable s = .next s)
    ∧ (c.code = 0x09#8 → (∀ (t : Track) (b : Byte), b.toNat = trackNumber t → c.params ≠ [b]) →
        exec .abandon s = .next (mid.replied c .range none []))

/-- R171, R176, R188: DRAIN sets the switch and is answered OK; with ON, no capture SENDING and a queue that is not
empty, the head capture goes to SENDING with its CAPTURE-HEADER next. Any other value is answered RANGE; which row runs
a DRAIN is the model's choice (log entry 4): DRAIN_OFF when its first byte is 00h, else DRAIN_ON; the other row has no
effect. The capture record that DRAIN ON offers, and its reply, arrive together (R194), as RecordGranted says.
R104: a CAMERA-PASS that names no camera, or holds no byte or more than 64, is answered RANGE; one to a camera whose
link is DOWN, STATE; one that finds four messages in the queue, FULL; any other is answered OK and its message joins the
camera's pass-through queue. Nothing else changes. -/
def Obligations.DrainAndCameraPass : Prop :=
  (∀ (s mid : State) (c : Command) (rest : List Command), s.Ready c rest → mid = s.taken c rest → c.code = 0x0A#8 →
    (c.params = [0x00#8] →
      exec .drainOff s
        = .next (({ mid with uplink := { mid.uplink with drain := false } } : State).replied c .ok none []))
    ∧ (c.params = [0x01#8] →
      (s.sender.capture ≠ none ∨ s.delivery = [] →
        exec .drainOn s
          = .next (together s
              (({ mid with uplink := { mid.uplink with drain := true } } : State).replied c .ok none [])))
      ∧ (∀ (id : CaptureId) (queue : List CaptureId) (k : Fin 32) (x : Capture), s.sender.capture = none →
          s.delivery = id :: queue → s.slotOf id = some k → s.slots[k] = some x →
          exec .drainOn s = .next (together s (({ mid with
            uplink := { mid.uplink with drain := true }
            slots := upd mid.slots k (fun _ => some { x with state := .sending })
            sender := { capture := some id, next := .header, inTransmission := false, rowsSent := 0 } } : State).replied
              c .ok none []))))
    ∧ (c.params.head? = some 0x00#8 → exec .drainOn s = .next s)
    ∧ (c.params.head? ≠ some 0x00#8 → exec .drainOff s = .next s)
    ∧ (c.params ≠ [0x00#8] → c.params ≠ [0x01#8] → c.params.head? ≠ some 0x00#8 →
        exec .drainOn s = .next (mid.replied c .range none []))
    ∧ (c.params ≠ [0x00#8] → c.params.head? = some 0x00#8 →
        exec .drainOff s = .next (mid.replied c .range none [])))
  ∧ (∀ (s mid : State) (c : Command) (rest : List Command), s.Ready c rest → mid = s.taken c rest → c.code = 0x0D#8 →
    (∀ (cam : Fin 4) (message : List Byte), 1 ≤ message.length → message.length ≤ 64 →
      c.params = BitVec.ofNat 8 cam.val :: BitVec.ofNat 8 message.length :: message →
      (s.ports[cam].up = false → exec .cameraPass s = .next (mid.replied c .state none []))
      ∧ (s.ports[cam].up = true → 4 ≤ s.ports[cam].passQueue.length →
        exec .cameraPass s = .next (mid.replied c .full none []))
      ∧ (s.ports[cam].up = true → s.ports[cam].passQueue.length < 4 →
        exec .cameraPass s
          = .next ((mid.modPort cam fun p => { p with passQueue := p.passQueue ++ [message] }).replied c .ok none [])))
    ∧ ((∀ (cam : Fin 4) (message : List Byte), 1 ≤ message.length → message.length ≤ 64 →
          c.params ≠ BitVec.ofNat 8 cam.val :: BitVec.ofNat 8 message.length :: message) →
      exec .cameraPass s = .next (mid.replied c .range none [])))

/-! ### Encodings -/

/-- R202: the bytes of every entry in range decode to that entry, with every field at every value its range admits and
whatever bytes follow; so does the whole list of a staging command. The bytes of each kind of entry hold its fields in
the order of R202, each at its offset and in its width; an EMPTY entry is a form byte of 00h, any other a form byte of
01h and its fields. An entry is in range exactly when its fields are (R4, R5, R7, R9, R11). A table's entries stand by
their index, the two tracks of the site table before its four cameras (R1). -/
def Obligations.TableEntryRoundTrip : Prop :=
  (∀ (t : TableId) (index : Nat) (e : TableEntry) (rest : List Byte), index < tableSize t → e.inRange index = true →
    (∃ im : Images, (im.putEntry index e).entry t index = some (some e)) →
    ∃ raw, takeEntry (entryKind t index) (entryBytes e ++ rest) = some (raw, rest) ∧ checkEntry index raw = some e)
  ∧ (∀ (t : TableId) (entries : List (Nat × Option TableEntry)), entries.length ≤ 255 →
      (entries.map Prod.fst).Nodup → (∀ x ∈ entries, x.1 < tableSize t) →
      (∀ x ∈ entries, ∀ e, x.2 = some e → e.inRange x.1 = true
        ∧ ∃ im : Images, (im.putEntry x.1 e).entry t x.1 = some (some e)) →
      stageCheck (BitVec.ofNat 8 (tableCode t) :: BitVec.ofNat 8 entries.length ::
          entries.flatMap (fun x => BitVec.ofNat 8 x.1 :: formBytes x.2)) = .ok (t, entries))
  ∧ (∀ im : Images,
      (∀ i : Fin 2, im.entry .site i.val = some (im.siteTracks[i].map .siteTrack))
      ∧ (∀ i : Fin 4, im.entry .site (2 + i.val) = some (im.siteCameras[i].map .siteCamera))
      ∧ (∀ i : Fin 32, im.entry .consist i.val = some (im.consist[i].map .profile))
      ∧ (∀ i : Fin 16, im.entry .headClass i.val = some (im.headClasses[i].map .headClass))
      ∧ (∀ i : Fin 4, im.entry .blankMap i.val = some (im.blankMap[i].map .blankMap))
      ∧ ∀ (t : TableId) (index : Nat), tableSize t ≤ index → im.entry t index = none)
  ∧ (formBytes none = [0x00#8] ∧ ∀ e, formBytes (some e) = 0x01#8 :: entryBytes e)
  ∧ (∀ (e : SiteTrack) (bytes : List Byte), bytes = entryBytes (.siteTrack e) → bytes.length = 15
      ∧ HoldsFields bytes
        [(0, 1, e.valid.toNat), (1, 2, e.spacingA), (3, 2, e.spacingB), (5, 4, e.defaultPace), (9, 2, e.paceHold),
         (11, 2, e.quiet), (13, 2, e.settle)])
  ∧ (∀ (e : SiteCamera) (bytes : List Byte), bytes = entryBytes (.siteCamera e) → bytes.length = 28
      ∧ HoldsFields bytes
        [(0, 1, match e.track with | none => 0 | some .t1 => 1 | some .t2 => 2),
         (1, 1, match e.role with | .image => 0 | .profile => 1), (2, 4, e.aDistance), (6, 4, e.bDistance),
         (10, 2, e.pitch), (12, 4, e.periodMin), (16, 4, e.periodMax), (20, 2, e.slope), (22, 1, e.kept.toNat),
         (23, 2, e.rowLimit), (25, 2, e.rowTimeout), (27, 1, e.repairLimit)])
  ∧ (∀ (e : Profile) (bytes : List Byte) (n : Nat), bytes = entryBytes (.profile e) → n = 2 * e.signature.length →
      bytes.length = 8 + n + 5 * e.pantos.length
      ∧ HoldsFields bytes
        [(0, 2, e.code.toNat), (2, 1, e.signature.length), (3 + n, 2, e.tolerance.getD 0),
         (5 + n, 2, e.expectedAxles.getD 0), (7 + n, 1, e.pantos.length)]
      ∧ (∀ (i d : Nat), e.signature[i]? = some d → HoldsFields bytes [(3 + 2 * i, 2, d)])
      ∧ ∀ (i : Nat) (p : Panto), e.pantos[i]? = some p →
          HoldsFields bytes [(8 + n + 5 * i, 4, p.offset), (12 + n + 5 * i, 1, p.headClass.val)])
  ∧ (∀ (e : HeadClass) (bytes : List Byte), bytes = entryBytes (.headClass e) → bytes.length = 18
      ∧ HoldsFields bytes
        [(0, 2, e.nominal), (2, 2, e.wearLimit), (4, 2, e.stepLimit), (6, 2, e.windowBefore), (8, 2, e.windowAfter),
         (10, 1, e.referenceThreshold), (11, 1, e.stripThreshold), (12, 1, e.minGap), (13, 1, e.minValid),
         (14, 1, e.firstCell), (15, 1, e.lastCell), (16, 2, e.alertMask.toNat)])
  ∧ (∀ (e : BlankEntry) (bytes : List Byte), bytes = entryBytes (.blankMap e) →
      bytes.length = 2 + 3 * e.runs.length ∧ HoldsFields bytes [(0, 1, e.fill.toNat), (1, 1, e.runs.length)]
      ∧ ∀ (i : Nat) (r : BlankRun), e.runs[i]? = some r → HoldsFields bytes
          [(2 + 3 * i, 1, r.firstCell), (3 + 3 * i, 1, r.lastCell), (4 + 3 * i, 1, r.pattern.toNat)])
  ∧ (∀ index : Nat,
      (∀ e : SiteTrack, (TableEntry.siteTrack e).inRange index = true ↔
        (300 ≤ e.spacingA ∧ e.spacingA ≤ 1500) ∧ (300 ≤ e.spacingB ∧ e.spacingB ≤ 1500)
        ∧ (8333 ≤ e.defaultPace ∧ e.defaultPace ≤ 1000000) ∧ (500 ≤ e.paceHold ∧ e.paceHold ≤ 30000)
        ∧ (1000 ≤ e.quiet ∧ e.quiet ≤ 60000) ∧ e.settle ≤ 5000 ∧ e.paceHold < e.quiet)
      ∧ (∀ e : SiteCamera, (TableEntry.siteCamera e).inRange index = true ↔
        (5000 ≤ e.aDistance ∧ e.aDistance ≤ 400000) ∧ (5000 ≤ e.bDistance ∧ e.bDistance ≤ 400000)
        ∧ (250 ≤ e.pitch ∧ e.pitch ≤ 5000) ∧ (5000 ≤ e.periodMin ∧ e.periodMin ≤ 200000)
        ∧ (e.periodMin ≤ e.periodMax ∧ e.periodMax ≤ 2000000) ∧ (1 ≤ e.slope ∧ e.slope ≤ 4096)
        ∧ (64 ≤ e.rowLimit ∧ e.rowLimit ≤ 4096) ∧ (100 ≤ e.rowTimeout ∧ e.rowTimeout ≤ 10000)
        ∧ e.repairLimit ≤ 16)
      ∧ (∀ e : Profile, (TableEntry.profile e).inRange index = true ↔
        (∀ n, e.expectedAxles = some n → 2 ≤ n ∧ n ≤ 1023) ∧ e.pantos.length ≤ 4
        ∧ (∀ p ∈ e.pantos, p.offset ≤ 400000) ∧ (index = 0 → e.signature = [] ∧ e.tolerance = none)
        ∧ (index ≠ 0 → 2 ≤ e.signature.length ∧ e.signature.length ≤ 8
          ∧ (∀ d ∈ e.signature, 1500 ≤ d ∧ d ≤ 30000) ∧ (∃ tol, e.tolerance = some tol ∧ 10 ≤ tol ∧ tol ≤ 500)
          ∧ 1 ≤ e.pantos.length))
      ∧ (∀ e : HeadClass, (TableEntry.headClass e).inRange index = true ↔
        (500 ≤ e.nominal ∧ e.nominal ≤ 6000) ∧ (100 ≤ e.wearLimit ∧ e.wearLimit < e.nominal)
        ∧ (10 ≤ e.stepLimit ∧ e.stepLimit ≤ 2000) ∧ (50 ≤ e.windowBefore ∧ e.windowBefore ≤ 2000)
        ∧ (50 ≤ e.windowAfter ∧ e.windowAfter ≤ 2000)
        ∧ (1 ≤ e.referenceThreshold ∧ e.referenceThreshold ≤ 254)
        ∧ (1 ≤ e.stripThreshold ∧ e.stripThreshold ≤ 254) ∧ e.minGap ≤ 63 ∧ (1 ≤ e.minValid ∧ e.minValid ≤ 8)
        ∧ (e.firstCell ≤ e.lastCell ∧ e.lastCell ≤ 255))
      ∧ (∀ e : BlankEntry, (TableEntry.blankMap e).inRange index = true ↔
        e.runs.length ≤ 16 ∧ ∀ r ∈ e.runs, r.firstCell ≤ r.lastCell ∧ r.lastCell ≤ 255 ∧ r.pattern ≠ 0))

/-- R200 to R202: a command frame with any source address, tag, code and parameters, padded to its smallest payload and
closed by its check, is taken as that command; a row frame and a camera note are taken as their echo and pixels, and
their bytes. The check of a sequence of bytes is the remainder of R200, taken byte by byte from FFFFFFFFh, eight shifts a
byte, and inverted; the frame check is its bytes, least significant first. A token holds its start code and its sequence,
and a pass-through message its start code, its length, its bytes and the check over both (R201). -/
def Obligations.FrameRoundTrip : Prop :=
  (∀ (destination : List Byte) (c : Command) (frame : List Byte), destination.length = 6 → c.params.length ≤ 8992 →
    frame = destination ++ beBytes 6 c.source.toNat ++ beBytes 2 0x88B6 ++ padPayload
      (0x01#8 :: 0x00#8 :: 0x00#8 :: (beBytes 2 (3 + c.params.length) ++ beBytes 2 c.tag.toNat ++ [c.code] ++ c.params)) →
    sortFrame (frame ++ frameCheck frame) = .command c)
  ∧ (∀ (echo : Half) (pixels : List Byte), pixels.length = 2048 →
    judgeForward (0xA5#8 :: (beBytes 2 echo.toNat ++ pixels
      ++ beBytes 4 (check (beBytes 2 echo.toNat ++ pixels)).toNat)) = .row echo pixels)
  ∧ (∀ bytes : List Byte, 1 ≤ bytes.length → bytes.length ≤ 64 →
    judgeForward (0xC3#8 :: BitVec.ofNat 8 bytes.length :: (bytes
      ++ beBytes 4 (check (BitVec.ofNat 8 bytes.length :: bytes)).toNat)) = .note bytes)
  ∧ (∀ (shift : BitVec 32 → BitVec 32) (remainder : List Byte → BitVec 32),
    (∀ r, shift r = if r.getLsbD 0 then (r >>> 1) ^^^ 0xEDB88320#32 else r >>> 1) →
    remainder [] = 0xFFFFFFFF#32 →
    (∀ bytes b, remainder (bytes ++ [b]) = shift^[8] (remainder bytes ^^^ b.setWidth 32)) →
    ∀ bytes, check bytes = ~~~ remainder bytes)
  ∧ (∀ bytes : List Byte,
    (frameCheck bytes).length = 4 ∧ beNat (frameCheck bytes).reverse = (check bytes).toNat)
  ∧ (∀ sequence : Half, laneBytes (.token sequence) = tokenBytes sequence ∧ (tokenBytes sequence).length = 3
    ∧ HoldsFields (tokenBytes sequence) [(0, 1, 0x3C), (1, 2, sequence.toNat)])
  ∧ (∀ message frame : List Byte, frame = messageBytes message →
    laneBytes (.message message) = frame ∧ frame.length = 6 + message.length
    ∧ (frame.drop 2).take message.length = message
    ∧ HoldsFields frame
      [(0, 1, 0x69), (1, 1, message.length),
       (2 + message.length, 4, (check ((frame.drop 1).take (1 + message.length))).toNat)])

/-- R199, R202 to R204: every frame the part sends is at least 64 bytes long and carries the partner address, the part's
own address and type, the record kind, the record number and the length of its body; each body has the length of its
table and every field of the table at its offset, as a number of the field's width. Numbers are most significant byte
first, and the codes, those of the tables among them, and the condition sets are those of R199; the tables, tracks and
stations are counted in the order of STATUS (R203). (A summary has no PENDING outcome: log entry 12.) -/
def Obligations.RecordLayouts : Prop :=
  (∀ (partner : Mac) (kind : Nat) (number : Half) (body : List Byte), kind < 256 → body.length < 65536 →
    ∀ frame, frame = uplinkFrame partner kind number body →
    frame.length = max 64 (23 + body.length)
    ∧ beNat (frame.take 6) = partner.toNat ∧ (frame.drop 6).take 6 = [0x02#8, 0, 0, 0, 0x04#8, 0x18#8]
    ∧ (frame.drop 12).take 2 = [0x88#8, 0xB6#8] ∧ beNat ((frame.drop 14).take 1) = kind
    ∧ beNat ((frame.drop 15).take 2) = number.toNat ∧ beNat ((frame.drop 17).take 2) = body.length
    ∧ (frame.drop 19).take body.length = body
    ∧ frame.drop (frame.length - 4) = frameCheck (frame.take (frame.length - 4)))
  ∧ ([Status.ok, .busy, .latch, .invalid, .reference, .range, .state, .full, .unknown].map statusCode
        = [0, 1, 2, 3, 4, 5, 6, 7, 8]
      ∧ [Direction.ab, .ba].map directionCode = [0, 1]
      ∧ [MatchState.seeking, .matched, .fallback, .undecided].map matchCode = [0, 1, 2, 3]
      ∧ [EndReason.balanced, .timeout, .abandoned].map endCode = [1, 2, 3]
      ∧ [CloseReason.none, .cut, .limit, .short].map closeCode = [0, 1, 2, 3]
      ∧ [Role.image, .profile].map roleCode = [0, 1] ∧ [Track.t1, .t2].map trackNumber = [1, 2]
      ∧ [TableId.site, .consist, .headClass, .blankMap].map tableCode = [1, 2, 3, 4]
      ∧ [TableId.site, .consist, .headClass, .blankMap].map tableSize = [6, 32, 16, 4]
      ∧ [TableId.site, .consist, .headClass, .blankMap].map tableIndex = [0, 1, 2, 3]
      ∧ [Track.t1, .t2].map trackIndex = [0, 1]
      ∧ [stationIndex .t1 .a, stationIndex .t1 .b, stationIndex .t2 .a, stationIndex .t2 .b] = [0, 1, 2, 3]
      ∧ (∀ (b : Byte) (t : TableId), tableOf b = some t ↔ b.toNat = tableCode t)
      ∧ [Cond.unmatched, .late, .cut, .short, .limit, .pitch, .repaired, .gap, .trunc, .norows, .sparse, .overMark,
          .sat, .nocell, .wear, .step].map condBit = (List.range 16).map (fun n => BitVec.ofNat 16 (2 ^ n))
      ∧ (∀ (set : Half) (c : Cond), condAdd set c = set ||| condBit c
          ∧ (condHas set c = true ↔ set &&& condBit c ≠ 0) ∧ condIf true c = condBit c ∧ condIf false c = 0))
  ∧ ((∀ n v : Nat, (beBytes n v).length = n ∧ beNat (beBytes n v) = v % 256 ^ n)
      ∧ beNat [] = 0
      ∧ ∀ (b : Byte) (bytes : List Byte), beNat (b :: bytes) = b.toNat * 256 ^ bytes.length + beNat bytes)
  ∧ (∀ r : Reply, HoldsFields (replyBody r)
        [(0, 2, r.tag.toNat), (2, 1, r.code.toNat), (3, 1, statusCode r.status), (4, 1, r.index.getD 255)]
      ∧ (replyBody r).drop 5 = r.body)
  ∧ (∀ (s : State) (body : List Byte), body = statusReport s →
      body.length = 127
      ∧ HoldsFields body
        [(0, 4, s.time.toNat),
         (32, 1, s.tables.loaded[0].toNat), (33, 2, s.tables.generation[0].toNat),
         (35, 1, s.tables.loaded[1].toNat), (36, 2, s.tables.generation[1].toNat),
         (38, 1, s.tables.loaded[2].toNat), (39, 2, s.tables.generation[2].toNat),
         (41, 1, s.tables.loaded[3].toNat), (42, 2, s.tables.generation[3].toNat),
         (44, 1, s.tables.latch.toNat), (45, 1, s.uplink.drain.toNat),
         (46, 1, s.uplink.up.toNat + 2 * s.ports[0].up.toNat + 4 * s.ports[1].up.toNat + 8 * s.ports[2].up.toNat
           + 16 * s.ports[3].up.toNat),
         (47, 2, s.freeList.length), (49, 1, s.delivery.length), (50, 1, s.uplink.alerts.length),
         (51, 1, s.uplink.summaries.length), (52, 1, s.uplink.notes.length), (53, 2, s.uplink.cumulative.toNat),
         (115, 2, s.uplink.alertsLost.toNat), (117, 2, s.uplink.summariesLost.toNat),
         (119, 2, s.uplink.commandsLost.toNat), (121, 2, s.uplink.foreignFrames.toNat),
         (123, 2, s.uplink.receiveErrors.toNat), (125, 2, s.uplink.recordsCut.toNat)]
      ∧ (∀ (t : Track) (offset : Nat), (t, offset) ∈ [(Track.t1, 4), (.t2, 18)] →
          fieldAt body offset 1
              = (match (s.track t).state with | .off => 0 | .idle => 1 | .active _ => 2 | .settling _ => 3)
          ∧ (s.passage? t = none → (body.drop (offset + 1)).take 13 = List.replicate 13 0x00#8)
          ∧ ∀ p, s.passage? t = some p → HoldsFields body
              [(offset + 1, 2, p.number.toNat), (offset + 3, 1, directionCode p.direction),
               (offset + 4, 2, p.inCount), (offset + 6, 2, p.outCount), (offset + 8, 1, matchCode p.matching),
               (offset + 9, 4, p.pace), (offset + 13, 1, p.stale.toNat)])
      ∧ (∀ l : Fin 8, fieldAt body (55 + 2 * l.val) 2 = s.glitches[l].toNat)
      ∧ (∀ i : Fin 4, fieldAt body (71 + 2 * i.val) 2 = s.unpaired[i].toNat)
      ∧ (∀ i : Fin 2, fieldAt body (79 + 2 * i.val) 2 = s.tracks[i].stray.toNat)
      ∧ (∀ cam : Fin 4, HoldsFields body
          [(83 + 8 * cam.val, 2, s.ports[cam].strayRows.toNat), (85 + 8 * cam.val, 2, s.ports[cam].failedFrames.toNat),
           (87 + 8 * cam.val, 2, s.ports[cam].missingRows.toNat), (89 + 8 * cam.val, 2, s.ports[cam].noteDrops.toNat)]))
  ∧ (∀ a : Alert, (alertBody a).length = 29 ∧ HoldsFields (alertBody a)
      ([(0, 1, a.capture.toNat), (1, 1, a.camera.val), (2, 1, trackNumber a.track), (3, 2, a.passage.toNat),
        (5, 1, a.panto), (6, 1, a.profile.val), (7, 2, a.code.toNat), (9, 1, a.headClass.val),
        (10, 2, a.headGen.toNat), (12, 2, a.conditions.toNat), (14, 2, a.alerted.toNat), (16, 4, a.doneTime.toNat)]
        ++ resultFields 20 a.result))
  ∧ (∀ (x : Summary) (body : List Byte), body = summaryBody x →
      body.length = 27 + 4 * x.plan.length + 13 * x.axles.length
      ∧ HoldsFields body
        [(0, 2, x.number.toNat), (2, 1, trackNumber x.track), (3, 1, directionCode x.direction),
         (4, 4, x.start.toNat), (8, 4, x.finish.toNat), (12, 2, x.inCount), (14, 2, x.outCount),
         (16, 1, matchCode x.matching), (17, 1, x.profile.isSome.toNat),
         (18, 1, match x.profile with | none => 0 | some (i, _) => i.val),
         (19, 2, match x.profile with | none => 0 | some (_, code) => code.toNat), (21, 2, x.consistGen.toNat),
         (23, 1, endCode x.reason),
         (24, 1, x.reversed.toNat + 2 * x.unpairedSeen.toNat + 4 * x.paceClamp.toNat + 8 * x.axleOverflow.toNat
           + 16 * x.axleMismatch.toNat),
         (25, 1, x.plan.length), (26 + 4 * x.plan.length, 1, x.axles.length)]
      ∧ (∀ (i : Nat) (e : PlanEntry), x.plan[i]? = some e →
          HoldsFields body [(26 + 4 * i, 1, e.camera.val), (27 + 4 * i, 1, e.panto)]
          ∧ (∀ id, e.outcome = .opened id → HoldsFields body [(28 + 4 * i, 1, 0), (29 + 4 * i, 1, id.toNat)])
          ∧ ∀ reason n, (reason, n) ∈ [(DropReason.missed, 1), (.noSlot, 2), (.reversal, 3), (.ended, 4)] →
              e.outcome = .dropped reason → HoldsFields body [(28 + 4 * i, 1, n), (29 + 4 * i, 1, 0)])
      ∧ (∀ (i offset : Nat) (a : Axle), x.axles[i]? = some a → offset = 27 + 4 * x.plan.length + 13 * i →
          HoldsFields body
            [(offset, 4, a.time.toNat), (offset + 4, 4, a.pace.getD 0), (offset + 8, 4, a.spacing.getD 0),
             (offset + 12, 1, a.unpaired.toNat + 2 * a.clamped.toNat + 4 * a.pace.isSome.toNat
               + 8 * a.spacing.isSome.toNat)]))
  ∧ (∀ n : Note, (noteBody n).length = 6 + n.bytes.length
      ∧ HoldsFields (noteBody n) [(0, 1, n.camera.val), (1, 4, n.time.toNat), (5, 1, n.bytes.length)]
      ∧ (noteBody n).drop 6 = n.bytes)
  ∧ (∀ (k : Fin 32) (c : Capture) (body : List Byte), body = headerBody k c →
      body.length = 77 + 3 * c.blank.runs.length
      ∧ HoldsFields body
        [(0, 1, c.id.toNat), (1, 1, k.val), (2, 1, c.camera.val), (3, 1, trackNumber c.track),
         (4, 2, c.passage.toNat), (6, 1, c.panto), (7, 1, c.headClass.val), (8, 1, c.profile.val),
         (9, 2, c.code.toNat), (11, 2, c.consistGen.toNat), (13, 2, c.headGen.toNat), (15, 2, c.blankGen.toNat),
         (17, 4, c.openPoint), (21, 4, c.closePoint), (25, 2, c.firstSequence.toNat), (27, 2, c.tagged),
         (29, 2, c.received), (31, 2, c.stored), (33, 2, c.repaired), (35, 2, c.omitted),
         (37, 1, closeCode c.close), (38, 2, c.conditions.toNat), (40, 4, c.openTime.toNat), (48, 1, roleCode c.role),
         (49, 2, c.slope), (51, 1, c.kept.toNat), (52, 2, c.rowLimit), (54, 1, c.repairLimit)]
      ∧ HoldsFields body
        [(55, 2, c.head.nominal), (57, 2, c.head.wearLimit), (59, 2, c.head.stepLimit), (61, 2, c.head.windowBefore),
         (63, 2, c.head.windowAfter), (65, 1, c.head.referenceThreshold), (66, 1, c.head.stripThreshold),
         (67, 1, c.head.minGap), (68, 1, c.head.minValid), (69, 1, c.head.firstCell), (70, 1, c.head.lastCell),
         (71, 2, c.head.alertMask.toNat), (73, 2, (c.stored + 3) / 4), (75, 1, c.blank.fill.toNat),
         (76, 1, c.blank.runs.length)]
      ∧ (∀ done, c.doneTime = some done → fieldAt body 44 4 = done.toNat)
      ∧ (∀ (i : Nat) (r : BlankRun), c.blank.runs[i]? = some r → HoldsFields body
          [(77 + 3 * i, 1, r.firstCell), (78 + 3 * i, 1, r.lastCell), (79 + 3 * i, 1, r.pattern.toNat)]))
  ∧ (∀ (c : Capture) (b : Nat) (rows : List StoredRow) (body : List Byte), (∀ r ∈ rows, r.pixels.length = 2048) →
      body = blockBody c b rows →
      body.length = 4 + 2051 * rows.length
      ∧ HoldsFields body [(0, 1, c.id.toNat), (1, 2, b), (3, 1, min 4 (c.stored - 4 * b))]
      ∧ ∀ (i : Nat) (r : StoredRow), rows[i]? = some r →
          HoldsFields body [(4 + 3 * i, 2, r.sequence.toNat), (6 + 3 * i, 1, r.repaired.toNat)]
          ∧ (body.drop (4 + 3 * rows.length + 2048 * i)).take 2048 = r.pixels)
  ∧ (∀ (c : Capture) (sent : Nat) (body : List Byte), body = endBody c sent →
      body.length = 15 + 3 * (c.cells.getD []).length
      ∧ HoldsFields body ([(0, 1, c.id.toNat), (1, 2, sent)] ++ resultFields 3 c.result)
      ∧ (c.cells = none → HoldsFields body [(12, 2, 0), (14, 1, 0)])
      ∧ ∀ cells, c.cells = some cells →
          HoldsFields body [(12, 2, cells.length), (14, 1, c.head.firstCell)]
          ∧ ∀ (i : Nat) (x : Cell), cells[i]? = some x → HoldsFields body
              (match x with
              | .present v => [(15 + 3 * i, 1, 0), (16 + 3 * i, 2, v)]
              | .blanked => [(15 + 3 * i, 1, 1), (16 + 3 * i, 2, 0)]
              | .sparse => [(15 + 3 * i, 1, 2), (16 + 3 * i, 2, 0)]
              | .saturated => [(15 + 3 * i, 1, 3), (16 + 3 * i, 2, 65535)]))

/-! ### Invariants that every step keeps -/

/-- The queues, with the places R95, R104, R155, R184, R185, R196 and R197 give them, never hold more. -/
def Obligations.StepsKeepQueuesBounded : Prop :=
  ∀ s t : State, QueuesBounded s → step s = .next t → QueuesBounded t

/-- R4 to R11, R14, R17: every entry of the active and the staging images that is not EMPTY keeps fields in range, and
every head class that a valid active profile names stays valid in the active head class table. -/
def Obligations.StepsKeepTablesSound : Prop :=
  ∀ s t : State, TablesInRange s → ReferencesValid s → step s = .next t → TablesInRange t ∧ ReferencesValid t

/-- R31, R45, R47, R50, R64, R67, R74: in every passage the out count is at most the in count and the in count at most
1,023, the axle list holds 1 to 128 entries, every pace lies in 8,333 to 1,000,000 ns/mm; on every channel the carry is
below 1,000,000, travel at most 4,294,967,295, and a period in force lies in 5,000 to 2,000,000 ns. -/
def Obligations.StepsKeepMotionInRange : Prop :=
  ∀ s t : State, TablesInRange s → PassagesInRange s → ChannelsInRange s → step s = .next t →
    PassagesInRange t ∧ ChannelsInRange t

/-- R65, R66, R86: a RUNNING channel belongs to an ACTIVE track that its camera's site entry names, a STOPPED one has an
empty window list, and the channels of an ACTIVE track's cameras run until its first reversal. R55, R57, R76, R77: the
PENDING entries of a passage's window plan are those whose windows stand in its channels' lists. -/
def Obligations.StepsKeepTracksSound : Prop :=
  ∀ s t : State, TracksSound s → step s = .next t → TracksSound t ∧ (PlansSound s → PlansSound t)

/-- R22, R23, R205: only an active line has a pulse being qualified; while RSTN is low the Timestamp Counter stands at 0
and no stage takes a pulse. -/
def Obligations.StepsKeepClockAndLinesSound : Prop :=
  ∀ s t : State, ClockAndLinesSound s → step s = .next t → ClockAndLinesSound t

/-- R83, R160, R161, R169, R171, R174: each of the 512 segments stands once, in the free list or in one capture's chain,
and every chain is as long as its unsent rows need; captures in the table never share an id; the delivery queue holds
each COMPLETE or SENDING capture once, and at most its head is SENDING; every tagged entry and OPEN window names a
capture that waits for it; the frame store keeps its canonical form. -/
def Obligations.StepsKeepStoreSound : Prop :=
  ∀ s t : State, StoreSound s → StoreInRange s → step s = .next t → StoreSound t ∧ StoreInRange t

/-- R108, R118, R120, R121, R123: an occupied slot has a conditioning record of its capture and a free one has none; a
capture holds the working set it was given, one of its camera's, and a held working set is that of a capture in the
table. -/
def Obligations.StepsKeepSlotsSound : Prop :=
  ∀ s t : State, StoreSound s → SlotsSound s → step s = .next t → SlotsSound t

/-- The machine after power-on meets every invariant of this file. -/
def Obligations.ResetMeetsInvariants : Prop :=
  QueuesBounded State.reset ∧ TablesInRange State.reset ∧ ReferencesValid State.reset ∧ PassagesInRange State.reset
    ∧ ChannelsInRange State.reset ∧ TracksSound State.reset ∧ PlansSound State.reset ∧ ClockAndLinesSound State.reset
    ∧ StoreSound State.reset ∧ StoreInRange State.reset ∧ SlotsSound State.reset
end

