-- ==== Sys2Proof/Laws/Bytes.lean ====
section
/-! SUPPORT. Numbers as bytes and back (R199): lengths, the number read from the bytes of a number, and the fields of a
record. -/

namespace Sys2Proof.Machine

@[simp] theorem beBytes_length (n v : Nat) : (beBytes n v).length = n := by
  induction n with
  | zero => rfl
  | succ n ih => simp [beBytes, ih]

/-- A fold over more bytes starts from the number read so far. -/
theorem beNat_foldl (bs : List Byte) (acc : Nat) :
    bs.foldl (fun acc b => 256 * acc + b.toNat) acc = acc * 256 ^ bs.length + beNat bs := by
  unfold beNat
  induction bs generalizing acc with
  | nil => simp
  | cons b rest ih =>
    simp only [List.foldl_cons, List.length_cons]
    rw [ih, ih (256 * 0 + b.toNat)]
    ring

/-- The first byte carries the greatest weight. -/
theorem beNat_cons (b : Byte) (bs : List Byte) : beNat (b :: bs) = b.toNat * 256 ^ bs.length + beNat bs := by
  show (bs.foldl (fun acc b => 256 * acc + b.toNat) (256 * 0 + b.toNat)) = _
  rw [beNat_foldl]
  ring

theorem beNat_append (as bs : List Byte) : beNat (as ++ bs) = beNat as * 256 ^ bs.length + beNat bs := by
  show (as ++ bs).foldl _ 0 = _
  rw [List.foldl_append, beNat_foldl]
  rfl

/-- The bytes of a number read back as the number modulo their range. -/
theorem beNat_beBytes (n v : Nat) : beNat (beBytes n v) = v % 256 ^ n := by
  induction n with
  | zero => simp [beBytes, beNat, Nat.mod_one]
  | succ n ih =>
    have split : v % 256 ^ (n + 1) = v % 256 ^ n + 256 ^ n * (v / 256 ^ n % 256) := by
      rw [pow_succ, Nat.mod_mul]
    rw [beBytes, beNat_cons, ih, beBytes_length, BitVec.toNat_ofNat, split]
    ring

/-- A number that fits its bytes is read from the front of any bytes that begin with them. -/
theorem takeNum_beBytes (n v : Nat) (rest : List Byte) (h : v < 256 ^ n) :
    takeNum n (beBytes n v ++ rest) = some (v, rest) := by
  unfold takeNum
  rw [if_neg (by simp), List.take_left' (beBytes_length n v), List.drop_left' (beBytes_length n v), beNat_beBytes,
    Nat.mod_eq_of_lt h]

/-- A number below its range is below the weight of its bytes. -/
theorem beNat_lt (bs : List Byte) : beNat bs < 256 ^ bs.length := by
  induction bs with
  | nil => simp [beNat]
  | cons b rest ih =>
    rw [beNat_cons, List.length_cons, pow_succ]
    have := b.isLt
    nlinarith [Nat.pos_of_ne_zero (pow_ne_zero rest.length (by decide : (256 : Nat) ≠ 0))]

/-- A field at the front of the bytes, written as a number of its width. -/
theorem fieldAt_here (width v : Nat) (rest : List Byte) : fieldAt (beBytes width v ++ rest) 0 width = v % 256 ^ width := by
  unfold fieldAt
  rw [List.drop_zero, List.take_left' (beBytes_length width v), beNat_beBytes]

/-- A field behind the first bytes. -/
theorem fieldAt_past (bytes rest : List Byte) (offset width : Nat) :
    fieldAt (bytes ++ rest) (bytes.length + offset) width = fieldAt rest offset width := by
  unfold fieldAt
  rw [← List.drop_drop, List.drop_left]

end Sys2Proof.Machine
end

