-- ==== Sys2Proof/Laws/State.lean ====
section
/-! SUPPORT. The fields of a state after each named update, one lemma per field per update, the items of an
updated vector, ordered lists, and operations in a free order. They let a proof go through an update without unfolding it. -/

namespace Sys2Proof.Machine

variable (s : State)

/-! ### Ordered lists -/

theorem insertBy_perm {α : Type} (before : α → α → Bool) (x : α) (l : List α) :
    (insertBy before x l).Perm (x :: l) := by
  induction l with
  | nil => exact .refl _
  | cons y rest ih =>
    unfold insertBy
    split
    · exact .refl _
    · exact (ih.cons y).trans (.swap x y rest)

/-- An ordered list holds what it held: each item as often. -/
theorem orderBy_perm {α : Type} (before : α → α → Bool) (l : List α) : (orderBy before l).Perm l := by
  induction l with
  | nil => exact .refl _
  | cons x rest ih => exact (insertBy_perm before x _).trans (ih.cons x)

@[simp] theorem mem_orderBy {α : Type} (before : α → α → Bool) (l : List α) (x : α) :
    x ∈ orderBy before l ↔ x ∈ l := (orderBy_perm before l).mem_iff

/-- An item put into a list leaves the others as they stood. -/
theorem insertBy_sublist {α : Type} (before : α → α → Bool) (x : α) (l : List α) : l.Sublist (insertBy before x l) := by
  induction l with
  | nil => exact List.nil_sublist _
  | cons y rest ih =>
    unfold insertBy
    split
    · exact List.sublist_cons_self x _
    · exact ih.cons_cons y

/-- An item put into a list stands ahead of every item it goes before. -/
theorem insertBy_ahead {α : Type} {before : α → α → Bool} {x y : α} {l : List α} (h : before x y = true) (hy : y ∈ l) :
    [x, y].Sublist (insertBy before x l) := by
  induction l with
  | nil => cases hy
  | cons z rest ih =>
    unfold insertBy
    split
    · exact (List.singleton_sublist.mpr hy).cons_cons x
    · rename_i hz
      rcases List.mem_cons.mp hy with e | hy
      · subst e; exact absurd h hz
      · exact (ih hy).cons z

/-- Of two items of a list, the one that goes before the other and stands ahead of it comes first. -/
theorem orderBy_ahead {α : Type} {before : α → α → Bool} {x y : α} {l : List α} (h : before x y = true)
    (hl : [x, y].Sublist l) : [x, y].Sublist (orderBy before l) := by
  induction l with
  | nil => cases hl
  | cons z rest ih =>
    unfold orderBy
    rcases List.sublist_cons_iff.mp hl with hl | ⟨r, e, hl⟩
    · exact (ih hl).trans (insertBy_sublist ..)
    · cases e
      exact insertBy_ahead h ((mem_orderBy ..).mpr (List.singleton_sublist.mp hl))

@[simp] theorem State.chosen_freeIndex (n : Nat) : (s.chosen n).freeIndex = s.freeIndex + (n - 1) := rfl
@[simp] theorem State.chosen_one : s.chosen 1 = s := rfl
@[simp] theorem State.chosen_none : s.chosen 0 = s := rfl

/-- Operations in a free order: each item once, in some order, after the count of free choices has gone on; an item that
must come before another behind it does. -/
theorem inFreeOrder_spec {α : Type} (number : α → Nat) (must : α → α → Bool) (items : List α) (f : α → State → State)
    (s : State) : ∃ order : List α, order.Perm items
      ∧ (∀ x y, must x y = true → [x, y].Sublist items → [x, y].Sublist order)
      ∧ inFreeOrder number must items f s = order.foldl (fun s x => f x s) (s.chosen items.length) :=
  ⟨_, orderBy_perm _ _, fun x y h hl => orderBy_ahead (by rw [h]; rfl) hl, rfl⟩

/-- One item leaves no choice. -/
@[simp] theorem inFreeOrder_one {α : Type} (number : α → Nat) (must : α → α → Bool) (x : α) (f : α → State → State)
    (s : State) : inFreeOrder number must [x] f s = f x s := rfl

@[simp] theorem inFreeOrder_none {α : Type} (number : α → Nat) (must : α → α → Bool) (f : α → State → State) (s : State) :
    inFreeOrder number must [] f s = s := rfl

/-- What every operation keeps, from the state in which the order has been chosen, the whole chain keeps. -/
theorem inFreeOrder_induct {α : Type} {P : State → Prop} {number : α → Nat} {must : α → α → Bool} {items : List α}
    {f : α → State → State} {s : State} (start : P (s.chosen items.length)) (each : ∀ x u, P u → P (f x u)) :
    P (inFreeOrder number must items f s) := by
  have fold : ∀ (order : List α) (u : State), P u → P (order.foldl (fun s x => f x s) u) := by
    intro order
    induction order with
    | nil => exact fun _ h => h
    | cons x rest ih => exact fun u h => ih _ (each x u h)
  exact fold _ _ start

/-! ### Updated vectors -/

/-- The items of an updated vector, by position. -/
theorem upd_get {α : Type} {n : Nat} (v : Vector α n) (i j : Fin n) (f : α → α) :
    (upd v i f)[j] = if i = j then f v[j] else v[j] := by
  unfold upd
  by_cases h : i = j
  · subst h; simp
  · have h' : i.val ≠ j.val := fun e => h (Fin.ext e)
    simp [h, h', Vector.getElem_set]

/-- `upd_get` in the form `simp` brings an index to. -/
theorem upd_val {α : Type} {n : Nat} (v : Vector α n) (i j : Fin n) (f : α → α) :
    (upd v i f)[j.val] = if i = j then f v[j.val] else v[j.val] := upd_get v i j f

@[simp] theorem upd_val_same {α : Type} {n : Nat} (v : Vector α n) (i : Fin n) (f : α → α) :
    (upd v i f)[i.val] = f v[i.val] := by rw [upd_val, if_pos rfl]

theorem upd_get_same {α : Type} {n : Nat} (v : Vector α n) (i : Fin n) (f : α → α) :
    (upd v i f)[i] = f v[i] := upd_val_same v i f

theorem upd_get_other {α : Type} {n : Nat} (v : Vector α n) {i j : Fin n} (f : α → α) (h : i ≠ j) :
    (upd v i f)[j] = v[j] := by rw [upd_get, if_neg h]

/-- The item of a mapped vector at a position. -/
theorem map_get {α β : Type} {n : Nat} (v : Vector α n) (j : Fin n) (f : α → β) : (v.map f)[j] = f v[j] := by
  simp

/-- The item of a constant vector. -/
theorem replicate_get {α : Type} {n : Nat} (a : α) (j : Fin n) : (Vector.replicate n a)[j] = a := by simp


/-! ### modLine -/

@[simp] theorem State.modLine_rstnLow (i : Fin 8) (f : Line → Line) : (s.modLine i f).rstnLow = s.rstnLow := rfl
@[simp] theorem State.modLine_time (i : Fin 8) (f : Line → Line) : (s.modLine i f).time = s.time := rfl
@[simp] theorem State.modLine_subUs (i : Fin 8) (f : Line → Line) : (s.modLine i f).subUs = s.subUs := rfl
@[simp] theorem State.modLine_tables (i : Fin 8) (f : Line → Line) : (s.modLine i f).tables = s.tables := rfl
@[simp] theorem State.modLine_lines (i : Fin 8) (f : Line → Line) : (s.modLine i f).lines = upd s.lines i f := rfl
@[simp] theorem State.modLine_stations (i : Fin 8) (f : Line → Line) : (s.modLine i f).stations = s.stations := rfl
@[simp] theorem State.modLine_glitches (i : Fin 8) (f : Line → Line) : (s.modLine i f).glitches = s.glitches := rfl
@[simp] theorem State.modLine_unpaired (i : Fin 8) (f : Line → Line) : (s.modLine i f).unpaired = s.unpaired := rfl
@[simp] theorem State.modLine_tracks (i : Fin 8) (f : Line → Line) : (s.modLine i f).tracks = s.tracks := rfl
@[simp] theorem State.modLine_passageNumber (i : Fin 8) (f : Line → Line) :
    (s.modLine i f).passageNumber = s.passageNumber := rfl
@[simp] theorem State.modLine_channels (i : Fin 8) (f : Line → Line) : (s.modLine i f).channels = s.channels := rfl
@[simp] theorem State.modLine_captureIds (i : Fin 8) (f : Line → Line) :
    (s.modLine i f).captureIds = s.captureIds := rfl
@[simp] theorem State.modLine_ports (i : Fin 8) (f : Line → Line) : (s.modLine i f).ports = s.ports := rfl
@[simp] theorem State.modLine_condRecords (i : Fin 8) (f : Line → Line) :
    (s.modLine i f).condRecords = s.condRecords := rfl
@[simp] theorem State.modLine_workSets (i : Fin 8) (f : Line → Line) : (s.modLine i f).workSets = s.workSets := rfl
@[simp] theorem State.modLine_unprofiled (i : Fin 8) (f : Line → Line) :
    (s.modLine i f).unprofiled = s.unprofiled := rfl
@[simp] theorem State.modLine_store (i : Fin 8) (f : Line → Line) : (s.modLine i f).store = s.store := rfl
@[simp] theorem State.modLine_freeList (i : Fin 8) (f : Line → Line) : (s.modLine i f).freeList = s.freeList := rfl
@[simp] theorem State.modLine_slots (i : Fin 8) (f : Line → Line) : (s.modLine i f).slots = s.slots := rfl
@[simp] theorem State.modLine_delivery (i : Fin 8) (f : Line → Line) : (s.modLine i f).delivery = s.delivery := rfl
@[simp] theorem State.modLine_sender (i : Fin 8) (f : Line → Line) : (s.modLine i f).sender = s.sender := rfl
@[simp] theorem State.modLine_uplink (i : Fin 8) (f : Line → Line) : (s.modLine i f).uplink = s.uplink := rfl
@[simp] theorem State.modLine_freeIndex (i : Fin 8) (f : Line → Line) :
    (s.modLine i f).freeIndex = s.freeIndex := rfl
@[simp] theorem State.modLine_pending (i : Fin 8) (f : Line → Line) : (s.modLine i f).pending = s.pending := rfl

/-! ### setStation -/

@[simp] theorem State.setStation_rstnLow (i : Fin 4) (w : Option Wait) :
    (s.setStation i w).rstnLow = s.rstnLow := rfl
@[simp] theorem State.setStation_time (i : Fin 4) (w : Option Wait) : (s.setStation i w).time = s.time := rfl
@[simp] theorem State.setStation_subUs (i : Fin 4) (w : Option Wait) : (s.setStation i w).subUs = s.subUs := rfl
@[simp] theorem State.setStation_tables (i : Fin 4) (w : Option Wait) : (s.setStation i w).tables = s.tables := rfl
@[simp] theorem State.setStation_lines (i : Fin 4) (w : Option Wait) : (s.setStation i w).lines = s.lines := rfl
@[simp] theorem State.setStation_stations (i : Fin 4) (w : Option Wait) :
    (s.setStation i w).stations = upd s.stations i fun _ => w := rfl
@[simp] theorem State.setStation_glitches (i : Fin 4) (w : Option Wait) :
    (s.setStation i w).glitches = s.glitches := rfl
@[simp] theorem State.setStation_unpaired (i : Fin 4) (w : Option Wait) :
    (s.setStation i w).unpaired = s.unpaired := rfl
@[simp] theorem State.setStation_tracks (i : Fin 4) (w : Option Wait) : (s.setStation i w).tracks = s.tracks := rfl
@[simp] theorem State.setStation_passageNumber (i : Fin 4) (w : Option Wait) :
    (s.setStation i w).passageNumber = s.passageNumber := rfl
@[simp] theorem State.setStation_channels (i : Fin 4) (w : Option Wait) :
    (s.setStation i w).channels = s.channels := rfl
@[simp] theorem State.setStation_captureIds (i : Fin 4) (w : Option Wait) :
    (s.setStation i w).captureIds = s.captureIds := rfl
@[simp] theorem State.setStation_ports (i : Fin 4) (w : Option Wait) : (s.setStation i w).ports = s.ports := rfl
@[simp] theorem State.setStation_condRecords (i : Fin 4) (w : Option Wait) :
    (s.setStation i w).condRecords = s.condRecords := rfl
@[simp] theorem State.setStation_workSets (i : Fin 4) (w : Option Wait) :
    (s.setStation i w).workSets = s.workSets := rfl
@[simp] theorem State.setStation_unprofiled (i : Fin 4) (w : Option Wait) :
    (s.setStation i w).unprofiled = s.unprofiled := rfl
@[simp] theorem State.setStation_store (i : Fin 4) (w : Option Wait) : (s.setStation i w).store = s.store := rfl
@[simp] theorem State.setStation_freeList (i : Fin 4) (w : Option Wait) :
    (s.setStation i w).freeList = s.freeList := rfl
@[simp] theorem State.setStation_slots (i : Fin 4) (w : Option Wait) : (s.setStation i w).slots = s.slots := rfl
@[simp] theorem State.setStation_delivery (i : Fin 4) (w : Option Wait) :
    (s.setStation i w).delivery = s.delivery := rfl
@[simp] theorem State.setStation_sender (i : Fin 4) (w : Option Wait) : (s.setStation i w).sender = s.sender := rfl
@[simp] theorem State.setStation_uplink (i : Fin 4) (w : Option Wait) : (s.setStation i w).uplink = s.uplink := rfl
@[simp] theorem State.setStation_freeIndex (i : Fin 4) (w : Option Wait) :
    (s.setStation i w).freeIndex = s.freeIndex := rfl
@[simp] theorem State.setStation_pending (i : Fin 4) (w : Option Wait) :
    (s.setStation i w).pending = s.pending := rfl

/-! ### bumpGlitch -/

@[simp] theorem State.bumpGlitch_rstnLow (i : Fin 8) : (s.bumpGlitch i).rstnLow = s.rstnLow := rfl
@[simp] theorem State.bumpGlitch_time (i : Fin 8) : (s.bumpGlitch i).time = s.time := rfl
@[simp] theorem State.bumpGlitch_subUs (i : Fin 8) : (s.bumpGlitch i).subUs = s.subUs := rfl
@[simp] theorem State.bumpGlitch_tables (i : Fin 8) : (s.bumpGlitch i).tables = s.tables := rfl
@[simp] theorem State.bumpGlitch_lines (i : Fin 8) : (s.bumpGlitch i).lines = s.lines := rfl
@[simp] theorem State.bumpGlitch_stations (i : Fin 8) : (s.bumpGlitch i).stations = s.stations := rfl
@[simp] theorem State.bumpGlitch_glitches (i : Fin 8) : (s.bumpGlitch i).glitches = upd s.glitches i bump := rfl
@[simp] theorem State.bumpGlitch_unpaired (i : Fin 8) : (s.bumpGlitch i).unpaired = s.unpaired := rfl
@[simp] theorem State.bumpGlitch_tracks (i : Fin 8) : (s.bumpGlitch i).tracks = s.tracks := rfl
@[simp] theorem State.bumpGlitch_passageNumber (i : Fin 8) : (s.bumpGlitch i).passageNumber = s.passageNumber := rfl
@[simp] theorem State.bumpGlitch_channels (i : Fin 8) : (s.bumpGlitch i).channels = s.channels := rfl
@[simp] theorem State.bumpGlitch_captureIds (i : Fin 8) : (s.bumpGlitch i).captureIds = s.captureIds := rfl
@[simp] theorem State.bumpGlitch_ports (i : Fin 8) : (s.bumpGlitch i).ports = s.ports := rfl
@[simp] theorem State.bumpGlitch_condRecords (i : Fin 8) : (s.bumpGlitch i).condRecords = s.condRecords := rfl
@[simp] theorem State.bumpGlitch_workSets (i : Fin 8) : (s.bumpGlitch i).workSets = s.workSets := rfl
@[simp] theorem State.bumpGlitch_unprofiled (i : Fin 8) : (s.bumpGlitch i).unprofiled = s.unprofiled := rfl
@[simp] theorem State.bumpGlitch_store (i : Fin 8) : (s.bumpGlitch i).store = s.store := rfl
@[simp] theorem State.bumpGlitch_freeList (i : Fin 8) : (s.bumpGlitch i).freeList = s.freeList := rfl
@[simp] theorem State.bumpGlitch_slots (i : Fin 8) : (s.bumpGlitch i).slots = s.slots := rfl
@[simp] theorem State.bumpGlitch_delivery (i : Fin 8) : (s.bumpGlitch i).delivery = s.delivery := rfl
@[simp] theorem State.bumpGlitch_sender (i : Fin 8) : (s.bumpGlitch i).sender = s.sender := rfl
@[simp] theorem State.bumpGlitch_uplink (i : Fin 8) : (s.bumpGlitch i).uplink = s.uplink := rfl
@[simp] theorem State.bumpGlitch_freeIndex (i : Fin 8) : (s.bumpGlitch i).freeIndex = s.freeIndex := rfl
@[simp] theorem State.bumpGlitch_pending (i : Fin 8) : (s.bumpGlitch i).pending = s.pending := rfl

/-! ### bumpUnpaired -/

@[simp] theorem State.bumpUnpaired_rstnLow (i : Fin 4) : (s.bumpUnpaired i).rstnLow = s.rstnLow := rfl
@[simp] theorem State.bumpUnpaired_time (i : Fin 4) : (s.bumpUnpaired i).time = s.time := rfl
@[simp] theorem State.bumpUnpaired_subUs (i : Fin 4) : (s.bumpUnpaired i).subUs = s.subUs := rfl
@[simp] theorem State.bumpUnpaired_tables (i : Fin 4) : (s.bumpUnpaired i).tables = s.tables := rfl
@[simp] theorem State.bumpUnpaired_lines (i : Fin 4) : (s.bumpUnpaired i).lines = s.lines := rfl
@[simp] theorem State.bumpUnpaired_stations (i : Fin 4) : (s.bumpUnpaired i).stations = s.stations := rfl
@[simp] theorem State.bumpUnpaired_glitches (i : Fin 4) : (s.bumpUnpaired i).glitches = s.glitches := rfl
@[simp] theorem State.bumpUnpaired_unpaired (i : Fin 4) : (s.bumpUnpaired i).unpaired = upd s.unpaired i bump := rfl
@[simp] theorem State.bumpUnpaired_tracks (i : Fin 4) : (s.bumpUnpaired i).tracks = s.tracks := rfl
@[simp] theorem State.bumpUnpaired_passageNumber (i : Fin 4) :
    (s.bumpUnpaired i).passageNumber = s.passageNumber := rfl
@[simp] theorem State.bumpUnpaired_channels (i : Fin 4) : (s.bumpUnpaired i).channels = s.channels := rfl
@[simp] theorem State.bumpUnpaired_captureIds (i : Fin 4) : (s.bumpUnpaired i).captureIds = s.captureIds := rfl
@[simp] theorem State.bumpUnpaired_ports (i : Fin 4) : (s.bumpUnpaired i).ports = s.ports := rfl
@[simp] theorem State.bumpUnpaired_condRecords (i : Fin 4) : (s.bumpUnpaired i).condRecords = s.condRecords := rfl
@[simp] theorem State.bumpUnpaired_workSets (i : Fin 4) : (s.bumpUnpaired i).workSets = s.workSets := rfl
@[simp] theorem State.bumpUnpaired_unprofiled (i : Fin 4) : (s.bumpUnpaired i).unprofiled = s.unprofiled := rfl
@[simp] theorem State.bumpUnpaired_store (i : Fin 4) : (s.bumpUnpaired i).store = s.store := rfl
@[simp] theorem State.bumpUnpaired_freeList (i : Fin 4) : (s.bumpUnpaired i).freeList = s.freeList := rfl
@[simp] theorem State.bumpUnpaired_slots (i : Fin 4) : (s.bumpUnpaired i).slots = s.slots := rfl
@[simp] theorem State.bumpUnpaired_delivery (i : Fin 4) : (s.bumpUnpaired i).delivery = s.delivery := rfl
@[simp] theorem State.bumpUnpaired_sender (i : Fin 4) : (s.bumpUnpaired i).sender = s.sender := rfl
@[simp] theorem State.bumpUnpaired_uplink (i : Fin 4) : (s.bumpUnpaired i).uplink = s.uplink := rfl
@[simp] theorem State.bumpUnpaired_freeIndex (i : Fin 4) : (s.bumpUnpaired i).freeIndex = s.freeIndex := rfl
@[simp] theorem State.bumpUnpaired_pending (i : Fin 4) : (s.bumpUnpaired i).pending = s.pending := rfl

/-! ### modTrack -/

@[simp] theorem State.modTrack_rstnLow (t : Track) (f : TrackRec → TrackRec) :
    (s.modTrack t f).rstnLow = s.rstnLow := rfl
@[simp] theorem State.modTrack_time (t : Track) (f : TrackRec → TrackRec) : (s.modTrack t f).time = s.time := rfl
@[simp] theorem State.modTrack_subUs (t : Track) (f : TrackRec → TrackRec) : (s.modTrack t f).subUs = s.subUs := rfl
@[simp] theorem State.modTrack_tables (t : Track) (f : TrackRec → TrackRec) :
    (s.modTrack t f).tables = s.tables := rfl
@[simp] theorem State.modTrack_lines (t : Track) (f : TrackRec → TrackRec) : (s.modTrack t f).lines = s.lines := rfl
@[simp] theorem State.modTrack_stations (t : Track) (f : TrackRec → TrackRec) :
    (s.modTrack t f).stations = s.stations := rfl
@[simp] theorem State.modTrack_glitches (t : Track) (f : TrackRec → TrackRec) :
    (s.modTrack t f).glitches = s.glitches := rfl
@[simp] theorem State.modTrack_unpaired (t : Track) (f : TrackRec → TrackRec) :
    (s.modTrack t f).unpaired = s.unpaired := rfl
@[simp] theorem State.modTrack_tracks (t : Track) (f : TrackRec → TrackRec) :
    (s.modTrack t f).tracks = upd s.tracks (trackIndex t) f := rfl
@[simp] theorem State.modTrack_passageNumber (t : Track) (f : TrackRec → TrackRec) :
    (s.modTrack t f).passageNumber = s.passageNumber := rfl
@[simp] theorem State.modTrack_channels (t : Track) (f : TrackRec → TrackRec) :
    (s.modTrack t f).channels = s.channels := rfl
@[simp] theorem State.modTrack_captureIds (t : Track) (f : TrackRec → TrackRec) :
    (s.modTrack t f).captureIds = s.captureIds := rfl
@[simp] theorem State.modTrack_ports (t : Track) (f : TrackRec → TrackRec) : (s.modTrack t f).ports = s.ports := rfl
@[simp] theorem State.modTrack_condRecords (t : Track) (f : TrackRec → TrackRec) :
    (s.modTrack t f).condRecords = s.condRecords := rfl
@[simp] theorem State.modTrack_workSets (t : Track) (f : TrackRec → TrackRec) :
    (s.modTrack t f).workSets = s.workSets := rfl
@[simp] theorem State.modTrack_unprofiled (t : Track) (f : TrackRec → TrackRec) :
    (s.modTrack t f).unprofiled = s.unprofiled := rfl
@[simp] theorem State.modTrack_store (t : Track) (f : TrackRec → TrackRec) : (s.modTrack t f).store = s.store := rfl
@[simp] theorem State.modTrack_freeList (t : Track) (f : TrackRec → TrackRec) :
    (s.modTrack t f).freeList = s.freeList := rfl
@[simp] theorem State.modTrack_slots (t : Track) (f : TrackRec → TrackRec) : (s.modTrack t f).slots = s.slots := rfl
@[simp] theorem State.modTrack_delivery (t : Track) (f : TrackRec → TrackRec) :
    (s.modTrack t f).delivery = s.delivery := rfl
@[simp] theorem State.modTrack_sender (t : Track) (f : TrackRec → TrackRec) :
    (s.modTrack t f).sender = s.sender := rfl
@[simp] theorem State.modTrack_uplink (t : Track) (f : TrackRec → TrackRec) :
    (s.modTrack t f).uplink = s.uplink := rfl
@[simp] theorem State.modTrack_freeIndex (t : Track) (f : TrackRec → TrackRec) :
    (s.modTrack t f).freeIndex = s.freeIndex := rfl
@[simp] theorem State.modTrack_pending (t : Track) (f : TrackRec → TrackRec) :
    (s.modTrack t f).pending = s.pending := rfl

/-! ### setPassage -/

@[simp] theorem State.setPassage_rstnLow (t : Track) (p : Passage) : (s.setPassage t p).rstnLow = s.rstnLow := rfl
@[simp] theorem State.setPassage_time (t : Track) (p : Passage) : (s.setPassage t p).time = s.time := rfl
@[simp] theorem State.setPassage_subUs (t : Track) (p : Passage) : (s.setPassage t p).subUs = s.subUs := rfl
@[simp] theorem State.setPassage_tables (t : Track) (p : Passage) : (s.setPassage t p).tables = s.tables := rfl
@[simp] theorem State.setPassage_lines (t : Track) (p : Passage) : (s.setPassage t p).lines = s.lines := rfl
@[simp] theorem State.setPassage_stations (t : Track) (p : Passage) :
    (s.setPassage t p).stations = s.stations := rfl
@[simp] theorem State.setPassage_glitches (t : Track) (p : Passage) :
    (s.setPassage t p).glitches = s.glitches := rfl
@[simp] theorem State.setPassage_unpaired (t : Track) (p : Passage) :
    (s.setPassage t p).unpaired = s.unpaired := rfl
@[simp] theorem State.setPassage_tracks (t : Track) (p : Passage) :
    (s.setPassage t p).tracks = upd s.tracks (trackIndex t) fun r => { r with state := .active p } := rfl
@[simp] theorem State.setPassage_passageNumber (t : Track) (p : Passage) :
    (s.setPassage t p).passageNumber = s.passageNumber := rfl
@[simp] theorem State.setPassage_channels (t : Track) (p : Passage) :
    (s.setPassage t p).channels = s.channels := rfl
@[simp] theorem State.setPassage_captureIds (t : Track) (p : Passage) :
    (s.setPassage t p).captureIds = s.captureIds := rfl
@[simp] theorem State.setPassage_ports (t : Track) (p : Passage) : (s.setPassage t p).ports = s.ports := rfl
@[simp] theorem State.setPassage_condRecords (t : Track) (p : Passage) :
    (s.setPassage t p).condRecords = s.condRecords := rfl
@[simp] theorem State.setPassage_workSets (t : Track) (p : Passage) :
    (s.setPassage t p).workSets = s.workSets := rfl
@[simp] theorem State.setPassage_unprofiled (t : Track) (p : Passage) :
    (s.setPassage t p).unprofiled = s.unprofiled := rfl
@[simp] theorem State.setPassage_store (t : Track) (p : Passage) : (s.setPassage t p).store = s.store := rfl
@[simp] theorem State.setPassage_freeList (t : Track) (p : Passage) :
    (s.setPassage t p).freeList = s.freeList := rfl
@[simp] theorem State.setPassage_slots (t : Track) (p : Passage) : (s.setPassage t p).slots = s.slots := rfl
@[simp] theorem State.setPassage_delivery (t : Track) (p : Passage) :
    (s.setPassage t p).delivery = s.delivery := rfl
@[simp] theorem State.setPassage_sender (t : Track) (p : Passage) : (s.setPassage t p).sender = s.sender := rfl
@[simp] theorem State.setPassage_uplink (t : Track) (p : Passage) : (s.setPassage t p).uplink = s.uplink := rfl
@[simp] theorem State.setPassage_freeIndex (t : Track) (p : Passage) :
    (s.setPassage t p).freeIndex = s.freeIndex := rfl
@[simp] theorem State.setPassage_pending (t : Track) (p : Passage) : (s.setPassage t p).pending = s.pending := rfl

/-! ### modChannel -/

@[simp] theorem State.modChannel_rstnLow (c : Fin 4) (f : Channel → Channel) :
    (s.modChannel c f).rstnLow = s.rstnLow := rfl
@[simp] theorem State.modChannel_time (c : Fin 4) (f : Channel → Channel) : (s.modChannel c f).time = s.time := rfl
@[simp] theorem State.modChannel_subUs (c : Fin 4) (f : Channel → Channel) :
    (s.modChannel c f).subUs = s.subUs := rfl
@[simp] theorem State.modChannel_tables (c : Fin 4) (f : Channel → Channel) :
    (s.modChannel c f).tables = s.tables := rfl
@[simp] theorem State.modChannel_lines (c : Fin 4) (f : Channel → Channel) :
    (s.modChannel c f).lines = s.lines := rfl
@[simp] theorem State.modChannel_stations (c : Fin 4) (f : Channel → Channel) :
    (s.modChannel c f).stations = s.stations := rfl
@[simp] theorem State.modChannel_glitches (c : Fin 4) (f : Channel → Channel) :
    (s.modChannel c f).glitches = s.glitches := rfl
@[simp] theorem State.modChannel_unpaired (c : Fin 4) (f : Channel → Channel) :
    (s.modChannel c f).unpaired = s.unpaired := rfl
@[simp] theorem State.modChannel_tracks (c : Fin 4) (f : Channel → Channel) :
    (s.modChannel c f).tracks = s.tracks := rfl
@[simp] theorem State.modChannel_passageNumber (c : Fin 4) (f : Channel → Channel) :
    (s.modChannel c f).passageNumber = s.passageNumber := rfl
@[simp] theorem State.modChannel_channels (c : Fin 4) (f : Channel → Channel) :
    (s.modChannel c f).channels = upd s.channels c f := rfl
@[simp] theorem State.modChannel_captureIds (c : Fin 4) (f : Channel → Channel) :
    (s.modChannel c f).captureIds = s.captureIds := rfl
@[simp] theorem State.modChannel_ports (c : Fin 4) (f : Channel → Channel) :
    (s.modChannel c f).ports = s.ports := rfl
@[simp] theorem State.modChannel_condRecords (c : Fin 4) (f : Channel → Channel) :
    (s.modChannel c f).condRecords = s.condRecords := rfl
@[simp] theorem State.modChannel_workSets (c : Fin 4) (f : Channel → Channel) :
    (s.modChannel c f).workSets = s.workSets := rfl
@[simp] theorem State.modChannel_unprofiled (c : Fin 4) (f : Channel → Channel) :
    (s.modChannel c f).unprofiled = s.unprofiled := rfl
@[simp] theorem State.modChannel_store (c : Fin 4) (f : Channel → Channel) :
    (s.modChannel c f).store = s.store := rfl
@[simp] theorem State.modChannel_freeList (c : Fin 4) (f : Channel → Channel) :
    (s.modChannel c f).freeList = s.freeList := rfl
@[simp] theorem State.modChannel_slots (c : Fin 4) (f : Channel → Channel) :
    (s.modChannel c f).slots = s.slots := rfl
@[simp] theorem State.modChannel_delivery (c : Fin 4) (f : Channel → Channel) :
    (s.modChannel c f).delivery = s.delivery := rfl
@[simp] theorem State.modChannel_sender (c : Fin 4) (f : Channel → Channel) :
    (s.modChannel c f).sender = s.sender := rfl
@[simp] theorem State.modChannel_uplink (c : Fin 4) (f : Channel → Channel) :
    (s.modChannel c f).uplink = s.uplink := rfl
@[simp] theorem State.modChannel_freeIndex (c : Fin 4) (f : Channel → Channel) :
    (s.modChannel c f).freeIndex = s.freeIndex := rfl
@[simp] theorem State.modChannel_pending (c : Fin 4) (f : Channel → Channel) :
    (s.modChannel c f).pending = s.pending := rfl

/-! ### modPort -/

@[simp] theorem State.modPort_rstnLow (c : Fin 4) (f : Port → Port) : (s.modPort c f).rstnLow = s.rstnLow := rfl
@[simp] theorem State.modPort_time (c : Fin 4) (f : Port → Port) : (s.modPort c f).time = s.time := rfl
@[simp] theorem State.modPort_subUs (c : Fin 4) (f : Port → Port) : (s.modPort c f).subUs = s.subUs := rfl
@[simp] theorem State.modPort_tables (c : Fin 4) (f : Port → Port) : (s.modPort c f).tables = s.tables := rfl
@[simp] theorem State.modPort_lines (c : Fin 4) (f : Port → Port) : (s.modPort c f).lines = s.lines := rfl
@[simp] theorem State.modPort_stations (c : Fin 4) (f : Port → Port) : (s.modPort c f).stations = s.stations := rfl
@[simp] theorem State.modPort_glitches (c : Fin 4) (f : Port → Port) : (s.modPort c f).glitches = s.glitches := rfl
@[simp] theorem State.modPort_unpaired (c : Fin 4) (f : Port → Port) : (s.modPort c f).unpaired = s.unpaired := rfl
@[simp] theorem State.modPort_tracks (c : Fin 4) (f : Port → Port) : (s.modPort c f).tracks = s.tracks := rfl
@[simp] theorem State.modPort_passageNumber (c : Fin 4) (f : Port → Port) :
    (s.modPort c f).passageNumber = s.passageNumber := rfl
@[simp] theorem State.modPort_channels (c : Fin 4) (f : Port → Port) : (s.modPort c f).channels = s.channels := rfl
@[simp] theorem State.modPort_captureIds (c : Fin 4) (f : Port → Port) :
    (s.modPort c f).captureIds = s.captureIds := rfl
@[simp] theorem State.modPort_ports (c : Fin 4) (f : Port → Port) : (s.modPort c f).ports = upd s.ports c f := rfl
@[simp] theorem State.modPort_condRecords (c : Fin 4) (f : Port → Port) :
    (s.modPort c f).condRecords = s.condRecords := rfl
@[simp] theorem State.modPort_workSets (c : Fin 4) (f : Port → Port) : (s.modPort c f).workSets = s.workSets := rfl
@[simp] theorem State.modPort_unprofiled (c : Fin 4) (f : Port → Port) :
    (s.modPort c f).unprofiled = s.unprofiled := rfl
@[simp] theorem State.modPort_store (c : Fin 4) (f : Port → Port) : (s.modPort c f).store = s.store := rfl
@[simp] theorem State.modPort_freeList (c : Fin 4) (f : Port → Port) : (s.modPort c f).freeList = s.freeList := rfl
@[simp] theorem State.modPort_slots (c : Fin 4) (f : Port → Port) : (s.modPort c f).slots = s.slots := rfl
@[simp] theorem State.modPort_delivery (c : Fin 4) (f : Port → Port) : (s.modPort c f).delivery = s.delivery := rfl
@[simp] theorem State.modPort_sender (c : Fin 4) (f : Port → Port) : (s.modPort c f).sender = s.sender := rfl
@[simp] theorem State.modPort_uplink (c : Fin 4) (f : Port → Port) : (s.modPort c f).uplink = s.uplink := rfl
@[simp] theorem State.modPort_freeIndex (c : Fin 4) (f : Port → Port) :
    (s.modPort c f).freeIndex = s.freeIndex := rfl
@[simp] theorem State.modPort_pending (c : Fin 4) (f : Port → Port) : (s.modPort c f).pending = s.pending := rfl

/-! ### setCondRecord -/

@[simp] theorem State.setCondRecord_rstnLow (k : Fin 32) (r : Option CondRecord) :
    (s.setCondRecord k r).rstnLow = s.rstnLow := rfl
@[simp] theorem State.setCondRecord_time (k : Fin 32) (r : Option CondRecord) :
    (s.setCondRecord k r).time = s.time := rfl
@[simp] theorem State.setCondRecord_subUs (k : Fin 32) (r : Option CondRecord) :
    (s.setCondRecord k r).subUs = s.subUs := rfl
@[simp] theorem State.setCondRecord_tables (k : Fin 32) (r : Option CondRecord) :
    (s.setCondRecord k r).tables = s.tables := rfl
@[simp] theorem State.setCondRecord_lines (k : Fin 32) (r : Option CondRecord) :
    (s.setCondRecord k r).lines = s.lines := rfl
@[simp] theorem State.setCondRecord_stations (k : Fin 32) (r : Option CondRecord) :
    (s.setCondRecord k r).stations = s.stations := rfl
@[simp] theorem State.setCondRecord_glitches (k : Fin 32) (r : Option CondRecord) :
    (s.setCondRecord k r).glitches = s.glitches := rfl
@[simp] theorem State.setCondRecord_unpaired (k : Fin 32) (r : Option CondRecord) :
    (s.setCondRecord k r).unpaired = s.unpaired := rfl
@[simp] theorem State.setCondRecord_tracks (k : Fin 32) (r : Option CondRecord) :
    (s.setCondRecord k r).tracks = s.tracks := rfl
@[simp] theorem State.setCondRecord_passageNumber (k : Fin 32) (r : Option CondRecord) :
    (s.setCondRecord k r).passageNumber = s.passageNumber := rfl
@[simp] theorem State.setCondRecord_channels (k : Fin 32) (r : Option CondRecord) :
    (s.setCondRecord k r).channels = s.channels := rfl
@[simp] theorem State.setCondRecord_captureIds (k : Fin 32) (r : Option CondRecord) :
    (s.setCondRecord k r).captureIds = s.captureIds := rfl
@[simp] theorem State.setCondRecord_ports (k : Fin 32) (r : Option CondRecord) :
    (s.setCondRecord k r).ports = s.ports := rfl
@[simp] theorem State.setCondRecord_condRecords (k : Fin 32) (r : Option CondRecord) :
    (s.setCondRecord k r).condRecords = upd s.condRecords k fun _ => r := rfl
@[simp] theorem State.setCondRecord_workSets (k : Fin 32) (r : Option CondRecord) :
    (s.setCondRecord k r).workSets = s.workSets := rfl
@[simp] theorem State.setCondRecord_unprofiled (k : Fin 32) (r : Option CondRecord) :
    (s.setCondRecord k r).unprofiled = s.unprofiled := rfl
@[simp] theorem State.setCondRecord_store (k : Fin 32) (r : Option CondRecord) :
    (s.setCondRecord k r).store = s.store := rfl
@[simp] theorem State.setCondRecord_freeList (k : Fin 32) (r : Option CondRecord) :
    (s.setCondRecord k r).freeList = s.freeList := rfl
@[simp] theorem State.setCondRecord_slots (k : Fin 32) (r : Option CondRecord) :
    (s.setCondRecord k r).slots = s.slots := rfl
@[simp] theorem State.setCondRecord_delivery (k : Fin 32) (r : Option CondRecord) :
    (s.setCondRecord k r).delivery = s.delivery := rfl
@[simp] theorem State.setCondRecord_sender (k : Fin 32) (r : Option CondRecord) :
    (s.setCondRecord k r).sender = s.sender := rfl
@[simp] theorem State.setCondRecord_uplink (k : Fin 32) (r : Option CondRecord) :
    (s.setCondRecord k r).uplink = s.uplink := rfl
@[simp] theorem State.setCondRecord_freeIndex (k : Fin 32) (r : Option CondRecord) :
    (s.setCondRecord k r).freeIndex = s.freeIndex := rfl
@[simp] theorem State.setCondRecord_pending (k : Fin 32) (r : Option CondRecord) :
    (s.setCondRecord k r).pending = s.pending := rfl

/-! ### setWorkSet -/

@[simp] theorem State.setWorkSet_rstnLow (k : Fin 8) (w : Option WorkSet) :
    (s.setWorkSet k w).rstnLow = s.rstnLow := rfl
@[simp] theorem State.setWorkSet_time (k : Fin 8) (w : Option WorkSet) : (s.setWorkSet k w).time = s.time := rfl
@[simp] theorem State.setWorkSet_subUs (k : Fin 8) (w : Option WorkSet) : (s.setWorkSet k w).subUs = s.subUs := rfl
@[simp] theorem State.setWorkSet_tables (k : Fin 8) (w : Option WorkSet) :
    (s.setWorkSet k w).tables = s.tables := rfl
@[simp] theorem State.setWorkSet_lines (k : Fin 8) (w : Option WorkSet) : (s.setWorkSet k w).lines = s.lines := rfl
@[simp] theorem State.setWorkSet_stations (k : Fin 8) (w : Option WorkSet) :
    (s.setWorkSet k w).stations = s.stations := rfl
@[simp] theorem State.setWorkSet_glitches (k : Fin 8) (w : Option WorkSet) :
    (s.setWorkSet k w).glitches = s.glitches := rfl
@[simp] theorem State.setWorkSet_unpaired (k : Fin 8) (w : Option WorkSet) :
    (s.setWorkSet k w).unpaired = s.unpaired := rfl
@[simp] theorem State.setWorkSet_tracks (k : Fin 8) (w : Option WorkSet) :
    (s.setWorkSet k w).tracks = s.tracks := rfl
@[simp] theorem State.setWorkSet_passageNumber (k : Fin 8) (w : Option WorkSet) :
    (s.setWorkSet k w).passageNumber = s.passageNumber := rfl
@[simp] theorem State.setWorkSet_channels (k : Fin 8) (w : Option WorkSet) :
    (s.setWorkSet k w).channels = s.channels := rfl
@[simp] theorem State.setWorkSet_captureIds (k : Fin 8) (w : Option WorkSet) :
    (s.setWorkSet k w).captureIds = s.captureIds := rfl
@[simp] theorem State.setWorkSet_ports (k : Fin 8) (w : Option WorkSet) : (s.setWorkSet k w).ports = s.ports := rfl
@[simp] theorem State.setWorkSet_condRecords (k : Fin 8) (w : Option WorkSet) :
    (s.setWorkSet k w).condRecords = s.condRecords := rfl
@[simp] theorem State.setWorkSet_workSets (k : Fin 8) (w : Option WorkSet) :
    (s.setWorkSet k w).workSets = upd s.workSets k fun _ => w := rfl
@[simp] theorem State.setWorkSet_unprofiled (k : Fin 8) (w : Option WorkSet) :
    (s.setWorkSet k w).unprofiled = s.unprofiled := rfl
@[simp] theorem State.setWorkSet_store (k : Fin 8) (w : Option WorkSet) : (s.setWorkSet k w).store = s.store := rfl
@[simp] theorem State.setWorkSet_freeList (k : Fin 8) (w : Option WorkSet) :
    (s.setWorkSet k w).freeList = s.freeList := rfl
@[simp] theorem State.setWorkSet_slots (k : Fin 8) (w : Option WorkSet) : (s.setWorkSet k w).slots = s.slots := rfl
@[simp] theorem State.setWorkSet_delivery (k : Fin 8) (w : Option WorkSet) :
    (s.setWorkSet k w).delivery = s.delivery := rfl
@[simp] theorem State.setWorkSet_sender (k : Fin 8) (w : Option WorkSet) :
    (s.setWorkSet k w).sender = s.sender := rfl
@[simp] theorem State.setWorkSet_uplink (k : Fin 8) (w : Option WorkSet) :
    (s.setWorkSet k w).uplink = s.uplink := rfl
@[simp] theorem State.setWorkSet_freeIndex (k : Fin 8) (w : Option WorkSet) :
    (s.setWorkSet k w).freeIndex = s.freeIndex := rfl
@[simp] theorem State.setWorkSet_pending (k : Fin 8) (w : Option WorkSet) :
    (s.setWorkSet k w).pending = s.pending := rfl

/-! ### setSlot -/

@[simp] theorem State.setSlot_rstnLow (k : Fin 32) (c : Option Capture) : (s.setSlot k c).rstnLow = s.rstnLow := rfl
@[simp] theorem State.setSlot_time (k : Fin 32) (c : Option Capture) : (s.setSlot k c).time = s.time := rfl
@[simp] theorem State.setSlot_subUs (k : Fin 32) (c : Option Capture) : (s.setSlot k c).subUs = s.subUs := rfl
@[simp] theorem State.setSlot_tables (k : Fin 32) (c : Option Capture) : (s.setSlot k c).tables = s.tables := rfl
@[simp] theorem State.setSlot_lines (k : Fin 32) (c : Option Capture) : (s.setSlot k c).lines = s.lines := rfl
@[simp] theorem State.setSlot_stations (k : Fin 32) (c : Option Capture) :
    (s.setSlot k c).stations = s.stations := rfl
@[simp] theorem State.setSlot_glitches (k : Fin 32) (c : Option Capture) :
    (s.setSlot k c).glitches = s.glitches := rfl
@[simp] theorem State.setSlot_unpaired (k : Fin 32) (c : Option Capture) :
    (s.setSlot k c).unpaired = s.unpaired := rfl
@[simp] theorem State.setSlot_tracks (k : Fin 32) (c : Option Capture) : (s.setSlot k c).tracks = s.tracks := rfl
@[simp] theorem State.setSlot_passageNumber (k : Fin 32) (c : Option Capture) :
    (s.setSlot k c).passageNumber = s.passageNumber := rfl
@[simp] theorem State.setSlot_channels (k : Fin 32) (c : Option Capture) :
    (s.setSlot k c).channels = s.channels := rfl
@[simp] theorem State.setSlot_captureIds (k : Fin 32) (c : Option Capture) :
    (s.setSlot k c).captureIds = s.captureIds := rfl
@[simp] theorem State.setSlot_ports (k : Fin 32) (c : Option Capture) : (s.setSlot k c).ports = s.ports := rfl
@[simp] theorem State.setSlot_condRecords (k : Fin 32) (c : Option Capture) :
    (s.setSlot k c).condRecords = s.condRecords := rfl
@[simp] theorem State.setSlot_workSets (k : Fin 32) (c : Option Capture) :
    (s.setSlot k c).workSets = s.workSets := rfl
@[simp] theorem State.setSlot_unprofiled (k : Fin 32) (c : Option Capture) :
    (s.setSlot k c).unprofiled = s.unprofiled := rfl
@[simp] theorem State.setSlot_store (k : Fin 32) (c : Option Capture) : (s.setSlot k c).store = s.store := rfl
@[simp] theorem State.setSlot_freeList (k : Fin 32) (c : Option Capture) :
    (s.setSlot k c).freeList = s.freeList := rfl
@[simp] theorem State.setSlot_slots (k : Fin 32) (c : Option Capture) :
    (s.setSlot k c).slots = upd s.slots k fun _ => c := rfl
@[simp] theorem State.setSlot_delivery (k : Fin 32) (c : Option Capture) :
    (s.setSlot k c).delivery = s.delivery := rfl
@[simp] theorem State.setSlot_sender (k : Fin 32) (c : Option Capture) : (s.setSlot k c).sender = s.sender := rfl
@[simp] theorem State.setSlot_uplink (k : Fin 32) (c : Option Capture) : (s.setSlot k c).uplink = s.uplink := rfl
@[simp] theorem State.setSlot_freeIndex (k : Fin 32) (c : Option Capture) :
    (s.setSlot k c).freeIndex = s.freeIndex := rfl
@[simp] theorem State.setSlot_pending (k : Fin 32) (c : Option Capture) : (s.setSlot k c).pending = s.pending := rfl

/-! ### modSlot -/

@[simp] theorem State.modSlot_rstnLow (k : Fin 32) (f : Capture → Capture) :
    (s.modSlot k f).rstnLow = s.rstnLow := rfl
@[simp] theorem State.modSlot_time (k : Fin 32) (f : Capture → Capture) : (s.modSlot k f).time = s.time := rfl
@[simp] theorem State.modSlot_subUs (k : Fin 32) (f : Capture → Capture) : (s.modSlot k f).subUs = s.subUs := rfl
@[simp] theorem State.modSlot_tables (k : Fin 32) (f : Capture → Capture) : (s.modSlot k f).tables = s.tables := rfl
@[simp] theorem State.modSlot_lines (k : Fin 32) (f : Capture → Capture) : (s.modSlot k f).lines = s.lines := rfl
@[simp] theorem State.modSlot_stations (k : Fin 32) (f : Capture → Capture) :
    (s.modSlot k f).stations = s.stations := rfl
@[simp] theorem State.modSlot_glitches (k : Fin 32) (f : Capture → Capture) :
    (s.modSlot k f).glitches = s.glitches := rfl
@[simp] theorem State.modSlot_unpaired (k : Fin 32) (f : Capture → Capture) :
    (s.modSlot k f).unpaired = s.unpaired := rfl
@[simp] theorem State.modSlot_tracks (k : Fin 32) (f : Capture → Capture) : (s.modSlot k f).tracks = s.tracks := rfl
@[simp] theorem State.modSlot_passageNumber (k : Fin 32) (f : Capture → Capture) :
    (s.modSlot k f).passageNumber = s.passageNumber := rfl
@[simp] theorem State.modSlot_channels (k : Fin 32) (f : Capture → Capture) :
    (s.modSlot k f).channels = s.channels := rfl
@[simp] theorem State.modSlot_captureIds (k : Fin 32) (f : Capture → Capture) :
    (s.modSlot k f).captureIds = s.captureIds := rfl
@[simp] theorem State.modSlot_ports (k : Fin 32) (f : Capture → Capture) : (s.modSlot k f).ports = s.ports := rfl
@[simp] theorem State.modSlot_condRecords (k : Fin 32) (f : Capture → Capture) :
    (s.modSlot k f).condRecords = s.condRecords := rfl
@[simp] theorem State.modSlot_workSets (k : Fin 32) (f : Capture → Capture) :
    (s.modSlot k f).workSets = s.workSets := rfl
@[simp] theorem State.modSlot_unprofiled (k : Fin 32) (f : Capture → Capture) :
    (s.modSlot k f).unprofiled = s.unprofiled := rfl
@[simp] theorem State.modSlot_store (k : Fin 32) (f : Capture → Capture) : (s.modSlot k f).store = s.store := rfl
@[simp] theorem State.modSlot_freeList (k : Fin 32) (f : Capture → Capture) :
    (s.modSlot k f).freeList = s.freeList := rfl
@[simp] theorem State.modSlot_slots (k : Fin 32) (f : Capture → Capture) :
    (s.modSlot k f).slots = upd s.slots k (Option.map f) := rfl
@[simp] theorem State.modSlot_delivery (k : Fin 32) (f : Capture → Capture) :
    (s.modSlot k f).delivery = s.delivery := rfl
@[simp] theorem State.modSlot_sender (k : Fin 32) (f : Capture → Capture) : (s.modSlot k f).sender = s.sender := rfl
@[simp] theorem State.modSlot_uplink (k : Fin 32) (f : Capture → Capture) : (s.modSlot k f).uplink = s.uplink := rfl
@[simp] theorem State.modSlot_freeIndex (k : Fin 32) (f : Capture → Capture) :
    (s.modSlot k f).freeIndex = s.freeIndex := rfl
@[simp] theorem State.modSlot_pending (k : Fin 32) (f : Capture → Capture) :
    (s.modSlot k f).pending = s.pending := rfl

/-! ### modUplink -/

@[simp] theorem State.modUplink_rstnLow (f : Uplink → Uplink) : (s.modUplink f).rstnLow = s.rstnLow := rfl
@[simp] theorem State.modUplink_time (f : Uplink → Uplink) : (s.modUplink f).time = s.time := rfl
@[simp] theorem State.modUplink_subUs (f : Uplink → Uplink) : (s.modUplink f).subUs = s.subUs := rfl
@[simp] theorem State.modUplink_tables (f : Uplink → Uplink) : (s.modUplink f).tables = s.tables := rfl
@[simp] theorem State.modUplink_lines (f : Uplink → Uplink) : (s.modUplink f).lines = s.lines := rfl
@[simp] theorem State.modUplink_stations (f : Uplink → Uplink) : (s.modUplink f).stations = s.stations := rfl
@[simp] theorem State.modUplink_glitches (f : Uplink → Uplink) : (s.modUplink f).glitches = s.glitches := rfl
@[simp] theorem State.modUplink_unpaired (f : Uplink → Uplink) : (s.modUplink f).unpaired = s.unpaired := rfl
@[simp] theorem State.modUplink_tracks (f : Uplink → Uplink) : (s.modUplink f).tracks = s.tracks := rfl
@[simp] theorem State.modUplink_passageNumber (f : Uplink → Uplink) :
    (s.modUplink f).passageNumber = s.passageNumber := rfl
@[simp] theorem State.modUplink_channels (f : Uplink → Uplink) : (s.modUplink f).channels = s.channels := rfl
@[simp] theorem State.modUplink_captureIds (f : Uplink → Uplink) : (s.modUplink f).captureIds = s.captureIds := rfl
@[simp] theorem State.modUplink_ports (f : Uplink → Uplink) : (s.modUplink f).ports = s.ports := rfl
@[simp] theorem State.modUplink_condRecords (f : Uplink → Uplink) :
    (s.modUplink f).condRecords = s.condRecords := rfl
@[simp] theorem State.modUplink_workSets (f : Uplink → Uplink) : (s.modUplink f).workSets = s.workSets := rfl
@[simp] theorem State.modUplink_unprofiled (f : Uplink → Uplink) : (s.modUplink f).unprofiled = s.unprofiled := rfl
@[simp] theorem State.modUplink_store (f : Uplink → Uplink) : (s.modUplink f).store = s.store := rfl
@[simp] theorem State.modUplink_freeList (f : Uplink → Uplink) : (s.modUplink f).freeList = s.freeList := rfl
@[simp] theorem State.modUplink_slots (f : Uplink → Uplink) : (s.modUplink f).slots = s.slots := rfl
@[simp] theorem State.modUplink_delivery (f : Uplink → Uplink) : (s.modUplink f).delivery = s.delivery := rfl
@[simp] theorem State.modUplink_sender (f : Uplink → Uplink) : (s.modUplink f).sender = s.sender := rfl
@[simp] theorem State.modUplink_uplink (f : Uplink → Uplink) : (s.modUplink f).uplink = f s.uplink := rfl
@[simp] theorem State.modUplink_freeIndex (f : Uplink → Uplink) : (s.modUplink f).freeIndex = s.freeIndex := rfl
@[simp] theorem State.modUplink_pending (f : Uplink → Uplink) : (s.modUplink f).pending = s.pending := rfl

/-! ### modTables -/

@[simp] theorem State.modTables_rstnLow (f : Tables → Tables) : (s.modTables f).rstnLow = s.rstnLow := rfl
@[simp] theorem State.modTables_time (f : Tables → Tables) : (s.modTables f).time = s.time := rfl
@[simp] theorem State.modTables_subUs (f : Tables → Tables) : (s.modTables f).subUs = s.subUs := rfl
@[simp] theorem State.modTables_tables (f : Tables → Tables) : (s.modTables f).tables = f s.tables := rfl
@[simp] theorem State.modTables_lines (f : Tables → Tables) : (s.modTables f).lines = s.lines := rfl
@[simp] theorem State.modTables_stations (f : Tables → Tables) : (s.modTables f).stations = s.stations := rfl
@[simp] theorem State.modTables_glitches (f : Tables → Tables) : (s.modTables f).glitches = s.glitches := rfl
@[simp] theorem State.modTables_unpaired (f : Tables → Tables) : (s.modTables f).unpaired = s.unpaired := rfl
@[simp] theorem State.modTables_tracks (f : Tables → Tables) : (s.modTables f).tracks = s.tracks := rfl
@[simp] theorem State.modTables_passageNumber (f : Tables → Tables) :
    (s.modTables f).passageNumber = s.passageNumber := rfl
@[simp] theorem State.modTables_channels (f : Tables → Tables) : (s.modTables f).channels = s.channels := rfl
@[simp] theorem State.modTables_captureIds (f : Tables → Tables) : (s.modTables f).captureIds = s.captureIds := rfl
@[simp] theorem State.modTables_ports (f : Tables → Tables) : (s.modTables f).ports = s.ports := rfl
@[simp] theorem State.modTables_condRecords (f : Tables → Tables) :
    (s.modTables f).condRecords = s.condRecords := rfl
@[simp] theorem State.modTables_workSets (f : Tables → Tables) : (s.modTables f).workSets = s.workSets := rfl
@[simp] theorem State.modTables_unprofiled (f : Tables → Tables) : (s.modTables f).unprofiled = s.unprofiled := rfl
@[simp] theorem State.modTables_store (f : Tables → Tables) : (s.modTables f).store = s.store := rfl
@[simp] theorem State.modTables_freeList (f : Tables → Tables) : (s.modTables f).freeList = s.freeList := rfl
@[simp] theorem State.modTables_slots (f : Tables → Tables) : (s.modTables f).slots = s.slots := rfl
@[simp] theorem State.modTables_delivery (f : Tables → Tables) : (s.modTables f).delivery = s.delivery := rfl
@[simp] theorem State.modTables_sender (f : Tables → Tables) : (s.modTables f).sender = s.sender := rfl
@[simp] theorem State.modTables_uplink (f : Tables → Tables) : (s.modTables f).uplink = s.uplink := rfl
@[simp] theorem State.modTables_freeIndex (f : Tables → Tables) : (s.modTables f).freeIndex = s.freeIndex := rfl
@[simp] theorem State.modTables_pending (f : Tables → Tables) : (s.modTables f).pending = s.pending := rfl

/-! ### Equal states -/

/-- Two states with the same fields are one state. -/
theorem State.ext_fields {s t : State}
    (h_rstnLow : s.rstnLow = t.rstnLow)
    (h_time : s.time = t.time)
    (h_subUs : s.subUs = t.subUs)
    (h_tables : s.tables = t.tables)
    (h_lines : s.lines = t.lines)
    (h_stations : s.stations = t.stations)
    (h_glitches : s.glitches = t.glitches)
    (h_unpaired : s.unpaired = t.unpaired)
    (h_tracks : s.tracks = t.tracks)
    (h_passageNumber : s.passageNumber = t.passageNumber)
    (h_channels : s.channels = t.channels)
    (h_captureIds : s.captureIds = t.captureIds)
    (h_ports : s.ports = t.ports)
    (h_condRecords : s.condRecords = t.condRecords)
    (h_workSets : s.workSets = t.workSets)
    (h_unprofiled : s.unprofiled = t.unprofiled)
    (h_store : s.store = t.store)
    (h_freeList : s.freeList = t.freeList)
    (h_slots : s.slots = t.slots)
    (h_delivery : s.delivery = t.delivery)
    (h_sender : s.sender = t.sender)
    (h_uplink : s.uplink = t.uplink)
    (h_freeIndex : s.freeIndex = t.freeIndex)
    (h_pending : s.pending = t.pending)
    : s = t := by
  cases s; cases t; simp_all

end Sys2Proof.Machine
end

