-- ==== Sys2Proof/Laws/Frames.lean ====
section
/-! SUPPORT. What the shared operations leave alone. Four frames: `CapturesKeep` for the operations on
one capture, `RowsKeep` for those on a port's list, `WindowsKeep` for those on windows and channels, `PassagesKeep` for those on crossings and passages.
Each holds from a state to itself and goes through a chain of operations, so an operation's frame is the chain of
its parts' frames. -/

namespace Sys2Proof.Machine

/-- What the operations on rows, captures and the sender's take leave as it was. -/
structure RowsKeep (s t : State) : Prop where
  rstnLow : t.rstnLow = s.rstnLow
  time : t.time = s.time
  subUs : t.subUs = s.subUs
  tables : t.tables = s.tables
  lines : t.lines = s.lines
  stations : t.stations = s.stations
  glitches : t.glitches = s.glitches
  unpaired : t.unpaired = s.unpaired
  tracks : t.tracks = s.tracks
  passageNumber : t.passageNumber = s.passageNumber
  channels : t.channels = s.channels
  captureIds : t.captureIds = s.captureIds
  condRecords : t.condRecords = s.condRecords
  freeIndex : t.freeIndex = s.freeIndex
  pending : t.pending = s.pending

/-- What the operations on one capture leave as it was: what `RowsKeep` says, and the camera ports. -/
structure CapturesKeep (s t : State) : Prop extends RowsKeep s t where
  ports : t.ports = s.ports

/-- What the operations on windows and channels leave as it was. -/
structure WindowsKeep (s t : State) : Prop where
  rstnLow : t.rstnLow = s.rstnLow
  time : t.time = s.time
  subUs : t.subUs = s.subUs
  tables : t.tables = s.tables
  lines : t.lines = s.lines
  stations : t.stations = s.stations
  glitches : t.glitches = s.glitches
  unpaired : t.unpaired = s.unpaired
  passageNumber : t.passageNumber = s.passageNumber
  freeIndex : t.freeIndex = s.freeIndex
  pending : t.pending = s.pending

/-- What the operations on crossings and passages leave as it was. -/
structure PassagesKeep (s t : State) : Prop where
  rstnLow : t.rstnLow = s.rstnLow
  time : t.time = s.time
  subUs : t.subUs = s.subUs
  tables : t.tables = s.tables
  lines : t.lines = s.lines
  stations : t.stations = s.stations
  glitches : t.glitches = s.glitches
  unpaired : t.unpaired = s.unpaired
  pending : t.pending = s.pending

theorem RowsKeep.refl (s : State) : RowsKeep s s := by constructor <;> rfl

theorem RowsKeep.trans {s t u : State} (a : RowsKeep s t) (b : RowsKeep t u) : RowsKeep s u := by
  cases a; cases b; constructor <;> simp_all

theorem WindowsKeep.refl (s : State) : WindowsKeep s s := by constructor <;> rfl

theorem WindowsKeep.trans {s t u : State} (a : WindowsKeep s t) (b : WindowsKeep t u) : WindowsKeep s u := by
  cases a; cases b; constructor <;> simp_all

theorem PassagesKeep.refl (s : State) : PassagesKeep s s := by constructor <;> rfl

theorem PassagesKeep.trans {s t u : State} (a : PassagesKeep s t) (b : PassagesKeep t u) : PassagesKeep s u := by
  cases a; cases b; constructor <;> simp_all

theorem CapturesKeep.refl (s : State) : CapturesKeep s s := ⟨.refl s, rfl⟩

theorem CapturesKeep.trans {s t u : State} (a : CapturesKeep s t) (b : CapturesKeep t u) : CapturesKeep s u :=
  ⟨a.toRowsKeep.trans b.toRowsKeep, b.ports.trans a.ports⟩

theorem RowsKeep.windows {s t : State} (h : RowsKeep s t) : WindowsKeep s t := by
  cases h; constructor <;> assumption

theorem WindowsKeep.passages {s t : State} (h : WindowsKeep s t) : PassagesKeep s t := by
  cases h; constructor <;> assumption

/-! ### Records that arrive together -/

/-- Noting that records arrived together changes that note alone. -/
theorem together_eq (s t : State) : ∃ l, together s t = { t with uplink := { t.uplink with mayLead := l } } := by
  unfold together
  split
  · exact ⟨_, rfl⟩
  · exact ⟨t.uplink.mayLead, rfl⟩

/-- What does not look at the note, the note keeps. -/
theorem together_induct {P : State → Prop} {s t : State} (h : P t)
    (note : ∀ l, P t → P { t with uplink := { t.uplink with mayLead := l } }) : P (together s t) := by
  obtain ⟨l, e⟩ := together_eq s t
  rw [e]; exact note l h

theorem together_keeps (s t : State) : CapturesKeep t (together s t) := by
  obtain ⟨l, e⟩ := together_eq s t
  rw [e]
  refine ⟨?_, rfl⟩; constructor <;> rfl

/-! ### Rows and captures -/

theorem modSlot_keeps (s : State) (k : Fin 32) (f : Capture → Capture) : CapturesKeep s (s.modSlot k f) := by
  refine ⟨?_, rfl⟩; constructor <;> rfl

theorem modPort_keeps (s : State) (c : Fin 4) (f : Port → Port) : RowsKeep s (s.modPort c f) := by
  constructor <;> rfl

theorem modUplink_keeps (s : State) (f : Uplink → Uplink) : CapturesKeep s (s.modUplink f) := by
  refine ⟨?_, rfl⟩; constructor <;> rfl

theorem storeRow_keeps (k : Fin 32) (row : StoredRow) (s : State) : CapturesKeep s (storeRow k row s) := by
  unfold storeRow
  split
  · exact .refl s
  · split
    · exact modSlot_keeps ..
    · refine ⟨?_, rfl⟩; constructor <;> rfl

theorem profileRow_keeps (w : Option (Fin 8)) (i travel : Nat) (px : List Byte) (s : State) :
    CapturesKeep s (profileRow w i travel px s) := by
  unfold profileRow
  split
  · exact .refl s
  · refine ⟨?_, rfl⟩; constructor <;> rfl

theorem senderTake_keeps (s : State) : CapturesKeep s (senderTake s) := by
  unfold senderTake
  repeat (first | exact CapturesKeep.refl s | split | (refine ⟨?_, rfl⟩; constructor <;> rfl))

theorem conditionClose_keeps (k : Fin 32) (s : State) : CapturesKeep s (conditionClose k s) := by
  unfold conditionClose
  split
  · exact .refl s
  · exact CapturesKeep.trans (by refine ⟨?_, rfl⟩; constructor <;> rfl) (senderTake_keeps _)

theorem tryComplete_keeps (k : Fin 32) (s : State) : CapturesKeep s (tryComplete k s) := by
  unfold tryComplete
  repeat (first | exact CapturesKeep.refl s | exact conditionClose_keeps k s | split)

theorem closeCapture_keeps (id : CaptureId) (r : CloseReason) (s : State) : CapturesKeep s (closeCapture id r s) := by
  unfold closeCapture
  split
  · exact .refl s
  · exact .trans (modSlot_keeps ..) (tryComplete_keeps ..)

theorem receiveRow_keeps (k : Fin 32) (e : Entry) (px : List Byte) (s : State) :
    CapturesKeep s (receiveRow k e px s) := by
  unfold receiveRow
  split
  · dsimp only
    split
    · exact .trans (modSlot_keeps ..) (.trans (storeRow_keeps ..) (profileRow_keeps ..))
    · exact .trans (modSlot_keeps ..) (storeRow_keeps ..)
  · exact .refl s

theorem missRow_keeps (k : Fin 32) (e : Entry) (s : State) : CapturesKeep s (missRow k e s) := by
  unfold missRow
  split
  · split
    · exact .trans (modSlot_keeps ..) (storeRow_keeps ..)
    · exact modSlot_keeps ..
  · exact .refl s

theorem resolveRow_keeps (k : Fin 32) (e : Entry) (how : Resolution) (s : State) :
    CapturesKeep s (resolveRow k e how s) := by
  cases how
  · exact receiveRow_keeps ..
  · exact missRow_keeps ..

theorem resolveEntry_keeps (e : Entry) (how : Resolution) (s : State) : CapturesKeep s (resolveEntry e how s) := by
  unfold resolveEntry
  split
  · exact .refl s
  · split
    · exact .refl s
    · exact resolveRow_keeps ..

theorem completeCapture_keeps (id : CaptureId) (s : State) : CapturesKeep s (completeCapture id s) := by
  unfold completeCapture
  split
  · exact .refl s
  · exact tryComplete_keeps ..

/-- The entry at the head leaves the port's list, and nothing else happens to the ports (R99). -/
theorem takeHead_ports (cam : Fin 4) (how : Resolution) (s : State) :
    (takeHead cam how s).ports = match s.ports[cam].outstanding with
      | [] => s.ports
      | _ :: rest => upd s.ports cam (Port.popEntry how rest) := by
  unfold takeHead
  split
  · rename_i h; rw [h]
  · rename_i h; rw [h]; exact (resolveEntry_keeps ..).ports

theorem takeHead_keeps (cam : Fin 4) (how : Resolution) (s : State) : RowsKeep s (takeHead cam how s) := by
  unfold takeHead
  split
  · exact .refl s
  · exact .trans (modPort_keeps ..) (resolveEntry_keeps ..).toRowsKeep

theorem takeHeads_keeps (cam : Fin 4) (hows : List Resolution) (s : State) : RowsKeep s (takeHeads cam hows s) := by
  induction hows generalizing s with
  | nil => exact .refl s
  | cons how rest ih => exact .trans (takeHead_keeps ..) (ih _)

/-- The completions at one moment leave alone what each does, from the state in which their order has been chosen. -/
theorem completions_keep (must : CaptureId → CaptureId → Bool) (ids : List CaptureId) (s : State) :
    CapturesKeep (s.chosen ids.length) (inFreeOrder BitVec.toNat must ids completeCapture s) :=
  inFreeOrder_induct (.refl _) fun _ _ h => h.trans (completeCapture_keeps ..)

/-- Resolving entries takes them off their port's list, and does nothing else to the ports (R99). -/
theorem resolveHeads_ports (cam : Fin 4) (hows : List Resolution) (s : State) :
    (resolveHeads cam hows s).ports = (takeHeads cam hows s).ports :=
  (together_keeps ..).ports.trans (completions_keep ..).ports

theorem resolveHeads_keeps (cam : Fin 4) (hows : List Resolution) (s : State) :
    RowsKeep (s.chosen (declared cam hows s).length) (resolveHeads cam hows s) := by
  refine .trans ?_ (.trans (completions_keep ..).toRowsKeep (together_keeps ..).toRowsKeep)
  have h := takeHeads_keeps cam hows s
  cases h; constructor <;> simp_all [State.chosen]

theorem resolveHead_ports (cam : Fin 4) (how : Resolution) (s : State) :
    (resolveHead cam how s).ports = match s.ports[cam].outstanding with
      | [] => s.ports
      | _ :: rest => upd s.ports cam (Port.popEntry how rest) :=
  (resolveHeads_ports ..).trans (takeHead_ports ..)

/-- One resolution completes at most one capture. -/
theorem declared_one (cam : Fin 4) (how : Resolution) (s : State) : (declared cam [how] s).length ≤ 1 := by
  unfold declared declared declaredAtHead
  rw [List.append_nil]
  exact Option.length_toList_le

theorem resolveHead_keeps (cam : Fin 4) (how : Resolution) (s : State) : RowsKeep s (resolveHead cam how s) := by
  have h := resolveHeads_keeps cam [how] s
  unfold State.chosen at h
  rw [Nat.sub_eq_zero_of_le (declared_one ..)] at h
  exact h

theorem portTrigger_keeps (cam : Fin 4) (e : Entry) (s : State) : RowsKeep s (portTrigger cam e s) := by
  unfold portTrigger
  dsimp only
  split
  · exact modPort_keeps ..
  · exact .trans (resolveHead_keeps ..) (modPort_keeps ..)

/-- What the operations on a forward-lane frame leave as it was: what `RowsKeep` says, but for the count of free
choices. -/
def FrameKeeps (s t : State) : Prop := RowsKeep { s with freeIndex := t.freeIndex } t

theorem RowsKeep.frame {s t : State} (h : RowsKeep s t) : FrameKeeps s t := by
  unfold FrameKeeps; rw [h.freeIndex]; exact h

theorem resolveHeads_frame (cam : Fin 4) (hows : List Resolution) (s : State) :
    FrameKeeps s (resolveHeads cam hows s) := by
  have h := resolveHeads_keeps cam hows s
  unfold FrameKeeps; rw [h.freeIndex]; exact h

theorem goodRow_keeps (cam : Fin 4) (echo : Half) (px : List Byte) (s : State) :
    FrameKeeps s (goodRow cam echo px s) := by
  unfold goodRow
  split
  · exact (modPort_keeps ..).frame
  · exact resolveHeads_frame ..

theorem goodNote_keeps (cam : Fin 4) (bytes : List Byte) (s : State) : RowsKeep s (goodNote cam bytes s) := by
  unfold goodNote
  split
  · exact (modUplink_keeps ..).toRowsKeep
  · exact modPort_keeps ..

theorem forwardJudged_keeps (cam : Fin 4) (f : ForwardFrame) (s : State) :
    FrameKeeps s (forwardJudged cam f s) := by
  cases f
  · exact goodRow_keeps ..
  · exact (RowsKeep.trans (modPort_keeps ..) (resolveHead_keeps ..)).frame
  · exact (goodNote_keeps ..).frame
  · exact (modPort_keeps ..).frame
  · exact (modPort_keeps ..).frame
  · exact (RowsKeep.refl s).frame

theorem forwardFrame_keeps (cam : Fin 4) (fresh : Bool) (frame : List Byte) (s : State) :
    FrameKeeps s (forwardFrame cam fresh frame s) := by
  unfold forwardFrame
  split
  · exact forwardJudged_keeps ..
  · exact (RowsKeep.refl s).frame

/-! ### Windows and channels -/

theorem modChannel_keeps (s : State) (c : Fin 4) (f : Channel → Channel) : WindowsKeep s (s.modChannel c f) := by
  constructor <;> rfl

theorem modTrack_keeps (s : State) (t : Track) (f : TrackRec → TrackRec) : WindowsKeep s (s.modTrack t f) := by
  constructor <;> rfl

theorem setPassage_keeps (s : State) (t : Track) (p : Passage) : WindowsKeep s (s.setPassage t p) := by
  constructor <;> rfl

theorem reportWindow_keeps (t : Track) (cam : Fin 4) (panto : Nat) (o : PlanOutcome) (s : State) :
    WindowsKeep s (reportWindow t cam panto o s) := by
  unfold reportWindow
  split
  · exact .refl s
  · exact setPassage_keeps ..

theorem createCapture_keeps (k : Fin 32) (o : Opening) (s : State) : WindowsKeep s (createCapture k o s) := by
  unfold createCapture
  exact WindowsKeep.trans (by constructor <;> rfl) (reportWindow_keeps ..)

theorem closeWindow_keeps (cam : Fin 4) (r : CloseReason) (s : State) : WindowsKeep s (closeWindow cam r s) := by
  unfold closeWindow
  split
  · exact .refl s
  · exact .trans (modChannel_keeps ..) (closeCapture_keeps ..).toRowsKeep.windows

theorem takeSlot_keeps (t : Track) (cam : Fin 4) (site : SiteCamera) (p : Passage) (head : HeadClass) (w : Window)
    (s : State) : WindowsKeep s (takeSlot t cam site p head w s) := by
  unfold takeSlot
  split
  · exact reportWindow_keeps ..
  · exact createCapture_keeps ..

theorem openWindow_keeps (t : Track) (cam : Fin 4) (site : SiteCamera) (p : Passage) (w : Window) (s : State) :
    WindowsKeep s (openWindow t cam site p w s) := by
  unfold openWindow
  split
  · exact .refl s
  · exact .trans (closeWindow_keeps ..) (takeSlot_keeps ..)

theorem examineWindows_keeps (t : Track) (cam : Fin 4) (site : SiteCamera) (p : Passage) (travel : Nat)
    (ws : List Window) (s : State) : WindowsKeep s (examineWindows t cam site p travel ws s) := by
  induction ws generalizing s with
  | nil => exact modChannel_keeps ..
  | cons w rest ih =>
    unfold examineWindows
    split
    · exact .trans (reportWindow_keeps ..) (ih _)
    · split
      · exact .trans (modChannel_keeps ..) (openWindow_keeps ..)
      · exact modChannel_keeps ..

theorem closeReached_keeps (cam : Fin 4) (travel : Nat) (s : State) : WindowsKeep s (closeReached cam travel s) := by
  unfold closeReached
  repeat (first | exact WindowsKeep.refl s | exact closeWindow_keeps .. | split)

theorem tagTrigger_keeps (cam : Fin 4) (pitch : Bool) (s : State) : WindowsKeep s (tagTrigger cam pitch s) := by
  unfold tagTrigger
  split
  · exact .refl s
  · dsimp only
    split
    · exact modChannel_keeps ..
    · exact .trans (modChannel_keeps ..) (modSlot_keeps ..).toRowsKeep.windows

theorem issueTrigger_keeps (cam : Fin 4) (site : SiteCamera) (travel : Nat) (s : State) :
    WindowsKeep s (issueTrigger cam site travel s) := by
  unfold issueTrigger
  exact .trans (modChannel_keeps ..) (portTrigger_keeps ..).windows

theorem takeTrigger_keeps (cam : Fin 4) (t : Track) (site : SiteCamera) (p : Passage) (period : Nat) (off : Bool)
    (elapsed : Nat) (s : State) : WindowsKeep s (takeTrigger cam t site p period off elapsed s) := by
  unfold takeTrigger
  exact .trans (modChannel_keeps ..) (.trans (closeReached_keeps ..)
    (.trans (examineWindows_keeps ..) (.trans (tagTrigger_keeps ..) (issueTrigger_keeps ..))))

theorem triggerNow_keeps (cam : Fin 4) (s : State) : WindowsKeep s (triggerNow cam s) := by
  unfold triggerNow
  split
  · exact .refl s
  · split
    · split
      · exact takeTrigger_keeps ..
      · exact .refl s
    · exact .refl s

theorem startChannel_keeps (t : Track) (pace : Nat) (cam : Fin 4) (s : State) :
    WindowsKeep s (startChannel t pace cam s) := by
  unfold startChannel
  split
  · exact .refl s
  · exact modChannel_keeps ..

theorem dropWindows_keeps (t : Track) (cam : Fin 4) (r : DropReason) (ws : List Window) (s : State) :
    WindowsKeep s (dropWindows t cam r ws s) := by
  induction ws generalizing s with
  | nil => exact modChannel_keeps ..
  | cons w rest ih => exact .trans (reportWindow_keeps ..) (ih _)

theorem stopChannel_keeps (t : Track) (r : DropReason) (cam : Fin 4) (s : State) :
    WindowsKeep s (stopChannel t r cam s) := by
  unfold stopChannel
  split
  · exact .refl s
  · exact .trans (modChannel_keeps ..) (.trans (closeWindow_keeps ..) (dropWindows_keeps ..))

/-- A chain of operations on cameras keeps what each keeps. -/
theorem foldl_windows_keeps (f : State → Fin 4 → State) (h : ∀ s c, WindowsKeep s (f s c)) (cs : List (Fin 4))
    (s : State) : WindowsKeep s (cs.foldl f s) := by
  induction cs generalizing s with
  | nil => exact .refl s
  | cons c rest ih => exact .trans (h s c) (ih _)

/-- The stops of a track's channels, from the state in which their order has been chosen. -/
theorem stopChannels_windows (t : Track) (r : DropReason) (s : State) :
    WindowsKeep (s.chosen (s.camerasOf t).length) (stopChannels t r s) :=
  .trans (inFreeOrder_induct (.refl _) fun _ _ h => h.trans (stopChannel_keeps ..))
    (together_keeps ..).toRowsKeep.windows

theorem stopChannels_keeps (t : Track) (r : DropReason) (s : State) : PassagesKeep s (stopChannels t r s) :=
  .trans (by constructor <;> rfl) (stopChannels_windows t r s).passages

theorem startChannels_keeps (t : Track) (pace : Nat) (s : State) : WindowsKeep s (startChannels t pace s) :=
  foldl_windows_keeps _ (fun s c => startChannel_keeps t pace c s) _ s

/-! ### Passages -/

theorem strayAxle_keeps (t : Track) (s : State) : WindowsKeep s (strayAxle t s) := modTrack_keeps ..

theorem handWindows_keeps (p : Passage) (i : Fin 32) (u : Bool) (cam : Fin 4) (s : State) :
    WindowsKeep s (handWindows p i u cam s) := modChannel_keeps ..

theorem planPassage_keeps (t : Track) (i : Fin 32) (m : MatchState) (p : Passage) (s : State) :
    WindowsKeep s (planPassage t i m p s) := by
  unfold planPassage
  exact .trans (setPassage_keeps ..) (foldl_windows_keeps _ (fun s c => handWindows_keeps ..) _ _)

theorem applyDecision_keeps (t : Track) (d : Decision) (p : Passage) (s : State) :
    WindowsKeep s (applyDecision t d p s) := by
  cases d
  · exact setPassage_keeps ..
  · exact planPassage_keeps ..
  · exact planPassage_keeps ..

theorem matchSpacing_keeps (t : Track) (k : Nat) (d : Option Nat) (p : Passage) (s : State) :
    WindowsKeep s (matchSpacing t k d p s) := by
  unfold matchSpacing
  split
  · exact applyDecision_keeps ..
  · exact applyDecision_keeps ..

theorem appendAxle_keeps (t : Track) (x : Crossing) (p : Passage) (s : State) :
    WindowsKeep s (appendAxle t x p s) := by
  unfold appendAxle
  split
  · dsimp only
    split
    · exact matchSpacing_keeps ..
    · exact setPassage_keeps ..
  · exact setPassage_keeps ..

theorem endPassage_keeps (t : Track) (r : EndReason) (d : EndTo) (s : State) :
    PassagesKeep s (endPassage t r d s) := by
  unfold endPassage
  dsimp only
  split
  · exact stopChannels_keeps ..
  · exact .trans (stopChannels_keeps ..) (.trans (modTrack_keeps ..).passages
      (.trans (modUplink_keeps ..).toRowsKeep.windows.passages (together_keeps ..).toRowsKeep.windows.passages))

theorem axleIn_keeps (t : Track) (site : SiteTrack) (x : Crossing) (p : Passage) (s : State) :
    WindowsKeep s (axleIn t site x p s) := appendAxle_keeps ..

theorem axleOut_keeps (t : Track) (site : SiteTrack) (x : Crossing) (p : Passage) (s : State) :
    PassagesKeep s (axleOut t site x p s) := by
  unfold axleOut
  dsimp only
  split
  · split
    · exact .trans (setPassage_keeps ..).passages (endPassage_keeps ..)
    · exact (setPassage_keeps ..).passages
  · exact .trans (setPassage_keeps ..).passages (strayAxle_keeps ..).passages

theorem markReversed_keeps (t : Track) (s : State) : PassagesKeep s (markReversed t s) := by
  unfold markReversed
  split
  · exact .refl s
  · split
    · exact .refl s
    · exact .trans (setPassage_keeps ..).passages (stopChannels_keeps ..)

theorem backOut_keeps (t : Track) (p : Passage) (s : State) : PassagesKeep s (backOut t p s) := by
  unfold backOut
  split
  · exact .trans (setPassage_keeps ..).passages (markReversed_keeps ..)
  · exact .trans (setPassage_keeps ..).passages (.trans (strayAxle_keeps ..).passages (markReversed_keeps ..))

theorem backIn_keeps (t : Track) (p : Passage) (s : State) : PassagesKeep s (backIn t p s) := by
  unfold backIn
  split
  · exact .trans (setPassage_keeps ..).passages (markReversed_keeps ..)
  · exact .trans (setPassage_keeps ..).passages (.trans (strayAxle_keeps ..).passages (markReversed_keeps ..))

theorem crossActive_keeps (t : Track) (site : SiteTrack) (x : Crossing) (p : Passage) (s : State) :
    PassagesKeep s (crossActive t site x p s) := by
  unfold crossActive
  dsimp only
  split
  · exact (axleIn_keeps ..).passages
  · exact axleOut_keeps ..
  · exact backOut_keeps ..
  · exact backIn_keeps ..

theorem startPassage_keeps (t : Track) (x : Crossing) (pace : Nat) (s : State) :
    PassagesKeep s (startPassage t x pace s) := by
  unfold startPassage
  split
  · exact .refl s
  · exact PassagesKeep.trans (by constructor <;> rfl) (startChannels_keeps ..).passages

theorem crossIdle_keeps (t : Track) (x : Crossing) (s : State) : PassagesKeep s (crossIdle t x s) := by
  unfold crossIdle
  split
  · exact startPassage_keeps ..
  · exact (strayAxle_keeps ..).passages
  · exact (strayAxle_keeps ..).passages

/-- A crossing, in whatever state its track is, leaves the pairing records, the acceptance stages, the tables and
the clock as they were (R30, R33). -/
theorem takeCrossing_keeps (t : Track) (x : Crossing) (s : State) : PassagesKeep s (takeCrossing t x s) := by
  unfold takeCrossing
  split
  · exact (strayAxle_keeps ..).passages
  · exact (strayAxle_keeps ..).passages
  · exact crossIdle_keeps ..
  · split
    · exact .refl s
    · exact crossActive_keeps ..

end Sys2Proof.Machine
end

