-- ==== Sys2Proof/Laws/Captures.lean ====
section
/-! SUPPORT. The law of the frame store (`StoreSound`), operation by operation: captures and their ids, the delivery
queue, the tags of outstanding triggers, the sender, the chains and the free list. -/

namespace Sys2Proof.Machine

/-! ### Slots -/

/-- A slot after an update of a slot. -/
theorem holds_upd {s t : State} {k : Fin 32} {f : Option Capture → Option Capture}
    (h : t.slots = upd s.slots k f) (j : Fin 32) (d : Capture) :
    t.Holds j d ↔ if j = k then f s.slots[k] = some d else s.Holds j d := by
  unfold State.Holds
  rw [h, upd_get]
  by_cases e : k = j
  · subst e; simp
  · rw [if_neg e, if_neg (fun x => e x.symm)]

theorem holds_modSlot (s : State) (k : Fin 32) (f : Capture → Capture) (j : Fin 32) (d : Capture) :
    (s.modSlot k f).Holds j d ↔ if j = k then ∃ c, s.Holds k c ∧ f c = d else s.Holds j d := by
  rw [holds_upd rfl]
  split
  · simp [State.Holds]
  · rfl

/-- The slot found for an id holds a capture of that id. -/
theorem slotOf_some {s : State} {id : CaptureId} {k : Fin 32} (h : s.slotOf id = some k) :
    ∃ c, s.Holds k c ∧ c.id = id := by
  unfold State.slotOf findIndex at h
  have := List.find?_some h
  beta_reduce at this
  split at this
  · rename_i c hc; exact ⟨c, hc, by simpa using this⟩
  · simp at this

/-- An id that a slot holds is found. -/
theorem slotOf_isSome {s : State} {id : CaptureId} {k : Fin 32} {c : Capture} (h : s.Holds k c) (hid : c.id = id) :
    ∃ j, s.slotOf id = some j := by
  have : (s.slotOf id).isSome = true := by
    unfold State.slotOf findIndex
    rw [List.find?_isSome]
    refine ⟨k, List.mem_finRange k, ?_⟩
    unfold State.Holds at h
    simp only [h]
    simpa using hid
  exact Option.isSome_iff_exists.mp this

/-- With distinct ids, the slot found for an id is the slot that holds it. -/
theorem slotOf_eq {s : State} (hi : IdsDistinct s) {id : CaptureId} {k : Fin 32} {c : Capture} (h : s.Holds k c)
    (hid : c.id = id) : s.slotOf id = some k := by
  obtain ⟨j, hj⟩ := slotOf_isSome h hid
  obtain ⟨d, hd, hdid⟩ := slotOf_some hj
  rw [hj, hi j k d c hd h (hdid.trans hid.symm)]

theorem holds_unique {s : State} {k : Fin 32} {c d : Capture} (h : s.Holds k c) (h' : s.Holds k d) : c = d :=
  Option.some.inj (h.symm.trans h')

/-- The lowest-numbered free slot is free. -/
theorem freeSlot_free {s : State} {k : Fin 32} (h : s.freeSlot = some k) : s.slots[k] = none := by
  unfold State.freeSlot findIndex at h
  simpa using List.find?_some h

/-! ### Changes of one capture -/

/-- Two descriptors of one capture that are alike to the delivery queue and to the tags. -/
structure SameIdentity (c d : Capture) : Prop where
  id : d.id = c.id
  camera : d.camera = c.camera
  settled : d.Settled ↔ c.Settled
  live : d.Live ↔ c.Live
  sending : d.state = .sending ↔ c.state = .sending

/-- Descriptors alike to the chains as well. -/
structure SameRows (c d : Capture) : Prop extends SameIdentity c d where
  chain : d.chain = c.chain
  stored : d.stored = c.stored

/-- Two captures that differ in nothing the frame store's law looks at. -/
structure SameCapture (c d : Capture) : Prop extends SameRows c d where
  opened : c.state = .opened → d.state = .opened

/-- A descriptor with its identity and its state kept. -/
theorem SameIdentity.of_state {c d : Capture} (hi : d.id = c.id) (hc : d.camera = c.camera)
    (hs : d.state = c.state) : SameIdentity c d := by
  refine ⟨hi, hc, ?_, ?_, ?_⟩ <;> simp [Capture.Settled, Capture.Live, hs]

theorem SameCapture.of_state {c d : Capture} (hi : d.id = c.id) (hc : d.camera = c.camera)
    (hs : d.state = c.state) (hch : d.chain = c.chain) (hst : d.stored = c.stored) : SameCapture c d :=
  ⟨⟨.of_state hi hc hs, hch, hst⟩, fun e => hs.trans e⟩

/-- The law looks at the slots, the delivery queue, the sender, the free list, the outstanding lists, the OPEN
windows and the record in transmission, and at no other part. -/
structure SameStore (s t : State) : Prop where
  delivery : t.delivery = s.delivery
  sender : t.sender = s.sender
  freeList : t.freeList = s.freeList
  outstanding : ∀ c : Fin 4, t.ports[c].outstanding = s.ports[c].outstanding
  openWindow : ∀ c : Fin 4, t.channels[c].openWindow = s.channels[c].openWindow
  transmitter : t.uplink.transmitter = s.uplink.transmitter

/-- The captures of two states stand in a relation, slot by slot. -/
def SlotsBy (R : Capture → Capture → Prop) (s t : State) : Prop :=
  ∀ k : Fin 32, (s.slots[k] = none ∧ t.slots[k] = none) ∨ ∃ c d, s.Holds k c ∧ t.Holds k d ∧ R c d

theorem SlotsBy.back {R : Capture → Capture → Prop} {s t : State} (hs : SlotsBy R s t) {k : Fin 32} {d : Capture}
    (hd : t.Holds k d) : ∃ c, s.Holds k c ∧ R c d := by
  rcases hs k with ⟨_, hn⟩ | ⟨c, d', hc, hd', sc⟩
  · unfold State.Holds at hd; rw [hn] at hd; cases hd
  · rw [holds_unique hd hd']; exact ⟨c, hc, sc⟩

theorem SlotsBy.fwd {R : Capture → Capture → Prop} {s t : State} (hs : SlotsBy R s t) {k : Fin 32} {c : Capture}
    (hc : s.Holds k c) : ∃ d, t.Holds k d ∧ R c d := by
  rcases hs k with ⟨hn, _⟩ | ⟨c', d, hc', hd, sc⟩
  · unfold State.Holds at hc; rw [hn] at hc; cases hc
  · rw [holds_unique hc hc']; exact ⟨d, hd, sc⟩

theorem SlotsBy.mono {R Q : Capture → Capture → Prop} {s t : State} (hs : SlotsBy R s t)
    (h : ∀ c d, R c d → Q c d) : SlotsBy Q s t := by
  intro k
  rcases hs k with hn | ⟨c, d, hc, hd, sc⟩
  · exact .inl hn
  · exact .inr ⟨c, d, hc, hd, h c d sc⟩

/-- The captures of two states are the same to the law. -/
abbrev SameSlots (s t : State) : Prop := SlotsBy SameCapture s t

theorem IdsDistinct.by {R : Capture → Capture → Prop} {s t : State} (h : IdsDistinct s) (hs : SlotsBy R s t)
    (hR : ∀ c d, R c d → d.id = c.id) : IdsDistinct t := by
  intro j k c d hc hd hid
  obtain ⟨c', hc', sc⟩ := hs.back hc
  obtain ⟨d', hd', sd⟩ := hs.back hd
  exact h j k c' d' hc' hd' (by rw [← hR _ _ sc, ← hR _ _ sd]; exact hid)

theorem IdsDistinct.same {s t : State} (h : IdsDistinct s) (hs : SlotsBy SameIdentity s t) : IdsDistinct t :=
  h.by hs fun _ _ r => r.id

theorem DeliverySound.same {s t : State} (h : DeliverySound s) (hs : SlotsBy SameIdentity s t)
    (hq : t.delivery = s.delivery) (hx : t.sender.capture = s.sender.capture) : DeliverySound t := by
  refine ⟨?_, ?_, ?_, ?_, ?_⟩
  · rw [hq]; exact h.nodup
  · rw [hq]; intro id hid
    obtain ⟨k, c, hc, hcid, hset⟩ := h.settled id hid
    obtain ⟨d, hd, sc⟩ := hs.fwd hc
    exact ⟨k, d, hd, sc.id.trans hcid, sc.settled.mpr hset⟩
  · rw [hq]; intro k d hd hset
    obtain ⟨c, hc, sc⟩ := hs.back hd
    rw [sc.id]; exact h.joined k c hc (sc.settled.mp hset)
  · rw [hq, hx]; intro id hid
    obtain ⟨hh, k, c, hc, hcid, hst⟩ := h.head id hid
    obtain ⟨d, hd, sc⟩ := hs.fwd hc
    exact ⟨hh, k, d, hd, sc.id.trans hcid, sc.sending.mpr hst⟩
  · rw [hx]; intro k d hd hst
    obtain ⟨c, hc, sc⟩ := hs.back hd
    rw [sc.id]; exact h.oneSends k c hc (sc.sending.mp hst)

/-- What the law asks of an OPEN window. -/
def WindowSound (s : State) (cam : Fin 4) (w : OpenWindow) : Prop :=
  ∃ k c, s.Holds k c ∧ c.id = w.capture ∧ c.camera = cam ∧ c.state = .opened

theorem TagsSound.same {s t : State} (h : TagsSound s) (hs : SlotsBy SameIdentity s t)
    (ho : ∀ c : Fin 4, t.ports[c].outstanding = s.ports[c].outstanding)
    (hw : ∀ (cam : Fin 4) w, t.channels[cam].openWindow = some w → WindowSound t cam w) : TagsSound t := by
  refine ⟨?_, hw⟩
  intro cam en id hen hcap
  rw [ho] at hen
  obtain ⟨k, c, hc, hid, hcam, hl⟩ := h.entries cam en id hen hcap
  obtain ⟨d, hd, sc⟩ := hs.fwd hc
  exact ⟨k, d, hd, sc.id.trans hid, sc.camera.trans hcam, sc.live.mpr hl⟩

/-- OPEN windows stay sound while their captures stay OPEN. -/
theorem TagsSound.windowsBy {R : Capture → Capture → Prop} {s t : State} (h : TagsSound s) (hs : SlotsBy R s t)
    (hR : ∀ c d, R c d → d.id = c.id ∧ d.camera = c.camera ∧ (c.state = .opened → d.state = .opened))
    (hw : ∀ c : Fin 4, t.channels[c].openWindow = s.channels[c].openWindow) (cam : Fin 4) (w : OpenWindow)
    (hw' : t.channels[cam].openWindow = some w) : WindowSound t cam w := by
  rw [hw] at hw'
  obtain ⟨k, c, hc, hid, hcam, hl⟩ := h.windows cam w hw'
  obtain ⟨d, hd, sc⟩ := hs.fwd hc
  obtain ⟨r1, r2, r3⟩ := hR _ _ sc
  exact ⟨k, d, hd, r1.trans hid, r2.trans hcam, r3 hl⟩

/-- The captures' part of the law goes over to a state whose captures have the same identity. -/
theorem CapturesSound.same {s t : State} (h : CapturesSound s) (hs : SlotsBy SameIdentity s t)
    (hq : t.delivery = s.delivery) (hx : t.sender.capture = s.sender.capture)
    (ho : ∀ c : Fin 4, t.ports[c].outstanding = s.ports[c].outstanding)
    (hw : ∀ (cam : Fin 4) w, t.channels[cam].openWindow = some w → WindowSound t cam w) : CapturesSound t :=
  ⟨h.ids.same hs, h.delivery.same hs hq hx, h.tags.same hs ho hw⟩

theorem SenderSound.same {s t : State} (h : SenderSound s) (hs : SlotsBy SameRows s t) (hx : t.sender = s.sender)
    (ht : t.uplink.transmitter = s.uplink.transmitter) : SenderSound t := by
  refine ⟨?_, ?_, ?_⟩
  · rw [hx, ht]; intro k d hd hst
    obtain ⟨c, hc, sc⟩ := hs.back hd
    rw [sc.stored]; exact h.sending k c hc (sc.sending.mp hst)
  · rw [hx, ht]; exact h.busy
  · rw [hx]; exact h.idle

theorem ChainsSound.same {s t : State} (h : ChainsSound s) (hs : SlotsBy SameRows s t)
    (hx : t.sender.rowsSent = s.sender.rowsSent) : ChainsSound t := by
  refine ⟨?_, ?_⟩
  · intro k d hd hst
    obtain ⟨c, hc, sc⟩ := hs.back hd
    rw [sc.chain, sc.stored]; exact h.held k c hc (fun e => hst (sc.sending.mpr e))
  · rw [hx]; intro k d hd hst
    obtain ⟨c, hc, sc⟩ := hs.back hd
    rw [sc.chain, sc.stored]; exact h.sent k c hc (sc.sending.mp hst)

theorem SegmentsPartitioned.same {s t : State} (h : SegmentsPartitioned s) (hs : SlotsBy SameRows s t)
    (hf : t.freeList = s.freeList) : SegmentsPartitioned t := by
  intro g
  have each : ∀ k : Fin 32, (chainIn t.slots[k]).count g = (chainIn s.slots[k]).count g := by
    intro k
    rcases hs k with ⟨h1, h2⟩ | ⟨c, d, hc, hd, sc⟩
    · rw [h1, h2]
    · unfold State.Holds at hc hd; rw [hc, hd]; show d.chain.count g = c.chain.count g; rw [sc.chain]
  rw [← h g]
  unfold timesHeld
  rw [hf, Finset.sum_congr rfl fun k _ => each k]

/-- The law goes over to a state whose captures are the same to it, slot by slot. -/
theorem StoreSound.same {s t : State} (h : StoreSound s) (e : SameStore s t) (hs : SameSlots s t) :
    StoreSound t where
  captures := h.captures.same (hs.mono fun _ _ r => r.toSameIdentity) e.delivery (by rw [e.sender]) e.outstanding
    (h.captures.tags.windowsBy hs (fun _ _ r => ⟨r.id, r.camera, r.opened⟩) e.openWindow)
  sender := h.sender.same (hs.mono fun _ _ r => r.toSameRows) e.sender e.transmitter
  chains := h.chains.same (hs.mono fun _ _ r => r.toSameRows) (by rw [e.sender])
  segments := h.segments.same (hs.mono fun _ _ r => r.toSameRows) e.freeList

theorem SameSlots.of_eq {s t : State} (hs : t.slots = s.slots) : SameSlots s t := by
  intro k
  unfold State.Holds
  rw [hs]
  cases hk : s.slots[k] with
  | none => exact .inl ⟨rfl, rfl⟩
  | some c => exact .inr ⟨c, c, rfl, rfl, .of_state rfl rfl rfl rfl rfl⟩

/-- The law goes over to a state with the same slots. -/
theorem StoreSound.congr {s t : State} (h : StoreSound s) (e : SameStore s t) (hs : t.slots = s.slots) :
    StoreSound t := h.same e (.of_eq hs)

/-- Slots after one slot's change, related by what the change does. -/
theorem SlotsBy.of_upd {R : Capture → Capture → Prop} {s t : State} {k : Fin 32} {f : Capture → Capture}
    (ht : t.slots = upd s.slots k (Option.map f)) (hr : ∀ c, R c c) (hf : ∀ c, s.Holds k c → R c (f c)) :
    SlotsBy R s t := by
  intro j
  unfold State.Holds at *
  rw [ht, upd_get]
  cases hj : s.slots[j] with
  | none => exact .inl ⟨rfl, by split <;> rfl⟩
  | some c =>
    refine .inr ⟨c, if k = j then f c else c, rfl, by split <;> rfl, ?_⟩
    split
    · rename_i e; subst e; exact hf c hj
    · exact hr c

theorem SameIdentity.refl (c : Capture) : SameIdentity c c := .of_state rfl rfl rfl

theorem SameCapture.refl (c : Capture) : SameCapture c c := .of_state rfl rfl rfl rfl rfl

/-- A change of a descriptor that the law does not look at. -/
theorem StoreSound.modSlotSame {s : State} (h : StoreSound s) (k : Fin 32) (f : Capture → Capture)
    (hf : ∀ c, SameCapture c (f c)) : StoreSound (s.modSlot k f) :=
  h.same ⟨rfl, rfl, rfl, fun _ => rfl, fun _ => rfl, rfl⟩ (.of_upd rfl .refl fun c _ => hf c)

/-! ### The free list and the chains (R161) -/

/-- How often a number is held after one slot's chain changes. -/
theorem timesHeld_upd {s t : State} {k : Fin 32} {f : Option Capture → Option Capture}
    (ht : t.slots = upd s.slots k f) (g : Nat) :
    timesHeld t g + (chainIn s.slots[k]).count g + s.freeList.count g
      = timesHeld s g + (chainIn (f s.slots[k])).count g + t.freeList.count g := by
  have split : ∀ u : State, ∑ j : Fin 32, (chainIn u.slots[j]).count g
      = (chainIn u.slots[k]).count g + ∑ j ∈ Finset.univ.erase k, (chainIn u.slots[j]).count g :=
    fun u => (Finset.add_sum_erase _ _ (Finset.mem_univ k)).symm
  have rest : ∑ j ∈ Finset.univ.erase k, (chainIn t.slots[j]).count g
      = ∑ j ∈ Finset.univ.erase k, (chainIn s.slots[j]).count g := by
    apply Finset.sum_congr rfl
    intro j hj
    rw [ht, upd_get_other _ _ (Finset.ne_of_mem_erase hj).symm]
  unfold timesHeld
  rw [split s, split t, rest, ht, upd_get_same]
  omega

/-- With no row sent, a chain needs a segment for each 64 rows or part of them. -/
theorem segmentsLeft_zero (stored : Nat) : segmentsLeft stored 0 = (stored + 63) / 64 := by
  unfold segmentsLeft
  split <;> omega

/-- A row stored for a capture that is not being sent (R166, R167). -/
theorem StoreSound.storeRow {s : State} (h : StoreSound s) (k : Fin 32) (row : StoredRow)
    (hk : ∀ c, s.Holds k c → c.state ≠ .sending) : StoreSound (storeRow k row s) := by
  unfold Machine.storeRow
  split
  · exact h
  · rename_i c hc
    split
    · exact h.modSlotSame k _ fun c => .of_state rfl rfl rfl rfl rfl
    · rename_i g hg
      have hlen : c.chain.length = segmentsLeft c.stored 0 := h.chains.held k c hc (hk c hc)
      have grown : ((c.rowWritten g).chain).length = segmentsLeft (c.stored + 1) 0 := by
        rw [segmentsLeft_zero] at hlen ⊢
        unfold Capture.rowWritten rowsPerSegment
        dsimp only
        split
        · rw [List.length_append, hlen]; simp only [List.length_singleton]; omega
        · rw [hlen]; omega
      have ident : SlotsBy (fun c d => SameIdentity c d ∧ (c.state = .opened → d.state = .opened)) s { s with
          store := s.store.write (rowKey g (c.stored % rowsPerSegment)) row
          freeList := if c.stored % rowsPerSegment = 0 then s.freeList.tail else s.freeList
          slots := upd s.slots k (Option.map (Capture.rowWritten g)) } :=
        .of_upd rfl (fun c => ⟨.refl c, id⟩) fun c _ => ⟨.of_state rfl rfl rfl, id⟩
      refine ⟨h.captures.same (ident.mono fun _ _ r => r.1) rfl rfl (fun _ => rfl)
          (h.captures.tags.windowsBy ident (fun _ _ r => ⟨r.1.id, r.1.camera, r.2⟩) fun _ => rfl), ⟨?_, h.sender.busy, h.sender.idle⟩,
        ⟨?_, ?_⟩, ?_⟩
      · intro j d hd hst
        rw [holds_upd rfl] at hd
        split at hd
        · rename_i e; subst e
          rw [hc] at hd
          cases hd
          exact absurd hst (hk c hc)
        · exact h.sender.sending j d hd hst
      · intro j d hd hst
        rw [holds_upd rfl] at hd
        split at hd
        · rename_i e; subst e
          rw [hc] at hd
          cases hd
          exact grown
        · exact h.chains.held j d hd hst
      · intro j d hd hst
        rw [holds_upd rfl] at hd
        split at hd
        · rename_i e; subst e
          rw [hc] at hd
          cases hd
          exact absurd hst (hk c hc)
        · exact h.chains.sent j d hd hst
      · intro x
        have hu := timesHeld_upd (s := s) (t := { s with
          store := s.store.write (rowKey g (c.stored % rowsPerSegment)) row
          freeList := if c.stored % rowsPerSegment = 0 then s.freeList.tail else s.freeList
          slots := upd s.slots k (Option.map (Capture.rowWritten g)) }) (k := k) rfl x
        rw [hc] at hu
        rw [← h.segments x]
        unfold segmentFor at hg
        by_cases hz : c.stored % rowsPerSegment = 0
        · rw [if_pos hz] at hg
          obtain ⟨tl, htl⟩ : ∃ tl, s.freeList = g :: tl := by
            cases hf : s.freeList with
            | nil => rw [hf] at hg; cases hg
            | cons a tl => rw [hf] at hg; cases hg; exact ⟨tl, rfl⟩
          simp only [hz, if_true, htl, List.tail_cons, chainIn, Option.map_some, Capture.rowWritten,
            List.count_append, List.count_cons, List.count_nil] at hu ⊢
          omega
        · simp only [hz, if_false, chainIn, Option.map_some, Capture.rowWritten] at hu ⊢
          omega

/-! ### The sender takes the head (R171) -/

theorem StoreSound.senderTake {s : State} (h : StoreSound s) : StoreSound (senderTake s) := by
  unfold Machine.senderTake
  split
  swap
  · exact h
  rename_i hcond
  have hnone : s.sender.capture = none := by simpa using hcond.1
  split
  · exact h
  rename_i id rest hq
  split
  · exact h
  rename_i k hk
  obtain ⟨c, hc, hcid⟩ := slotOf_some hk
  have hdel := h.captures.delivery
  have nosend : ∀ j d, s.Holds j d → d.state ≠ .sending := by
    intro j d hd hst
    have := hdel.oneSends j d hd hst
    rw [hnone] at this; cases this
  have hcomplete : c.state = .complete := by
    obtain ⟨j, d, hd, hdid, hset⟩ := hdel.settled id (by rw [hq]; exact List.mem_cons_self)
    have hj := h.captures.ids j k d c hd hc (hdid.trans hcid.symm)
    subst hj
    rw [holds_unique hc hd]
    exact hset.resolve_right (nosend j d hd)
  have hidle : s.sender.inTransmission = false := h.sender.idle hnone
  have hfree : ¬ ∃ t, s.uplink.transmitter = some t ∧ t.kind.isCapture = true := by
    rw [← h.sender.busy, hidle]; simp
  -- the new state
  generalize ht : ({ s.modSlot k (fun c => { c with state := .sending }) with
    sender := { capture := some id, next := .header, inTransmission := false, rowsSent := 0 } } : State) = t
  have tslots : t.slots = upd s.slots k (Option.map fun c => { c with state := .sending }) := by rw [← ht]; rfl
  have tsender : t.sender = { capture := some id, next := .header, inTransmission := false, rowsSent := 0 } := by
    rw [← ht]
  have tdel : t.delivery = s.delivery := by rw [← ht]; rfl
  have tports : t.ports = s.ports := by rw [← ht]; rfl
  have tchan : t.channels = s.channels := by rw [← ht]; rfl
  have tup : t.uplink = s.uplink := by rw [← ht]; rfl
  have tfree : t.freeList = s.freeList := by rw [← ht]; rfl
  clear ht
  have holds : ∀ j d, t.Holds j d ↔ if j = k then { c with state := .sending } = d else s.Holds j d := by
    intro j d
    rw [holds_upd tslots, hc]
    split <;> simp
  have mine : t.Holds k { c with state := .sending } := by rw [holds, if_pos rfl]
  have others : ∀ {j d}, j ≠ k → (t.Holds j d ↔ s.Holds j d) := by
    intro j d hj; rw [holds, if_neg hj]
  refine ⟨⟨?_, ⟨?_, ?_, ?_, ?_, ?_⟩, ⟨?_, ?_⟩⟩, ⟨?_, ?_, ?_⟩, ⟨?_, ?_⟩, ?_⟩
  · exact h.captures.ids.by (R := fun c d => d.id = c.id) (.of_upd tslots (fun _ => rfl) fun _ _ => rfl)
      fun _ _ r => r
  · rw [tdel]; exact hdel.nodup
  · rw [tdel]; intro x hx
    obtain ⟨j, d, hd, hdid, hset⟩ := hdel.settled x hx
    by_cases hj : j = k
    · subst hj
      rw [holds_unique hd hc] at hdid
      exact ⟨j, _, mine, hdid, .inr rfl⟩
    · exact ⟨j, d, (others hj).mpr hd, hdid, hset⟩
  · rw [tdel]; intro j d hd hset
    by_cases hj : j = k
    · subst hj
      rw [← holds_unique mine hd]
      exact hdel.joined j c hc (.inl hcomplete)
    · exact hdel.joined j d ((others hj).mp hd) hset
  · rw [tdel, tsender]; intro x hx
    cases hx
    exact ⟨by rw [hq]; rfl, k, _, mine, hcid, rfl⟩
  · rw [tsender]; intro j d hd hst
    by_cases hj : j = k
    · subst hj
      rw [← holds_unique mine hd]
      show some id = some c.id
      rw [hcid]
    · exact absurd hst (nosend j d ((others hj).mp hd))
  · rw [tports]; intro cam e x he hx
    obtain ⟨j, d, hd, hdid, hcam, hl⟩ := h.captures.tags.entries cam e x he hx
    have hj : j ≠ k := by
      intro e'; subst e'
      rw [holds_unique hd hc] at hl
      unfold Capture.Live at hl; rw [hcomplete] at hl; rcases hl with hl | hl <;> cases hl
    exact ⟨j, d, (others hj).mpr hd, hdid, hcam, hl⟩
  · rw [tchan]; intro cam w hw
    obtain ⟨j, d, hd, hdid, hcam, hl⟩ := h.captures.tags.windows cam w hw
    have hj : j ≠ k := by
      intro e'; subst e'
      rw [holds_unique hd hc, hcomplete] at hl; cases hl
    exact ⟨j, d, (others hj).mpr hd, hdid, hcam, hl⟩
  · rw [tsender, tup]; intro j d hd hst
    exact ⟨Nat.zero_le _, rfl, fun u hu hk => absurd ⟨u, hu, hk⟩ hfree⟩
  · rw [tsender, tup]; exact ⟨fun x => (by cases x), fun x => absurd x hfree⟩
  · rw [tsender]; intro x; cases x
  · intro j d hd hst
    by_cases hj : j = k
    · subst hj
      rw [← holds_unique mine hd] at hst
      exact absurd rfl hst
    · exact h.chains.held j d ((others hj).mp hd) hst
  · rw [tsender]; intro j d hd hst
    by_cases hj : j = k
    · subst hj
      rw [← holds_unique mine hd]
      exact h.chains.held j c hc (by rw [hcomplete]; decide)
    · exact absurd hst (nosend j d ((others hj).mp hd))
  · intro x
    have hu := timesHeld_upd tslots x
    unfold State.Holds at hc
    rw [hc, tfree] at hu
    rw [← h.segments x]
    simp only [chainIn, Option.map_some] at hu
    omega

/-! ### Completion (R102, R148, R168) -/

/-- The condition close of a CLOSING capture of which no tagged entry remains in its camera's list. -/
theorem StoreSound.conditionClose {s : State} (h : StoreSound s) {k : Fin 32} {c : Capture} (hc : s.Holds k c)
    (hst : c.state = .closing)
    (hdone : ∀ e ∈ s.ports[c.camera].outstanding, e.capture ≠ some c.id) : StoreSound (conditionClose k s) := by
  have hc' := hc
  unfold State.Holds at hc'
  unfold Machine.conditionClose
  rw [hc']
  apply StoreSound.senderTake
  generalize hdn : c.closed s.time (resultRecord s c) = done
  have did : done.id = c.id := by rw [← hdn]; rfl
  have dcam : done.camera = c.camera := by rw [← hdn]; rfl
  have dch : done.chain = c.chain := by rw [← hdn]; rfl
  have dsto : done.stored = c.stored := by rw [← hdn]; rfl
  have dst : done.state = .complete := by rw [← hdn]; rfl
  clear hdn
  have utr : (s.uplink.takeClose s.time done).transmitter = s.uplink.transmitter := by
    unfold Uplink.takeClose Uplink.alertTest Uplink.pushAlert
    split
    · rfl
    · split <;> rfl
  generalize ht : ({ s.setSlot k (some done) with
    uplink := s.uplink.takeClose s.time done
    unprofiled := s.unprofiled.filter (· != c.id)
    delivery := s.delivery ++ [c.id] } : State) = t
  have tslots : t.slots = upd s.slots k fun _ => some done := by rw [← ht]; rfl
  have tsender : t.sender = s.sender := by rw [← ht]; rfl
  have tdel : t.delivery = s.delivery ++ [c.id] := by rw [← ht]
  have tports : t.ports = s.ports := by rw [← ht]; rfl
  have tchan : t.channels = s.channels := by rw [← ht]; rfl
  have tup : t.uplink.transmitter = s.uplink.transmitter := by rw [← ht]; exact utr
  have tfree : t.freeList = s.freeList := by rw [← ht]; rfl
  clear ht
  have hdel := h.captures.delivery
  have holds : ∀ j d, t.Holds j d ↔ if j = k then done = d else s.Holds j d := by
    intro j d
    rw [holds_upd tslots]
    split <;> simp
  have mine : t.Holds k done := by rw [holds, if_pos rfl]
  have others : ∀ {j d}, j ≠ k → (t.Holds j d ↔ s.Holds j d) := by
    intro j d hj; rw [holds, if_neg hj]
  have unsettled : ¬ c.Settled := by
    unfold Capture.Settled; rw [hst]; rintro (x | x) <;> cases x
  have fresh : c.id ∉ s.delivery := by
    intro hin
    obtain ⟨j, d, hd, hdid, hset⟩ := hdel.settled c.id hin
    have hj := h.captures.ids j k d c hd hc hdid
    subst hj
    rw [holds_unique hd hc] at hset
    exact unsettled hset
  refine ⟨⟨?_, ⟨?_, ?_, ?_, ?_, ?_⟩, ⟨?_, ?_⟩⟩, ⟨?_, ?_, ?_⟩, ⟨?_, ?_⟩, ?_⟩
  · intro i j a b ha hb hab
    have back : ∀ i a, t.Holds i a → ∃ a', s.Holds i a' ∧ a.id = a'.id := by
      intro i a ha
      by_cases hi : i = k
      · subst hi; rw [← holds_unique mine ha]; exact ⟨c, hc, did⟩
      · exact ⟨a, (others hi).mp ha, rfl⟩
    obtain ⟨a', ha', e1⟩ := back i a ha
    obtain ⟨b', hb', e2⟩ := back j b hb
    exact h.captures.ids i j a' b' ha' hb' (by rw [← e1, ← e2]; exact hab)
  · rw [tdel]
    exact List.nodup_append.mpr ⟨hdel.nodup, by simp, by
      intro a ha b hb; rw [List.mem_singleton] at hb; subst hb; intro e; subst e; exact fresh ha⟩
  · rw [tdel]; intro x hx
    rcases List.mem_append.mp hx with hx | hx
    · obtain ⟨j, d, hd, hdid, hset⟩ := hdel.settled x hx
      have hj : j ≠ k := by
        intro e; subst e; rw [holds_unique hd hc] at hset; exact unsettled hset
      exact ⟨j, d, (others hj).mpr hd, hdid, hset⟩
    · rw [List.mem_singleton] at hx; subst hx
      exact ⟨k, done, mine, did, .inl dst⟩
  · rw [tdel]; intro j d hd hset
    by_cases hj : j = k
    · subst hj; rw [← holds_unique mine hd, did]; simp
    · exact List.mem_append_left _ (hdel.joined j d ((others hj).mp hd) hset)
  · rw [tdel, tsender]; intro x hx
    obtain ⟨hh, j, d, hd, hdid, hs'⟩ := hdel.head x hx
    have hj : j ≠ k := by
      intro e; subst e; rw [holds_unique hd hc, hst] at hs'; cases hs'
    exact ⟨by rw [List.head?_append, hh]; rfl, j, d, (others hj).mpr hd, hdid, hs'⟩
  · rw [tsender]; intro j d hd hs'
    by_cases hj : j = k
    · subst hj; rw [← holds_unique mine hd, dst] at hs'; cases hs'
    · exact hdel.oneSends j d ((others hj).mp hd) hs'
  · rw [tports]; intro cam e x he hx
    obtain ⟨j, d, hd, hdid, hcam, hl⟩ := h.captures.tags.entries cam e x he hx
    have hj : j ≠ k := by
      intro e'; subst e'
      rw [holds_unique hd hc] at hdid hcam
      subst hcam; subst hdid
      exact hdone e he hx
    exact ⟨j, d, (others hj).mpr hd, hdid, hcam, hl⟩
  · rw [tchan]; intro cam w hw
    obtain ⟨j, d, hd, hdid, hcam, hl⟩ := h.captures.tags.windows cam w hw
    have hj : j ≠ k := by
      intro e'; subst e'
      rw [holds_unique hd hc, hst] at hl; cases hl
    exact ⟨j, d, (others hj).mpr hd, hdid, hcam, hl⟩
  · rw [tsender, tup]; intro j d hd hs'
    by_cases hj : j = k
    · subst hj; rw [← holds_unique mine hd, dst] at hs'; cases hs'
    · exact h.sender.sending j d ((others hj).mp hd) hs'
  · rw [tsender, tup]; exact h.sender.busy
  · rw [tsender]; exact h.sender.idle
  · intro j d hd hs'
    by_cases hj : j = k
    · subst hj; rw [← holds_unique mine hd, dch, dsto]
      exact h.chains.held j c hc (by rw [hst]; decide)
    · exact h.chains.held j d ((others hj).mp hd) hs'
  · rw [tsender]; intro j d hd hs'
    by_cases hj : j = k
    · subst hj; rw [← holds_unique mine hd, dst] at hs'; cases hs'
    · exact h.chains.sent j d ((others hj).mp hd) hs'
  · intro x
    have hu := timesHeld_upd tslots x
    rw [hc', tfree] at hu
    rw [← h.segments x]
    simp only [chainIn, dch] at hu
    omega

theorem StoreSound.tryComplete {s : State} (h : StoreSound s) (k : Fin 32) : StoreSound (tryComplete k s) := by
  unfold Machine.tryComplete
  split
  · exact h
  · rename_i c hc
    split
    · rename_i hd
      unfold isComplete at hd
      rw [Bool.and_eq_true] at hd
      refine h.conditionClose hc (by simpa using hd.1) fun e he hx => ?_
      have := List.all_eq_true.mp hd.2 e he
      rw [hx] at this
      simp at this
    · exact h

/-! ### The CLOSING notice (R165) -/

theorem StoreSound.closeCapture {s : State} (h : StoreSound s) (id : CaptureId) (r : CloseReason)
    (hw : ∀ (cam : Fin 4) w, s.channels[cam].openWindow = some w → w.capture ≠ id) :
    StoreSound (closeCapture id r s) := by
  unfold Machine.closeCapture
  split
  · exact h
  rename_i k hk
  apply StoreSound.tryComplete
  obtain ⟨c, hc, hcid⟩ := slotOf_some hk
  have rows : SlotsBy SameRows s (s.modSlot k (Capture.closing r)) := by
    refine .of_upd rfl (fun c => (SameCapture.refl c).toSameRows) fun d _ => ?_
    unfold Capture.closing
    split
    · rename_i ho
      exact ⟨⟨rfl, rfl, by simp [Capture.Settled, ho], by simp [Capture.Live, ho], by simp [ho]⟩, rfl, rfl⟩
    · exact (SameCapture.refl d).toSameRows
  refine ⟨h.captures.same (rows.mono fun _ _ x => x.toSameIdentity) rfl rfl (fun _ => rfl) ?_,
    h.sender.same rows rfl rfl, h.chains.same rows rfl, h.segments.same rows rfl⟩
  intro cam w hcw
  obtain ⟨j, d, hd, hdid, hcam, ho⟩ := h.captures.tags.windows cam w hcw
  have hj : j ≠ k := by
    intro e; subst e
    rw [holds_unique hd hc] at hdid
    exact hw cam w hcw (hdid.symm.trans hcid)
  exact ⟨j, d, by rw [holds_modSlot, if_neg hj]; exact hd, hdid, hcam, ho⟩

/-- A channel's record changes, its OPEN window at most goes. -/
theorem StoreSound.modChannel {s : State} (h : StoreSound s) (c : Fin 4) (f : Channel → Channel)
    (hf : (f s.channels[c]).openWindow = s.channels[c].openWindow ∨ (f s.channels[c]).openWindow = none) :
    StoreSound (s.modChannel c f) := by
  refine ⟨⟨h.captures.ids, ?_, ⟨h.captures.tags.entries, ?_⟩⟩, ?_, ?_, h.segments⟩
  · exact ⟨h.captures.delivery.nodup, h.captures.delivery.settled, h.captures.delivery.joined,
      h.captures.delivery.head, h.captures.delivery.oneSends⟩
  · intro cam w hw
    rw [State.modChannel_channels, upd_get] at hw
    split at hw
    · rename_i e; subst e
      rcases hf with hf | hf
      · rw [hf] at hw; exact h.captures.tags.windows _ w hw
      · rw [hf] at hw; cases hw
    · exact h.captures.tags.windows cam w hw
  · exact ⟨h.sender.sending, h.sender.busy, h.sender.idle⟩
  · exact ⟨h.chains.held, h.chains.sent⟩

theorem StoreSound.closeWindow {s : State} (h : StoreSound s) (cam : Fin 4) (r : CloseReason) :
    StoreSound (closeWindow cam r s) := by
  unfold Machine.closeWindow
  split
  · exact h
  rename_i w hw
  refine (h.modChannel cam _ (.inr rfl)).closeCapture _ _ fun cam' w' hw' e => ?_
  rw [State.modChannel_channels, upd_get] at hw'
  split at hw'
  · cases hw'
  · rename_i hne
    obtain ⟨j, c, hc, hcid, hcam, _⟩ := h.captures.tags.windows cam w hw
    obtain ⟨k, d, hd, hdid, hdcam, _⟩ := h.captures.tags.windows cam' w' hw'
    have := h.captures.ids j k c d hc hd (by rw [hcid, hdid, e])
    subst this
    rw [holds_unique hd hc, hcam] at hdcam
    exact hne hdcam

/-! ### Rows (R99 to R101, R113, R116) -/

/-- No capture in a slot is being sent. -/
def NotSending (s : State) (k : Fin 32) : Prop := ∀ c, s.Holds k c → c.state ≠ .sending

theorem NotSending.modSlot {s : State} {k : Fin 32} (h : NotSending s k) (f : Capture → Capture)
    (hf : ∀ c, (f c).state = c.state) : NotSending (s.modSlot k f) k := by
  intro d hd
  rw [holds_modSlot, if_pos rfl] at hd
  obtain ⟨c, hc, rfl⟩ := hd
  rw [hf]; exact h c hc

theorem StoreSound.profileRow {s : State} (h : StoreSound s) (w : Option (Fin 8)) (i travel : Nat)
    (px : List Byte) : StoreSound (profileRow w i travel px s) := by
  unfold Machine.profileRow
  split
  · exact h
  · exact h.congr ⟨rfl, rfl, rfl, fun _ => rfl, fun _ => rfl, rfl⟩ rfl

theorem StoreSound.receiveRow {s : State} (h : StoreSound s) (k : Fin 32) (hk : NotSending s k) (e : Entry)
    (px : List Byte) : StoreSound (receiveRow k e px s) := by
  unfold Machine.receiveRow
  split
  · dsimp only
    have stored := fun row : StoredRow => (h.modSlotSame k (fun c => { c with received := c.received + 1, repairRun := 0 })
      fun c => .of_state rfl rfl rfl rfl rfl).storeRow k row (hk.modSlot _ fun _ => rfl)
    split
    · exact (stored _).profileRow _ _ _ _
    · exact stored _
  · exact h

theorem StoreSound.missRow {s : State} (h : StoreSound s) (k : Fin 32) (hk : NotSending s k) (e : Entry) :
    StoreSound (missRow k e s) := by
  unfold Machine.missRow
  split
  · split
    · apply StoreSound.storeRow
      · apply h.modSlotSame
        exact fun c => .of_state rfl rfl rfl rfl rfl
      · apply hk.modSlot
        exact fun _ => rfl
    · exact h.modSlotSame k _ fun c => .of_state rfl rfl rfl rfl rfl
  · exact h

theorem StoreSound.resolveEntry {s : State} (h : StoreSound s) (e : Entry) (how : Resolution)
    (he : ∀ id, e.capture = some id → ∃ k c, s.Holds k c ∧ c.id = id ∧ c.Live) :
    StoreSound (resolveEntry e how s) := by
  unfold Machine.resolveEntry
  split
  · exact h
  rename_i id hid
  split
  · exact h
  rename_i k hk
  have live : NotSending s k := by
    intro c hc hst
    obtain ⟨j, d, hd, hdid, hl⟩ := he id hid
    obtain ⟨c', hc', hcid⟩ := slotOf_some hk
    have := h.captures.ids j k d c' hd hc' (hdid.trans hcid.symm)
    subst this
    rw [holds_unique hd hc] at hl
    unfold Capture.Live at hl
    rw [hst] at hl
    rcases hl with x | x <;> cases x
  cases how
  · exact h.receiveRow k live e _
  · exact h.missRow k live e

/-- A port's record changes, its outstanding list at most loses entries. -/
theorem StoreSound.modPort {s : State} (h : StoreSound s) (c : Fin 4) (f : Port → Port)
    (hf : ∀ e ∈ (f s.ports[c]).outstanding, e ∈ s.ports[c].outstanding) : StoreSound (s.modPort c f) := by
  refine ⟨⟨h.captures.ids, ?_, ⟨?_, h.captures.tags.windows⟩⟩, ?_, ?_, h.segments⟩
  · exact ⟨h.captures.delivery.nodup, h.captures.delivery.settled, h.captures.delivery.joined,
      h.captures.delivery.head, h.captures.delivery.oneSends⟩
  · intro cam e id he hid
    rw [State.modPort_ports, upd_get] at he
    split at he
    · rename_i x; subst x; exact h.captures.tags.entries _ e id (hf e he) hid
    · exact h.captures.tags.entries cam e id he hid
  · exact ⟨h.sender.sending, h.sender.busy, h.sender.idle⟩
  · exact ⟨h.chains.held, h.chains.sent⟩

theorem StoreSound.takeHead {s : State} (h : StoreSound s) (cam : Fin 4) (how : Resolution) :
    StoreSound (takeHead cam how s) := by
  unfold Machine.takeHead
  split
  · exact h
  rename_i e rest he
  refine (h.modPort cam _ fun x hx => ?_).resolveEntry e how fun id hid => ?_
  · rw [he]; exact List.mem_cons_of_mem _ hx
  · obtain ⟨k, c, hc, hcid, _, hl⟩ := h.captures.tags.entries cam e id (by rw [he]; exact List.mem_cons_self) hid
    exact ⟨k, c, hc, hcid, hl⟩

theorem StoreSound.takeHeads {s : State} (h : StoreSound s) (cam : Fin 4) (hows : List Resolution) :
    StoreSound (takeHeads cam hows s) := by
  induction hows generalizing s with
  | nil => exact h
  | cons how rest ih => exact ih (h.takeHead _ _)

theorem StoreSound.completeCapture {s : State} (h : StoreSound s) (id : CaptureId) :
    StoreSound (completeCapture id s) := by
  unfold Machine.completeCapture
  split
  · exact h
  · exact h.tryComplete _

/-- The count of free choices is no part of the store. -/
theorem StoreSound.choose {s : State} (h : StoreSound s) (n : Nat) : StoreSound { s with freeIndex := n } :=
  h.congr ⟨rfl, rfl, rfl, fun _ => rfl, fun _ => rfl, rfl⟩ rfl

/-- Which records arrived together is no part of the store either. -/
theorem StoreSound.together {t : State} (h : StoreSound t) (s : State) : StoreSound (together s t) :=
  together_induct h fun _ h => h.congr ⟨rfl, rfl, rfl, fun _ => rfl, fun _ => rfl, rfl⟩ rfl

theorem StoreSound.resolveHeads {s : State} (h : StoreSound s) (cam : Fin 4) (hows : List Resolution) :
    StoreSound (resolveHeads cam hows s) :=
  (inFreeOrder_induct ((h.takeHeads cam hows).choose _) fun _ _ h => h.completeCapture _).together _

theorem StoreSound.resolveHead {s : State} (h : StoreSound s) (cam : Fin 4) (how : Resolution) :
    StoreSound (resolveHead cam how s) := h.resolveHeads cam [how]

theorem StoreSound.expireHeads {s : State} (h : StoreSound s) (cam : Fin 4) : StoreSound (expireHeads cam s) :=
  h.resolveHeads _ _

/-- A trigger whose tag is the capture of the channel's OPEN window joins its port's list (R85, R93). -/
theorem StoreSound.portTrigger {s : State} (h : StoreSound s) (cam : Fin 4) (e : Entry)
    (he : e.capture = s.channels[cam].openWindow.map OpenWindow.capture) : StoreSound (portTrigger cam e s) := by
  have join : ∀ u : State, StoreSound u → u.channels = s.channels → StoreSound (u.modPort cam (Port.takeTrigger e)) := by
    intro u hu hch
    refine ⟨⟨hu.captures.ids, ?_, ⟨?_, hu.captures.tags.windows⟩⟩, ?_, ?_, hu.segments⟩
    · exact ⟨hu.captures.delivery.nodup, hu.captures.delivery.settled, hu.captures.delivery.joined,
        hu.captures.delivery.head, hu.captures.delivery.oneSends⟩
    · intro cam' x id hx hid
      rw [State.modPort_ports, upd_get] at hx
      split at hx
      · rename_i ec; subst ec
        simp only [Port.takeTrigger, List.mem_append, List.mem_singleton] at hx
        rcases hx with hx | hx
        · exact hu.captures.tags.entries _ x id hx hid
        · subst hx
          rw [he, ← hch] at hid
          cases hw : u.channels[cam].openWindow with
          | none => rw [hw] at hid; cases hid
          | some w =>
            rw [hw] at hid
            obtain ⟨k, c, hc, hcid, hcam, ho⟩ := hu.captures.tags.windows cam w hw
            cases hid
            exact ⟨k, c, hc, hcid, hcam, .inl ho⟩
      · exact hu.captures.tags.entries cam' x id hx hid
    · exact ⟨hu.sender.sending, hu.sender.busy, hu.sender.idle⟩
    · exact ⟨hu.chains.held, hu.chains.sent⟩
  unfold Machine.portTrigger
  dsimp only
  split
  · exact join s h rfl
  · exact join _ (h.resolveHead cam .missing) (resolveHead_keeps cam .missing s).channels

/-! ### Capture open (R82 to R84) -/

/-- The captures that hold an id do not change with the counter. -/
theorem freeCaptureId_free {s : State} (hi : IdsDistinct s) {k : Fin 32} (hk : s.slots[k] = none) :
    s.slotOf (freeCaptureId s 32 s.captureIds) = none := by
  -- were every value tried held, the 32 values would be held by the 31 other slots
  have key : ∀ (n : Nat) (id : CaptureId), s.slotOf (freeCaptureId s n id) = none ∨
      ∀ i < n, (s.slotOf (id + BitVec.ofNat 8 i)).isSome = true := by
    intro n
    induction n with
    | zero => intro id; exact .inr fun i hi => absurd hi (Nat.not_lt_zero i)
    | succ n ih =>
      intro id
      unfold freeCaptureId
      by_cases hs : (s.slotOf id).isSome = true
      · rw [if_pos hs]
        rcases ih (id + 1) with h | h
        · exact .inl h
        · refine .inr fun i hi => ?_
          cases i with
          | zero => simpa using hs
          | succ i =>
            have := h i (by omega)
            rw [show id + BitVec.ofNat 8 (i + 1) = id + 1 + BitVec.ofNat 8 i from by
              rw [BitVec.add_assoc]; congr 1
              apply BitVec.eq_of_toNat_eq
              simp [BitVec.toNat_add, BitVec.toNat_ofNat]; omega]
            exact this
      · rw [if_neg hs]
        exact .inl (by simpa using hs)
  rcases key 32 s.captureIds with h | h
  · exact h
  exfalso
  have hold : ∀ i : Fin 32, ∃ j : Fin 32, ∃ c, s.Holds j c ∧ c.id = s.captureIds + BitVec.ofNat 8 i.val := by
    intro i
    obtain ⟨j, hj⟩ := Option.isSome_iff_exists.mp (h i.val i.isLt)
    obtain ⟨c, hc, hid⟩ := slotOf_some hj
    exact ⟨j, c, hc, hid⟩
  choose f c hc hid using hold
  have inj : Function.Injective f := by
    intro a b hab
    have e : c a = c b := holds_unique (hc a) (by rw [hab]; exact hc b)
    have e' : s.captureIds + BitVec.ofNat 8 a.val = s.captureIds + BitVec.ofNat 8 b.val := by
      rw [← hid a, ← hid b, e]
    have e'' := congrArg BitVec.toNat ((BitVec.add_right_inj _).mp e')
    simp only [BitVec.toNat_ofNat] at e''
    have := a.isLt
    have := b.isLt
    exact Fin.ext (by omega)
  obtain ⟨i, hi'⟩ := (Finite.injective_iff_surjective.mp inj) k
  have := hc i
  rw [hi'] at this
  unfold State.Holds at this
  rw [hk] at this
  cases this

theorem StoreSound.setPassage {s : State} (h : StoreSound s) (t : Track) (p : Passage) :
    StoreSound (s.setPassage t p) := h.congr ⟨rfl, rfl, rfl, fun _ => rfl, fun _ => rfl, rfl⟩ rfl

theorem StoreSound.modTrack {s : State} (h : StoreSound s) (t : Track) (f : TrackRec → TrackRec) :
    StoreSound (s.modTrack t f) := h.congr ⟨rfl, rfl, rfl, fun _ => rfl, fun _ => rfl, rfl⟩ rfl

theorem StoreSound.reportWindow {s : State} (h : StoreSound s) (t : Track) (cam : Fin 4) (panto : Nat)
    (o : PlanOutcome) : StoreSound (reportWindow t cam panto o s) := by
  unfold Machine.reportWindow
  split
  · exact h
  · exact h.setPassage _ _

/-- A capture is created in a free slot, with an id that no slot holds, on a channel with no OPEN window. -/
theorem StoreSound.createCapture {s : State} (h : StoreSound s) (k : Fin 32) (o : Opening)
    (hk : s.slots[k] = none) (hid : s.slotOf o.id = none)
    (hno : s.channels[o.camera].openWindow = none) : StoreSound (createCapture k o s) := by
  unfold Machine.createCapture
  apply StoreSound.reportWindow
  generalize ht : ({ s with
    captureIds := o.id + 1
    slots := upd s.slots k fun _ => some (newCapture s o)
    condRecords := upd s.condRecords k fun _ => some (newCondRecord s o)
    workSets := match o.workSet with
      | none => s.workSets
      | some w => upd s.workSets w fun _ => some (newWorkSet k o)
    unprofiled := if o.site.role = .profile ∧ o.workSet = none then s.unprofiled ++ [o.id] else s.unprofiled
    channels := upd s.channels o.camera fun c => { c with openWindow := some (newOpenWindow o) } } : State) = t
  have tslots : t.slots = upd s.slots k fun _ => some (newCapture s o) := by rw [← ht]
  have tsender : t.sender = s.sender := by rw [← ht]
  have tdel : t.delivery = s.delivery := by rw [← ht]
  have tports : t.ports = s.ports := by rw [← ht]
  have tchan : t.channels = upd s.channels o.camera fun c => { c with openWindow := some (newOpenWindow o) } := by
    rw [← ht]
  have tup : t.uplink = s.uplink := by rw [← ht]
  have tfree : t.freeList = s.freeList := by rw [← ht]
  clear ht
  generalize hn : newCapture s o = c at tslots
  have cid : c.id = o.id := by rw [← hn]; rfl
  have ccam : c.camera = o.camera := by rw [← hn]; rfl
  have cst : c.state = .opened := by rw [← hn]; rfl
  have cch : c.chain = [] := by rw [← hn]; rfl
  have csto : c.stored = 0 := by rw [← hn]; rfl
  clear hn
  have holds : ∀ j d, t.Holds j d ↔ if j = k then c = d else s.Holds j d := by
    intro j d
    rw [holds_upd tslots]
    split <;> simp
  have mine : t.Holds k c := by rw [holds, if_pos rfl]
  have others : ∀ {j d}, j ≠ k → (t.Holds j d ↔ s.Holds j d) := by
    intro j d hj; rw [holds, if_neg hj]
  have keep : ∀ {j d}, s.Holds j d → t.Holds j d := by
    intro j d hd
    refine (others ?_).mpr hd
    intro e; subst e
    unfold State.Holds at hd; rw [hk] at hd; cases hd
  have fresh : ∀ j d, s.Holds j d → d.id ≠ o.id := by
    intro j d hd e
    obtain ⟨i, hi⟩ := slotOf_isSome hd e
    rw [hid] at hi; cases hi
  have hdel := h.captures.delivery
  refine ⟨⟨?_, ⟨?_, ?_, ?_, ?_, ?_⟩, ⟨?_, ?_⟩⟩, ⟨?_, ?_, ?_⟩, ⟨?_, ?_⟩, ?_⟩
  · intro i j a b ha hb hab
    by_cases hi : i = k <;> by_cases hj : j = k
    · rw [hi, hj]
    · subst hi; rw [← holds_unique mine ha, cid] at hab
      exact absurd hab.symm (fresh j b ((others hj).mp hb))
    · subst hj; rw [← holds_unique mine hb, cid] at hab
      exact absurd hab (fresh i a ((others hi).mp ha))
    · exact h.captures.ids i j a b ((others hi).mp ha) ((others hj).mp hb) hab
  · rw [tdel]; exact hdel.nodup
  · rw [tdel]; intro x hx
    obtain ⟨j, d, hd, hdid, hset⟩ := hdel.settled x hx
    exact ⟨j, d, keep hd, hdid, hset⟩
  · rw [tdel]; intro j d hd hset
    by_cases hj : j = k
    · subst hj
      rw [← holds_unique mine hd] at hset
      unfold Capture.Settled at hset
      rw [cst] at hset
      rcases hset with x | x <;> cases x
    · exact hdel.joined j d ((others hj).mp hd) hset
  · rw [tdel, tsender]; intro x hx
    obtain ⟨hh, j, d, hd, hdid, hs'⟩ := hdel.head x hx
    exact ⟨hh, j, d, keep hd, hdid, hs'⟩
  · rw [tsender]; intro j d hd hs'
    by_cases hj : j = k
    · subst hj; rw [← holds_unique mine hd, cst] at hs'; cases hs'
    · exact hdel.oneSends j d ((others hj).mp hd) hs'
  · rw [tports]; intro cam e x he hx
    obtain ⟨j, d, hd, hdid, hcam, hl⟩ := h.captures.tags.entries cam e x he hx
    exact ⟨j, d, keep hd, hdid, hcam, hl⟩
  · rw [tchan]; intro cam w hw
    rw [upd_get] at hw
    split at hw
    · rename_i e; subst e
      cases hw
      exact ⟨k, c, mine, cid, ccam, cst⟩
    · obtain ⟨j, d, hd, hdid, hcam, hl⟩ := h.captures.tags.windows cam w hw
      exact ⟨j, d, keep hd, hdid, hcam, hl⟩
  · rw [tsender, tup]; intro j d hd hs'
    by_cases hj : j = k
    · subst hj; rw [← holds_unique mine hd, cst] at hs'; cases hs'
    · exact h.sender.sending j d ((others hj).mp hd) hs'
  · rw [tsender, tup]; exact h.sender.busy
  · rw [tsender]; exact h.sender.idle
  · intro j d hd hs'
    by_cases hj : j = k
    · subst hj; rw [← holds_unique mine hd, cch, csto]; rfl
    · exact h.chains.held j d ((others hj).mp hd) hs'
  · rw [tsender]; intro j d hd hs'
    by_cases hj : j = k
    · subst hj; rw [← holds_unique mine hd, cst] at hs'; cases hs'
    · exact h.chains.sent j d ((others hj).mp hd) hs'
  · intro x
    have hu := timesHeld_upd tslots x
    rw [hk, tfree] at hu
    rw [← h.segments x]
    simp only [chainIn, cch, List.count_nil] at hu
    omega

theorem StoreSound.takeSlot {s : State} (h : StoreSound s) (t : Track) (cam : Fin 4) (site : SiteCamera)
    (p : Passage) (head : HeadClass) (w : Window) (hno : s.channels[cam].openWindow = none) :
    StoreSound (takeSlot t cam site p head w s) := by
  unfold Machine.takeSlot
  split
  · exact h.reportWindow ..
  · rename_i k hk
    exact h.createCapture k _ (freeSlot_free hk) (freeCaptureId_free h.captures.ids (freeSlot_free hk)) hno

/-- After a channel's window is closed the channel has no OPEN window. -/
theorem closeWindow_openWindow (cam : Fin 4) (r : CloseReason) (s : State) :
    (closeWindow cam r s).channels[cam].openWindow = none := by
  unfold closeWindow
  split
  · assumption
  · rw [(closeCapture_keeps ..).channels, State.modChannel_channels, upd_get_same]

theorem StoreSound.openWindow {s : State} (h : StoreSound s) (t : Track) (cam : Fin 4) (site : SiteCamera)
    (p : Passage) (w : Window) : StoreSound (openWindow t cam site p w s) := by
  unfold Machine.openWindow
  split
  · exact h
  · exact (h.closeWindow cam .cut).takeSlot _ _ _ _ _ _ (closeWindow_openWindow ..)

theorem StoreSound.examineWindows {s : State} (h : StoreSound s) (t : Track) (cam : Fin 4)
    (site : SiteCamera) (p : Passage) (travel : Nat) (ws : List Window) :
    StoreSound (examineWindows t cam site p travel ws s) := by
  induction ws generalizing s with
  | nil => exact h.modChannel _ _ (.inl rfl)
  | cons w rest ih =>
    unfold Machine.examineWindows
    split
    · exact ih (h.reportWindow ..)
    · split
      · exact (h.modChannel _ _ (.inl rfl)).openWindow ..
      · exact h.modChannel _ _ (.inl rfl)

theorem StoreSound.closeReached {s : State} (h : StoreSound s) (cam : Fin 4) (travel : Nat) :
    StoreSound (closeReached cam travel s) := by
  unfold Machine.closeReached
  repeat (first | exact h | exact h.closeWindow .. | split)

/-- The tag of a trigger: the OPEN window keeps its capture (R85). -/
theorem StoreSound.tagTrigger {s : State} (h : StoreSound s) (cam : Fin 4) (pitch : Bool) :
    StoreSound (tagTrigger cam pitch s) := by
  unfold Machine.tagTrigger
  split
  · exact h
  rename_i w hw
  have counted : StoreSound (s.modChannel cam fun c => { c with openWindow := some { w with tagged := w.tagged + 1 } }) := by
    refine ⟨⟨h.captures.ids, ?_, ⟨h.captures.tags.entries, ?_⟩⟩, ?_, ?_, h.segments⟩
    · exact ⟨h.captures.delivery.nodup, h.captures.delivery.settled, h.captures.delivery.joined,
        h.captures.delivery.head, h.captures.delivery.oneSends⟩
    · intro c x hx
      rw [State.modChannel_channels, upd_get] at hx
      split at hx
      · rename_i e; subst e; cases hx
        exact h.captures.tags.windows _ w hw
      · exact h.captures.tags.windows c x hx
    · exact ⟨h.sender.sending, h.sender.busy, h.sender.idle⟩
    · exact ⟨h.chains.held, h.chains.sent⟩
  dsimp only
  split
  · exact counted
  · exact counted.modSlotSame _ _ fun c => .of_state rfl rfl rfl rfl rfl

theorem StoreSound.issueTrigger {s : State} (h : StoreSound s) (cam : Fin 4) (site : SiteCamera) (travel : Nat) :
    StoreSound (issueTrigger cam site travel s) := by
  unfold Machine.issueTrigger
  refine (h.modChannel cam _ (.inl rfl)).portTrigger cam _ ?_
  rw [State.modChannel_channels, upd_get_same]
  rfl

theorem StoreSound.triggerNow {s : State} (h : StoreSound s) (cam : Fin 4) : StoreSound (triggerNow cam s) := by
  unfold Machine.triggerNow
  split
  · exact h
  · split
    · split
      · unfold takeTrigger
        exact ((((h.modChannel _ _ (.inl rfl)).closeReached _ _).examineWindows ..).tagTrigger _ _).issueTrigger ..
      · exact h
    · exact h

end Sys2Proof.Machine
end

