-- ==== Sys2Proof/Laws/Commands.lean ====
section
/-! SUPPORT. The frame of every command, and the interpreter: what `atOnce`, `timed`, `interpret` and `runCommand` do,
said once. -/

namespace Sys2Proof.Machine

theorem atOnce_awake (f : State → State) {s : State} (h : s.rstnLow = false) : atOnce f s = .next (f s) := by
  unfold atOnce
  rw [h]
  rfl

theorem atOnce_held (f : State → State) {s : State} (h : s.rstnLow = true) : atOnce f s = .next s := by
  unfold atOnce
  rw [h]
  rfl

@[simp] theorem pass_rstnLow (s : State) (ns : Nat) : (s.pass ns).rstnLow = s.rstnLow := by
  unfold State.pass
  split <;> rfl

theorem pass_held {s : State} (ns : Nat) (h : s.rstnLow = true) : s.pass ns = s := by
  unfold State.pass
  rw [if_pos h]

theorem timed_awake (after : Nat) (f : State → State) {s : State} (h : s.rstnLow = false) :
    timed after f s = .next (f (s.pass after)) := atOnce_awake f (by rw [pass_rstnLow, h])

theorem timed_held (after : Nat) (f : State → State) {s : State} (h : s.rstnLow = true) :
    timed after f s = .next s := by
  unfold timed
  rw [pass_held after h]
  exact atOnce_held f h

/-- A property that the effect keeps, the command keeps. -/
theorem atOnce_keeps {P : State → Prop} {f : State → State} {s t : State} (h : P s) (hf : P s → P (f s))
    (e : atOnce f s = .next t) : P t := by
  unfold atOnce at e
  cases e
  split
  · exact h
  · exact hf h

/-- The next command when the interpreter is ready (R185). -/
theorem nextCommand_ready {s : State} {c : Command} {rest : List Command} (h : s.Ready c rest) :
    nextCommand s.uplink = some c := by
  unfold nextCommand replyPlaces
  rw [if_pos ⟨h.running, h.room⟩, h.head]
  rfl

theorem popCommand_ready {s : State} {c : Command} {rest : List Command} (h : s.Ready c rest) :
    s.modUplink (Uplink.popCommand c) = s.taken c rest := by
  unfold State.modUplink Uplink.popCommand State.taken
  rw [h.head]
  rfl

/-- One execution (R185): the command taken, the owner's effect, the reply queued. -/
theorem interpret_ready {s : State} {c : Command} {rest : List Command} (h : s.Ready c rest)
    (mine : Command → Bool) (owner : Owner) :
    interpret mine owner s =
      if mine c then
        (owner c.params (s.taken c rest)).1.replied c (owner c.params (s.taken c rest)).2.status
          (owner c.params (s.taken c rest)).2.index (owner c.params (s.taken c rest)).2.body
      else s := by
  unfold interpret runCommand
  rw [nextCommand_ready h]
  dsimp only
  rw [popCommand_ready h]
  rfl

/-- No command is executed while the interpreter waits. -/
theorem interpret_waits {s : State} (h : nextCommand s.uplink = none) (mine : Command → Bool) (owner : Owner) :
    interpret mine owner s = s := by
  unfold interpret
  rw [h]

end Sys2Proof.Machine
end

