-- ==== Sys2Proof/Laws/Delivery.lean ====
section
/-! SUPPORT. The law of the frame store (`StoreSound`), continued: the stop and start of channels, crossings and
passages, the end of capture records, the grants, and the resets. -/

namespace Sys2Proof.Machine

/-- The uplink changes, the record in transmission does not. -/
theorem StoreSound.modUplink {s : State} (h : StoreSound s) (f : Uplink → Uplink)
    (hf : (f s.uplink).transmitter = s.uplink.transmitter) : StoreSound (s.modUplink f) :=
  h.congr ⟨rfl, rfl, rfl, fun _ => rfl, fun _ => rfl, hf⟩ rfl

/-! ### Channels and passages -/

theorem StoreSound.dropWindows {s : State} (h : StoreSound s) (t : Track) (cam : Fin 4) (r : DropReason)
    (ws : List Window) : StoreSound (dropWindows t cam r ws s) := by
  induction ws generalizing s with
  | nil => exact h.modChannel _ _ (.inl rfl)
  | cons w rest ih => exact ih (h.reportWindow ..)

theorem StoreSound.stopChannel {s : State} (h : StoreSound s) (t : Track) (r : DropReason) (cam : Fin 4) :
    StoreSound (stopChannel t r cam s) := by
  unfold Machine.stopChannel
  split
  · exact h
  · exact ((h.modChannel _ _ (.inl rfl)).closeWindow _ _).dropWindows ..

theorem StoreSound.foldl {s : State} (h : StoreSound s) (f : State → Fin 4 → State)
    (hf : ∀ s c, StoreSound s → StoreSound (f s c)) (cs : List (Fin 4)) : StoreSound (cs.foldl f s) := by
  induction cs generalizing s with
  | nil => exact h
  | cons c rest ih => exact ih (hf s c h)

theorem StoreSound.stopChannels {s : State} (h : StoreSound s) (t : Track) (r : DropReason) :
    StoreSound (stopChannels t r s) :=
  (inFreeOrder_induct (h.choose _) fun _ _ h => h.stopChannel ..).together _

theorem StoreSound.startChannel {s : State} (h : StoreSound s) (t : Track) (pace : Nat) (cam : Fin 4) :
    StoreSound (startChannel t pace cam s) := by
  unfold Machine.startChannel
  split
  · exact h
  · exact h.modChannel _ _ (.inr rfl)

theorem pushSummary_transmitter (x : Summary) (u : Uplink) : (u.pushSummary x).transmitter = u.transmitter := by
  unfold Uplink.pushSummary
  split <;> rfl

theorem StoreSound.endPassage {s : State} (h : StoreSound s) (t : Track) (r : EndReason) (d : EndTo) :
    StoreSound (endPassage t r d s) := by
  unfold Machine.endPassage
  dsimp only
  split
  · exact h.stopChannels _ _
  · exact (((h.stopChannels _ _).modTrack _ _).modUplink _ (pushSummary_transmitter ..)).together _

theorem StoreSound.planPassage {s : State} (h : StoreSound s) (t : Track) (i : Fin 32) (m : MatchState)
    (p : Passage) : StoreSound (planPassage t i m p s) := by
  unfold Machine.planPassage
  exact (h.setPassage _ _).foldl _ (fun _ _ h => h.modChannel _ _ (.inl rfl)) _

theorem StoreSound.applyDecision {s : State} (h : StoreSound s) (t : Track) (d : Decision) (p : Passage) :
    StoreSound (applyDecision t d p s) := by
  cases d
  · exact h.setPassage _ _
  · exact h.planPassage ..
  · exact h.planPassage ..

theorem StoreSound.appendAxle {s : State} (h : StoreSound s) (t : Track) (x : Crossing) (p : Passage) :
    StoreSound (appendAxle t x p s) := by
  unfold Machine.appendAxle matchSpacing
  repeat (first | exact h.setPassage _ _ | exact h.applyDecision .. | split | dsimp only)

theorem StoreSound.strayAxle {s : State} (h : StoreSound s) (t : Track) : StoreSound (strayAxle t s) :=
  h.modTrack _ _

theorem StoreSound.markReversed {s : State} (h : StoreSound s) (t : Track) : StoreSound (markReversed t s) := by
  unfold Machine.markReversed
  repeat (first | exact h | exact (h.setPassage _ _).stopChannels _ _ | split)

theorem StoreSound.crossActive {s : State} (h : StoreSound s) (t : Track) (site : SiteTrack) (x : Crossing)
    (p : Passage) : StoreSound (crossActive t site x p s) := by
  unfold Machine.crossActive axleIn axleOut backOut backIn
  dsimp only
  split
  · exact h.appendAxle ..
  · split
    · split
      · exact (h.setPassage _ _).endPassage ..
      · exact h.setPassage _ _
    · exact (h.setPassage _ _).strayAxle _
  · apply StoreSound.markReversed
    split
    · exact h.setPassage _ _
    · exact (h.setPassage _ _).strayAxle _
  · apply StoreSound.markReversed
    split
    · exact h.setPassage _ _
    · exact (h.setPassage _ _).strayAxle _

theorem StoreSound.startPassage {s : State} (h : StoreSound s) (t : Track) (x : Crossing) (pace : Nat) :
    StoreSound (startPassage t x pace s) := by
  unfold Machine.startPassage startChannels
  split
  · exact h
  · apply StoreSound.foldl
    · exact h.congr ⟨rfl, rfl, rfl, fun _ => rfl, fun _ => rfl, rfl⟩ rfl
    · exact fun _ _ h => h.startChannel ..

theorem StoreSound.takeCrossing {s : State} (h : StoreSound s) (t : Track) (x : Crossing) :
    StoreSound (takeCrossing t x s) := by
  unfold Machine.takeCrossing crossIdle
  repeat (first | exact h | exact h.strayAxle _ | exact h.crossActive .. | exact h.startPassage .. | split)

/-! ### The end of a capture record (R174, R175, R177) -/

/-- While a capture record is in transmission the sender has its capture, SENDING in its slot. -/
theorem StoreSound.sendingCapture {s : State} (h : StoreSound s) {x : Transmission}
    (hx : s.uplink.transmitter = some x) (hk : x.kind.isCapture = true) :
    ∃ k c, sendingCapture s = some (k, c) ∧ s.Holds k c ∧ c.state = .sending ∧ s.sender.capture = some c.id
      ∧ s.delivery.head? = some c.id := by
  have hin : s.sender.inTransmission = true := h.sender.busy.mpr ⟨x, hx, hk⟩
  cases hcap : s.sender.capture with
  | none => rw [h.sender.idle hcap] at hin; cases hin
  | some id =>
    obtain ⟨hhead, k, c, hc, hid, hst⟩ := h.captures.delivery.head id hcap
    subst hid
    have hslot := slotOf_eq h.captures.ids hc rfl
    unfold State.Holds at hc
    refine ⟨k, c, ?_, hc, hst, rfl, hhead⟩
    unfold Machine.sendingCapture
    rw [hcap]
    dsimp only
    rw [hslot]
    dsimp only
    rw [hc]
    rfl

/-- The transmitter becomes free after a record that is no capture record. -/
theorem StoreSound.freeTransmitter {s : State} (h : StoreSound s) (f : Uplink → Uplink)
    (hf : (f s.uplink).transmitter = none)
    (hx : ∀ x, s.uplink.transmitter = some x → x.kind.isCapture = false) : StoreSound (s.modUplink f) := by
  have hfree : ∀ u, (s.modUplink f).uplink.transmitter = some u → False := by
    intro u hu
    rw [State.modUplink_uplink, hf] at hu
    cases hu
  refine ⟨⟨h.captures.ids, ?_, ⟨h.captures.tags.entries, h.captures.tags.windows⟩⟩, ⟨?_, ?_, h.sender.idle⟩,
    ⟨h.chains.held, h.chains.sent⟩, h.segments⟩
  · exact ⟨h.captures.delivery.nodup, h.captures.delivery.settled, h.captures.delivery.joined,
      h.captures.delivery.head, h.captures.delivery.oneSends⟩
  · intro k c hc hst
    obtain ⟨h1, h2, _⟩ := h.sender.sending k c hc hst
    exact ⟨h1, h2, fun u hu _ => (hfree u hu).elim⟩
  · constructor
    · intro hin
      obtain ⟨x, hx', hk⟩ := h.sender.busy.mp hin
      rw [hx x hx'] at hk
      cases hk
    · rintro ⟨u, hu, _⟩
      exact (hfree u hu).elim

/-- The sender's record changes after its record in transmission has ended: the rows sent and the next record fit the
capture, and the chain is as long as the rows yet unsent need. `d` is the capture after the change. -/
theorem StoreSound.sent {s t : State} (h : StoreSound s) {k : Fin 32} {c d : Capture} (hc : s.Holds k c)
    (hst : c.state = .sending) (hslots : t.slots = upd s.slots k (Option.map fun _ => d))
    (hd : SameIdentity c d) (hstored : d.stored = c.stored) (hdel : t.delivery = s.delivery)
    (hcap : t.sender.capture = s.sender.capture) (hports : t.ports = s.ports) (hchan : t.channels = s.channels)
    (htx : t.uplink.transmitter = none) (hidle : t.sender.inTransmission = false)
    (hrows : t.sender.rowsSent ≤ c.stored) (hnext : nextSound c.stored t.sender.rowsSent t.sender.next)
    (hlen : d.chain.length = segmentsLeft c.stored t.sender.rowsSent)
    (hseg : ∀ g, t.freeList.count g + d.chain.count g = s.freeList.count g + c.chain.count g) : StoreSound t := by
  have hc' := hc
  unfold State.Holds at hc'
  have holds : ∀ j e, t.Holds j e ↔ if j = k then d = e else s.Holds j e := by
    intro j e
    rw [holds_upd hslots, hc']
    simp only [Option.map_some, Option.some.injEq]
  have only : ∀ j e, s.Holds j e → e.state = .sending → j = k := by
    intro j e he hse
    have h1 := h.captures.delivery.oneSends j e he hse
    rw [h.captures.delivery.oneSends k c hc hst] at h1
    exact h.captures.ids j k e c he hc (Option.some.inj h1).symm
  have ident : SlotsBy SameIdentity s t := by
    refine .of_upd hslots .refl fun x hx => ?_
    rw [holds_unique hx hc]
    exact hd
  have open_ : SlotsBy (fun c d => d.id = c.id ∧ d.camera = c.camera ∧ (c.state = .opened → d.state = .opened)) s t := by
    refine .of_upd hslots (fun _ => ⟨rfl, rfl, id⟩) fun x hx => ?_
    rw [holds_unique hx hc]
    exact ⟨hd.id, hd.camera, fun e => by rw [hst] at e; cases e⟩
  refine ⟨h.captures.same ident hdel hcap (fun _ => by rw [hports])
      (h.captures.tags.windowsBy open_ (fun _ _ r => r) fun _ => by rw [hchan]), ⟨?_, ?_, ?_⟩, ⟨?_, ?_⟩, ?_⟩
  · intro j e he hse
    rw [holds] at he
    split at he
    · subst he
      rw [hstored]
      exact ⟨hrows, hnext, fun u hu => by rw [htx] at hu; cases hu⟩
    · rename_i hj
      exact absurd (only j e he hse) hj
  · rw [hidle, htx]
    simp
  · intro _
    exact hidle
  · intro j e he hse
    rw [holds] at he
    split at he
    · subst he
      exact absurd (hd.sending.mpr hst) hse
    · exact h.chains.held j e he hse
  · intro j e he hse
    rw [holds] at he
    split at he
    · subst he
      rw [hstored]
      exact hlen
    · rename_i hj
      exact absurd (only j e he hse) hj
  · intro g
    have hu := timesHeld_upd hslots g
    rw [hc'] at hu
    simp only [chainIn, Option.map_some] at hu
    have := hseg g
    rw [← h.segments g]
    omega

/-- Once the last row of a capture is sent its chain is empty. -/
theorem segmentsLeft_self (stored : Nat) : segmentsLeft stored stored = 0 := by
  unfold segmentsLeft
  simp

/-- The segments left after a ROW-BLOCK: one fewer when the block carried the last row of a segment (R172, R174). -/
theorem segmentsLeft_block {stored b : Nat} (hb : 4 * b < stored) :
    segmentsLeft stored (4 * b)
      = segmentsLeft stored (4 * b + blockRows stored b)
        + if endsSegment stored (4 * b + blockRows stored b) then 1 else 0 := by
  unfold segmentsLeft endsSegment blockRows rowsPerSegment
  by_cases hlast : stored ≤ 4 * b + 4
  · have hmin : min 4 (stored - 4 * b) = stored - 4 * b := by omega
    have hsum : 4 * b + (stored - 4 * b) = stored := by omega
    rw [hmin, hsum]
    simp only [le_refl, if_true, beq_self_eq_true, Bool.or_true]
    rw [if_neg (by omega)]
    omega
  · have hmin : min 4 (stored - 4 * b) = 4 := by omega
    rw [hmin, if_neg (by omega), if_neg (by omega)]
    have hne : ((4 * b + 4 == stored) = true) ↔ False := by simp; omega
    simp only [Bool.or_eq_true, hne, or_false, beq_iff_eq]
    split <;> omega

/-- A ROW-BLOCK carries at least one row and no more than are left. -/
theorem blockRows_bounds {stored b : Nat} (hb : 4 * b < stored) :
    1 ≤ blockRows stored b ∧ 4 * b + blockRows stored b ≤ stored := by
  unfold blockRows
  omega

/-- The sender's capture does not depend on the uplink. -/
theorem sendingCapture_modUplink (s : State) (f : Uplink → Uplink) :
    sendingCapture (s.modUplink f) = sendingCapture s := rfl

/-- The slot of a sent capture is freed (R175). -/
theorem StoreSound.freeSlotOf {s : State} (h : StoreSound s) {k : Fin 32} {c : Capture} (hc : s.Holds k c)
    (hst : c.state = .sending) (hhead : s.delivery.head? = some c.id) (hchain : c.chain = [])
    (f : Uplink → Uplink) (hf : (f s.uplink).transmitter = none) :
    StoreSound (freeSlotOf k (s.modUplink f)) := by
  have hc' := hc
  unfold State.Holds at hc'
  generalize ht : Machine.freeSlotOf k (s.modUplink f) = t
  have tslots : t.slots = upd s.slots k fun _ => none := by rw [← ht]; rfl
  have tdel : t.delivery = s.delivery.tail := by rw [← ht]; rfl
  have tports : t.ports = s.ports := by rw [← ht]; rfl
  have tchan : t.channels = s.channels := by rw [← ht]; rfl
  have tfree : t.freeList = s.freeList := by rw [← ht]; rfl
  have tcap : t.sender.capture = none := by rw [← ht]; rfl
  have tin : t.sender.inTransmission = false := by rw [← ht]; rfl
  have ttx : t.uplink.transmitter = none := by rw [← ht]; exact hf
  clear ht
  have holds : ∀ j e, t.Holds j e ↔ j ≠ k ∧ s.Holds j e := by
    intro j e
    rw [holds_upd tslots]
    split
    · rename_i hj; simp [hj]
    · rename_i hj; simp [hj]
  have other : ∀ j e, s.Holds j e → e.state ≠ .sending → j ≠ k := by
    intro j e he hse hj
    subst hj
    rw [holds_unique he hc] at hse
    exact hse hst
  have nosend : ∀ j e, t.Holds j e → e.state ≠ .sending := by
    intro j e he hse
    obtain ⟨hj, he⟩ := (holds j e).mp he
    have h1 := h.captures.delivery.oneSends j e he hse
    rw [h.captures.delivery.oneSends k c hc hst] at h1
    exact hj (h.captures.ids j k e c he hc (Option.some.inj h1).symm)
  obtain ⟨rest, hrest⟩ : ∃ rest, s.delivery = c.id :: rest := by
    cases hq : s.delivery with
    | nil => rw [hq] at hhead; cases hhead
    | cons a rest => rw [hq] at hhead; cases hhead; exact ⟨rest, rfl⟩
  have hnodup := h.captures.delivery.nodup
  rw [hrest] at tdel hnodup
  obtain ⟨hnot, hnodup⟩ := List.nodup_cons.mp hnodup
  refine ⟨⟨?_, ⟨?_, ?_, ?_, ?_, ?_⟩, ⟨?_, ?_⟩⟩, ⟨?_, ?_, ?_⟩, ⟨?_, ?_⟩, ?_⟩
  · intro i j a b ha hb hid
    exact h.captures.ids i j a b ((holds i a).mp ha).2 ((holds j b).mp hb).2 hid
  · rw [tdel]; exact hnodup
  · rw [tdel]; intro id hid
    obtain ⟨j, e, he, heid, hset⟩ := h.captures.delivery.settled id (by rw [hrest]; exact List.mem_cons_of_mem _ hid)
    refine ⟨j, e, (holds j e).mpr ⟨?_, he⟩, heid, hset⟩
    intro hj
    subst hj
    rw [holds_unique he hc] at heid
    exact hnot (heid ▸ hid)
  · rw [tdel]; intro j e he hset
    obtain ⟨hj, he⟩ := (holds j e).mp he
    have := h.captures.delivery.joined j e he hset
    rw [hrest] at this
    rcases List.mem_cons.mp this with e1 | e1
    · exact absurd (h.captures.ids j k e c he hc e1) hj
    · exact e1
  · rw [tcap]; intro id hid; cases hid
  · intro j e he hse; exact absurd hse (nosend j e he)
  · rw [tports]; intro cam x id hx hid
    obtain ⟨j, e, he, heid, hcam, hl⟩ := h.captures.tags.entries cam x id hx hid
    refine ⟨j, e, (holds j e).mpr ⟨other j e he ?_, he⟩, heid, hcam, hl⟩
    intro hse; unfold Capture.Live at hl; rw [hse] at hl; rcases hl with hl | hl <;> cases hl
  · rw [tchan]; intro cam w hw
    obtain ⟨j, e, he, heid, hcam, hl⟩ := h.captures.tags.windows cam w hw
    exact ⟨j, e, (holds j e).mpr ⟨other j e he (by rw [hl]; decide), he⟩, heid, hcam, hl⟩
  · intro j e he hse; exact absurd hse (nosend j e he)
  · rw [tin, ttx]; simp
  · intro _; exact tin
  · intro j e he hse; exact h.chains.held j e ((holds j e).mp he).2 hse
  · intro j e he hse; exact absurd hse (nosend j e he)
  · intro g
    have hu := timesHeld_upd tslots g
    rw [hc', tfree] at hu
    simp only [chainIn, hchain, List.count_nil] at hu
    rw [← h.segments g]
    omega

/-- The transmitter becomes free, and the sender takes the end of the record that was in it (R174, R175, R177). -/
theorem StoreSound.senderEnd {s : State} (h : StoreSound s) {x : Transmission} (hx : s.uplink.transmitter = some x)
    (f : Uplink → Uplink) (hf : (f s.uplink).transmitter = none) :
    StoreSound (senderEnd x.kind (s.modUplink f)) := by
  by_cases hk : x.kind.isCapture = true
  swap
  · have hfree := h.freeTransmitter f hf fun y hy => by
      rw [hx] at hy; cases hy; simpa using hk
    unfold Machine.senderEnd
    split
    · exact hfree
    · cases hkind : x.kind <;> rw [hkind] at hk <;> first | exact hfree | (exact absurd rfl hk)
  obtain ⟨k, c, hsend, hc, hst, hcap, hhead⟩ := h.sendingCapture hx hk
  obtain ⟨hle, hnext, hmatch⟩ := h.sender.sending k c hc hst
  have hmatch := hmatch x hx hk
  have hlen := h.chains.sent k c hc hst
  have hc' := hc
  unfold State.Holds at hc'
  have keep : s.slots = upd s.slots k (Option.map fun _ => c) := by
    ext1 i hi
    have := upd_get s.slots k ⟨i, hi⟩ (Option.map fun _ => c)
    simp only [Fin.getElem_fin] at this hc'
    rw [this]
    split
    · rename_i e; subst e; rw [hc']; rfl
    · rfl
  unfold Machine.senderEnd
  rw [sendingCapture_modUplink, hsend]
  dsimp only
  cases hn : s.sender.next with
  | header =>
    rw [hn] at hnext hmatch
    have hk' : x.kind = .header := hmatch
    have hnext' : s.sender.rowsSent = 0 := hnext
    rw [hk']
    dsimp only
    refine h.sent hc hst (d := c) ?_ (.refl c) rfl rfl rfl rfl rfl hf rfl ?_ ?_ ?_ fun _ => rfl
    · exact keep
    · exact hle
    · show nextSound c.stored s.sender.rowsSent (if c.stored = 0 then .captureEnd else .block 0)
      rw [hnext']
      split
      · rename_i e; exact e.symm
      · exact ⟨rfl, by omega⟩
    · exact hlen
  | block b =>
    rw [hn] at hnext hmatch
    have hk' : x.kind = .block (blockRows c.stored b) := hmatch
    obtain ⟨hrows, hlt⟩ : s.sender.rowsSent = 4 * b ∧ s.sender.rowsSent < c.stored := hnext
    rw [hrows] at hlt hlen
    obtain ⟨hone, hfits⟩ := blockRows_bounds hlt
    rw [hk']
    dsimp only
    have hleft := segmentsLeft_block hlt
    have hns : nextSound c.stored (4 * b + blockRows c.stored b)
        (nextAfterBlock c.stored (4 * b + blockRows c.stored b) (.block b)) := by
      unfold nextAfterBlock
      dsimp only
      split
      · rename_i hmore
        refine ⟨?_, hmore⟩
        unfold blockRows at hmore ⊢
        omega
      · show 4 * b + blockRows c.stored b = c.stored
        omega
    have sndr : (s.modUplink f).sender = s.sender := rfl
    rw [sndr, hrows]
    split
    · rename_i hends
      rw [hends, if_pos rfl] at hleft
      obtain ⟨g, rest, hchain⟩ : ∃ g rest, c.chain = g :: rest := by
        cases hch : c.chain with
        | nil => rw [hch] at hlen; simp only [List.length_nil] at hlen; omega
        | cons g rest => exact ⟨g, rest, rfl⟩
      unfold Machine.releaseHead
      have hslot : ({ s.modUplink f with sender := blockEnd c.stored (blockRows c.stored b) s.sender } : State).slots[k]
          = some c := hc'
      rw [hslot]
      dsimp only
      rw [hchain]
      dsimp only
      refine h.sent hc hst (d := { c with chain := rest }) ?_ (.of_state rfl rfl rfl) rfl rfl rfl rfl rfl hf rfl
        ?_ ?_ ?_ ?_
      · show upd s.slots k (Option.map fun c => { c with chain := rest }) = upd s.slots k (Option.map fun _ => { c with chain := rest })
        simp only [upd, hc', Option.map_some]
      · show s.sender.rowsSent + blockRows c.stored b ≤ c.stored
        omega
      · show nextSound c.stored (s.sender.rowsSent + blockRows c.stored b)
          (nextAfterBlock c.stored (s.sender.rowsSent + blockRows c.stored b) s.sender.next)
        rw [hrows, hn]; exact hns
      · show rest.length = segmentsLeft c.stored (s.sender.rowsSent + blockRows c.stored b)
        rw [hrows]
        rw [hchain] at hlen
        simp only [List.length_cons] at hlen
        omega
      · intro g'
        show (s.freeList ++ [g]).count g' + rest.count g' = s.freeList.count g' + c.chain.count g'
        rw [hchain, List.count_append, List.count_cons, List.count_cons]
        simp only [List.count_nil]
        omega
    · rename_i hends
      have hends' : endsSegment c.stored (4 * b + blockRows c.stored b) = false := by simpa using hends
      rw [hends'] at hleft
      refine h.sent hc hst (d := c) keep (.refl c) rfl rfl rfl rfl rfl hf rfl ?_ ?_ ?_ fun _ => rfl
      · show s.sender.rowsSent + blockRows c.stored b ≤ c.stored
        omega
      · show nextSound c.stored (s.sender.rowsSent + blockRows c.stored b)
          (nextAfterBlock c.stored (s.sender.rowsSent + blockRows c.stored b) s.sender.next)
        rw [hrows, hn]; exact hns
      · show c.chain.length = segmentsLeft c.stored (s.sender.rowsSent + blockRows c.stored b)
        rw [hrows, hlen, hleft]
        simp
  | captureEnd =>
    rw [hn] at hnext hmatch
    have hk' : x.kind = .captureEnd := hmatch
    have hrows : s.sender.rowsSent = c.stored := hnext
    rw [hrows, segmentsLeft_self] at hlen
    rw [hk']
    dsimp only
    exact (h.freeSlotOf hc hst hhead (List.length_eq_zero_iff.mp hlen) f hf).senderTake

/-! ### Grants (R173, R193) -/

/-- A record of the higher classes starts on a free transmitter. -/
theorem StoreSound.startOther {s : State} (h : StoreSound s) (hfree : s.uplink.transmitter = none) (f : Uplink → Uplink)
    (hf : ∀ x, (f s.uplink).transmitter = some x → x.kind.isCapture = false) : StoreSound (s.modUplink f) := by
  have hidle : s.sender.inTransmission = false := by
    cases hin : s.sender.inTransmission with
    | false => rfl
    | true =>
      obtain ⟨x, hx, _⟩ := h.sender.busy.mp hin
      rw [hfree] at hx; cases hx
  refine ⟨⟨h.captures.ids, ?_, ⟨h.captures.tags.entries, h.captures.tags.windows⟩⟩, ⟨?_, ?_, h.sender.idle⟩,
    ⟨h.chains.held, h.chains.sent⟩, h.segments⟩
  · exact ⟨h.captures.delivery.nodup, h.captures.delivery.settled, h.captures.delivery.joined,
      h.captures.delivery.head, h.captures.delivery.oneSends⟩
  · intro k c hc hst
    obtain ⟨h1, h2, _⟩ := h.sender.sending k c hc hst
    refine ⟨h1, h2, fun x hx hk => ?_⟩
    rw [hf x hx] at hk; cases hk
  · constructor
    · intro hin
      have : s.sender.inTransmission = true := hin
      rw [hidle] at this; cases this
    · rintro ⟨x, hx, hk⟩
      rw [hf x hx] at hk; cases hk

/-- The sender's offer is granted on a free transmitter (R173). -/
theorem StoreSound.grantCapture {s : State} (h : StoreSound s) : StoreSound (grantCapture s) := by
  unfold Machine.grantCapture
  split
  · exact h
  rename_i k c hsend
  split
  swap
  · exact h
  obtain ⟨id, hcap, hslot, hc⟩ : ∃ id, s.sender.capture = some id ∧ s.slotOf id = some k ∧ s.Holds k c := by
    unfold Machine.sendingCapture at hsend
    split at hsend
    · cases hsend
    · rename_i id hcap
      split at hsend
      · cases hsend
      · rename_i j hslot
        cases hj : s.slots[j] with
        | none => rw [hj] at hsend; cases hsend
        | some d =>
          rw [hj] at hsend
          simp only [Option.map_some, Option.some.injEq, Prod.mk.injEq] at hsend
          obtain ⟨e1, e2⟩ := hsend
          subst e1; subst e2
          exact ⟨id, hcap, hslot, hj⟩
  have hst : c.state = .sending := by
    obtain ⟨_, j, d, hd, hid, hst⟩ := h.captures.delivery.head id hcap
    have := slotOf_eq h.captures.ids hd hid
    rw [hslot] at this
    cases this
    rw [holds_unique hc hd]; exact hst
  have only : ∀ j e, s.Holds j e → e.state = .sending → e = c := by
    intro j e he hse
    have h1 := h.captures.delivery.oneSends j e he hse
    rw [h.captures.delivery.oneSends k c hc hst] at h1
    have := h.captures.ids j k e c he hc (Option.some.inj h1).symm
    subst this
    exact holds_unique he hc
  refine ⟨⟨h.captures.ids, ?_, ⟨h.captures.tags.entries, h.captures.tags.windows⟩⟩, ⟨?_, ?_, ?_⟩,
    ⟨h.chains.held, h.chains.sent⟩, h.segments⟩
  · exact ⟨h.captures.delivery.nodup, h.captures.delivery.settled, h.captures.delivery.joined,
      h.captures.delivery.head, h.captures.delivery.oneSends⟩
  · intro j e he hse
    obtain ⟨h1, h2, _⟩ := h.sender.sending j e he hse
    refine ⟨h1, h2, fun x hx _ => ?_⟩
    rw [only j e he hse]
    dsimp only [Uplink.start] at hx
    cases hx
    unfold captureRecord kindMatches
    cases s.sender.next <;> rfl
  · refine ⟨fun _ => ⟨_, rfl, ?_⟩, fun _ => rfl⟩
    unfold captureRecord
    cases s.sender.next <;> rfl
  · intro e
    rw [hcap] at e; cases e

/-- A record of any class is granted on a free transmitter (R193). -/
theorem StoreSound.grantClass {s : State} (h : StoreSound s) (hfree : s.uplink.transmitter = none) (c : TxClass) :
    StoreSound (grantClass c s) := by
  have other := fun f hf => h.startOther hfree f hf
  cases c <;> unfold Machine.grantClass <;> dsimp only
  case capture => exact h.grantCapture
  all_goals
    split
    · exact h
    · exact other _ fun x hx => by cases hx; rfl

theorem StoreSound.grant {s : State} (h : StoreSound s) : StoreSound (grant s) := by
  unfold Machine.grant
  split
  · rename_i hcond
    unfold grantNext
    split
    · exact h
    · exact StoreSound.grantClass (s := s.chosen _) (h.choose _) hcond.2 _
  · exact h

/-! ### Resets and the passing of time -/

/-- A part with no capture, no tagged trigger, a free transmitter and all its segments free. -/
theorem StoreSound.of_empty {t : State} (hslots : t.slots = Vector.replicate 32 none) (hdel : t.delivery = [])
    (hcap : t.sender.capture = none) (hin : t.sender.inTransmission = false)
    (hports : ∀ c : Fin 4, t.ports[c].outstanding = []) (hchan : ∀ c : Fin 4, t.channels[c].openWindow = none)
    (htx : t.uplink.transmitter = none) (hfree : t.freeList = List.range 512) : StoreSound t := by
  have none_ : ∀ k c, ¬ t.Holds k c := by
    intro k c hc
    unfold State.Holds at hc
    rw [hslots, replicate_get] at hc
    cases hc
  refine ⟨⟨?_, ⟨?_, ?_, ?_, ?_, ?_⟩, ⟨?_, ?_⟩⟩, ⟨?_, ?_, ?_⟩, ⟨?_, ?_⟩, ?_⟩
  · intro j k c d hc; exact absurd hc (none_ j c)
  · rw [hdel]; exact List.nodup_nil
  · rw [hdel]; intro id hid; cases hid
  · intro k c hc; exact absurd hc (none_ k c)
  · rw [hcap]; intro id hid; cases hid
  · intro k c hc; exact absurd hc (none_ k c)
  · intro cam e id he; rw [hports] at he; cases he
  · intro cam w hw; rw [hchan] at hw; cases hw
  · intro k c hc; exact absurd hc (none_ k c)
  · rw [hin, htx]; simp
  · intro _; exact hin
  · intro k c hc; exact absurd hc (none_ k c)
  · intro k c hc; exact absurd hc (none_ k c)
  · intro g
    unfold timesHeld
    rw [hfree, hslots]
    simp only [replicate_get, chainIn, List.count_nil, Finset.sum_const_zero, Nat.add_zero]
    split
    · rename_i hg
      exact List.count_eq_one_of_mem List.nodup_range (List.mem_range.mpr hg)
    · rename_i hg
      exact List.count_eq_zero_of_not_mem fun hm => hg (List.mem_range.mp hm)

theorem StoreSound.hardReset (low : Bool) (s : State) : StoreSound (hardReset low s) := by
  refine .of_empty rfl rfl rfl rfl (fun c => ?_) (fun c => ?_) rfl (by simp only [Machine.hardReset, State.reset])
  · exact congrArg Port.outstanding (replicate_get Port.reset c)
  · exact congrArg Channel.openWindow (replicate_get Channel.reset c)

theorem StoreSound.softReset (s : State) : StoreSound (softReset s) := by
  refine .of_empty rfl rfl rfl rfl (fun c => ?_) (fun c => ?_) rfl (by simp only [Machine.softReset])
  · exact congrArg Port.outstanding (map_get s.ports c Port.softReset)
  · exact congrArg Channel.openWindow (map_get s.channels c Channel.softReset)

theorem StoreSound.pass {s : State} (h : StoreSound s) (ns : Nat) : StoreSound (s.pass ns) := by
  unfold State.pass
  split
  · exact h
  have hch : ∀ c : Fin 4, (s.channels.map (Channel.pass ns))[c].openWindow = s.channels[c].openWindow := by
    intro c
    rw [map_get]
    unfold Channel.pass
    split <;> rfl
  have hpo : ∀ c : Fin 4, (s.ports.map fun p : Port => { p with lane := p.lane.pass ns })[c].outstanding
      = s.ports[c].outstanding := fun c => by rw [map_get]
  refine ⟨⟨h.captures.ids, ?_, ⟨?_, ?_⟩⟩, ⟨?_, ?_, h.sender.idle⟩, ⟨h.chains.held, h.chains.sent⟩, h.segments⟩
  · exact ⟨h.captures.delivery.nodup, h.captures.delivery.settled, h.captures.delivery.joined,
      h.captures.delivery.head, h.captures.delivery.oneSends⟩
  · intro cam e id he
    rw [hpo] at he
    exact h.captures.tags.entries cam e id he
  · intro cam w hw
    rw [hch] at hw
    exact h.captures.tags.windows cam w hw
  · intro k c hc hst
    obtain ⟨h1, h2, h3⟩ := h.sender.sending k c hc hst
    refine ⟨h1, h2, fun x hx hk => ?_⟩
    dsimp only [Uplink.pass] at hx
    cases hy : s.uplink.transmitter with
    | none => rw [hy] at hx; cases hx
    | some y =>
      rw [hy] at hx
      cases hx
      exact h3 y hy hk
  · rw [show s.sender.inTransmission = true ↔ _ from h.sender.busy]
    dsimp only [Uplink.pass]
    cases s.uplink.transmitter with
    | none => simp
    | some y => simp

end Sys2Proof.Machine
end

