-- ==== Sys2Proof/Laws/Lanes.lean ====
section
/-! SUPPORT. The return lane: what the passing of time does to each kind of item, and that a span in two parts is the
span in one. -/

namespace Sys2Proof.Machine

/-- A lane that sends nothing goes on with what waits. -/
theorem ReturnLane.pass_idle (ns elapsed idle : Nat) (waiting : List Half) :
    ReturnLane.pass ns { item := none, elapsed := elapsed, waiting := waiting, idle := idle }
      = sendWaiting (idle + ns) waiting := rfl

/-- A lane that sends a token goes on with it. -/
theorem ReturnLane.pass_token (ns elapsed idle : Nat) (token : Half) (waiting : List Half) :
    ReturnLane.pass ns { item := some (.token token), elapsed := elapsed, waiting := waiting, idle := idle }
      = sendToken (elapsed + ns) token waiting := rfl

/-- A message leaves the lane at MESSAGE_SENT only. -/
theorem ReturnLane.pass_message (ns elapsed idle : Nat) (bytes : List Byte) (waiting : List Half) :
    ReturnLane.pass ns { item := some (.message bytes), elapsed := elapsed, waiting := waiting, idle := idle }
      = { item := some (.message bytes), elapsed := elapsed + ns, waiting := waiting, idle := idle } := rfl

theorem sendWaiting_pass (a b : Nat) (waiting : List Half) :
    (sendWaiting a waiting).pass b = sendWaiting (a + b) waiting := by
  induction waiting generalizing a with
  | nil => simp [sendWaiting, ReturnLane.pass, wordNs]; omega
  | cons t rest ih =>
    unfold sendWaiting
    split
    · rw [ReturnLane.pass_idle, sendWaiting]
    · rw [if_neg (by omega : ¬ a + b < wordNs)]
      split
      · rw [ReturnLane.pass_token, sendToken, show a - wordNs + b = a + b - wordNs by omega]
      · rw [if_neg (by omega : ¬ a + b - wordNs < tokenNs), ih]
        congr 1; omega

theorem sendToken_pass (a b : Nat) (token : Half) (waiting : List Half) :
    (sendToken a token waiting).pass b = sendToken (a + b) token waiting := by
  unfold sendToken
  split
  · rw [ReturnLane.pass_token, sendToken]
  · rw [if_neg (by omega : ¬ a + b < tokenNs), sendWaiting_pass]
    congr 1; omega

theorem ReturnLane.pass_pass (a b : Nat) (l : ReturnLane) : (l.pass a).pass b = l.pass (a + b) := by
  obtain ⟨item, elapsed, waiting, idle⟩ := l
  rcases item with _ | ⟨t⟩ | ⟨m⟩
  · rw [pass_idle, pass_idle, sendWaiting_pass, Nat.add_assoc]
  · rw [pass_token, pass_token, sendToken_pass, Nat.add_assoc]
  · rw [pass_message, pass_message, pass_message, Nat.add_assoc]

end Sys2Proof.Machine
end

