-- ==== Sys2Proof/Laws/Memory.lean ====
section
/-! SUPPORT. The frame store's laws: a written row reads back, every other row stays, and the canonical form is kept
(R160). -/

namespace Sys2Proof.Machine

/-- The row at a key after a write: the row written at its own key, the old one at every other. -/
theorem Memory.read_write (m : Memory) (key at_ : Nat) (row : StoredRow) :
    Memory.read (Memory.write m key row) at_ = if at_ = key then some row else Memory.read m at_ := by
  induction m with
  | nil => simp only [Memory.write, Memory.read, eq_comm]
  | cons e rest ih =>
    obtain ⟨k, r⟩ := e
    unfold Memory.write
    split
    · simp only [Memory.read, eq_comm]
    · split
      · rename_i h; subst h
        simp only [Memory.read]
        by_cases hk : key = at_
        · subst hk; simp
        · rw [if_neg hk, if_neg (fun e => hk e.symm), if_neg hk]
      · simp only [Memory.read, ih]
        by_cases hk : k = at_
        · subst hk
          rename_i h1 h2
          rw [if_pos rfl, if_neg (fun e => h2 e.symm), if_pos rfl]
        · rw [if_neg hk, if_neg hk]

theorem Memory.read_write_same (m : Memory) (key : Nat) (row : StoredRow) :
    Memory.read (Memory.write m key row) key = some row := by rw [read_write, if_pos rfl]

theorem Memory.read_write_other (m : Memory) {key at_ : Nat} (row : StoredRow) (h : at_ ≠ key) :
    Memory.read (Memory.write m key row) at_ = Memory.read m at_ := by rw [read_write, if_neg h]

/-- A bound below every key holds below every key after a write above it. -/
theorem Memory.write_above (m : Memory) {low key : Nat} (row : StoredRow) (hlow : low < key)
    (h : m.all (fun e => decide (low < e.1)) = true) :
    (Memory.write m key row).all (fun e => decide (low < e.1)) = true := by
  induction m with
  | nil => simpa [Memory.write] using hlow
  | cons e rest ih =>
    obtain ⟨k, r⟩ := e
    simp only [List.all_cons, Bool.and_eq_true, decide_eq_true_eq] at h
    unfold Memory.write
    split
    · simp only [List.all_cons, Bool.and_eq_true, decide_eq_true_eq]
      exact ⟨hlow, h.1, h.2⟩
    · split
      · simp only [List.all_cons, Bool.and_eq_true, decide_eq_true_eq]
        exact ⟨hlow, h.2⟩
      · simp only [List.all_cons, Bool.and_eq_true, decide_eq_true_eq]
        exact ⟨h.1, ih h.2⟩

/-- A write inside the frame store keeps the canonical form. -/
theorem Memory.write_wf (m : Memory) {key : Nat} (row : StoredRow) (hkey : key < 32768) (h : Memory.wf m = true) :
    Memory.wf (Memory.write m key row) = true := by
  induction m with
  | nil => simp [Memory.write, Memory.wf, hkey]
  | cons e rest ih =>
    obtain ⟨k, r⟩ := e
    simp only [Memory.wf, Bool.and_eq_true, decide_eq_true_eq] at h
    obtain ⟨⟨h1, h2⟩, h3⟩ := h
    unfold Memory.write
    split
    · rename_i hlt
      simp only [Memory.wf, Bool.and_eq_true, decide_eq_true_eq, List.all_cons]
      refine ⟨⟨hkey, hlt, ?_⟩, ⟨h1, h2⟩, h3⟩
      rw [List.all_eq_true] at h2 ⊢
      intro x hx
      have := h2 x hx
      simp only [decide_eq_true_eq] at this ⊢
      omega
    · split
      · rename_i heq; subst heq
        simp only [Memory.wf, Bool.and_eq_true, decide_eq_true_eq]
        exact ⟨⟨hkey, h2⟩, h3⟩
      · rename_i hlt hne
        simp only [Memory.wf, Bool.and_eq_true, decide_eq_true_eq]
        exact ⟨⟨h1, Memory.write_above rest row (by omega) h2⟩, ih h3⟩

/-- The frame store after power-on is in its canonical form. -/
theorem reset_store_wf : State.reset.store.wf = true := rfl

/-- The key of a row position of one of the 512 segments lies inside the store. -/
theorem rowKey_lt {segment position : Nat} (hs : segment < 512) (hp : position < 64) :
    rowKey segment position < 32768 := by
  unfold rowKey rowsPerSegment
  omega

/-- Different positions have different keys. -/
theorem rowKey_inj {g h p q : Nat} (hp : p < 64) (hq : q < 64) (e : rowKey g p = rowKey h q) : g = h ∧ p = q := by
  unfold rowKey rowsPerSegment at e
  omega

/-- What storing a row does (R166, R167): nothing in a free slot; TRUNC without a segment; else the row is written at
the tail of the chain, which takes the head of the free list at the first row of a segment. -/
theorem storeRow_cases (k : Fin 32) (row : StoredRow) (s : State) :
    (s.slots[k] = none ∧ storeRow k row s = s)
    ∨ ∃ c, s.slots[k] = some c ∧
      ((segmentFor s c = none ∧ storeRow k row s = s.modSlot k (Capture.raise .trunc))
      ∨ ∃ g, segmentFor s c = some g ∧ storeRow k row s =
          { s with
            store := s.store.write (rowKey g (c.stored % rowsPerSegment)) row
            freeList := if c.stored % rowsPerSegment = 0 then s.freeList.tail else s.freeList
            slots := upd s.slots k (Option.map (Capture.rowWritten g)) }) := by
  unfold storeRow
  cases hk : s.slots[k] with
  | none => exact .inl ⟨rfl, rfl⟩
  | some c =>
    refine .inr ⟨c, rfl, ?_⟩
    dsimp only
    cases hg : segmentFor s c with
    | none => exact .inl ⟨rfl, rfl⟩
    | some g => exact .inr ⟨g, rfl, rfl⟩

/-- Storing a row keeps the frame store in its canonical form while the segments in hand are of the 512. -/
theorem storeRow_wf {s : State} (h : StoreInRange s) (k : Fin 32) (row : StoredRow) :
    (storeRow k row s).store.wf = true := by
  rcases storeRow_cases k row s with ⟨_, e⟩ | ⟨c, hc, ⟨_, e⟩ | ⟨g, hg, e⟩⟩
  · rw [e]; exact h.store
  · rw [e]; exact h.store
  · rw [e]
    refine Memory.write_wf _ _ (rowKey_lt ?_ (Nat.mod_lt _ (by decide))) h.store
    unfold segmentFor at hg
    split at hg
    · exact h.freeList g (List.mem_of_head? hg)
    · exact h.chains k c hc g (List.mem_of_getLast? hg)

end Sys2Proof.Machine
end

