-- ==== Sys2Proof/Laws/Queues.lean ====
section
/-! SUPPORT. The bounds of the queues, operation by operation. -/

namespace Sys2Proof.Machine

/-- The bounds depend on the uplink and the ports alone. -/
theorem QueuesBounded.congr {s t : State} (h : QueuesBounded s) (hu : t.uplink = s.uplink)
    (hp : t.ports = s.ports) : QueuesBounded t := by
  cases h; constructor <;> simp_all

/-- A port that keeps within its bounds. -/
theorem QueuesBounded.modPort {s : State} (h : QueuesBounded s) (c : Fin 4) (f : Port → Port)
    (ho : (f s.ports[c]).outstanding.length ≤ 64) (hp : (f s.ports[c]).passQueue.length ≤ 4) :
    QueuesBounded (s.modPort c f) := by
  obtain ⟨h1, h2, h3, h4, h5, h6, h7⟩ := h
  refine ⟨h1, h2, h3, h4, h5, fun d => ?_, fun d => ?_⟩
  · rw [State.modPort_ports, upd_get]
    split
    · rename_i e; subst e; exact ho
    · exact h6 d
  · rw [State.modPort_ports, upd_get]
    split
    · rename_i e; subst e; exact hp
    · exact h7 d

/-- An uplink that keeps within its bounds. -/
theorem QueuesBounded.modUplink {s : State} (h : QueuesBounded s) (f : Uplink → Uplink)
    (hc : (f s.uplink).commands.length ≤ 4) (hr : (f s.uplink).replies.length ≤ 4)
    (ha : (f s.uplink).alerts.length ≤ 8) (hs : (f s.uplink).summaries.length ≤ 4)
    (hn : (f s.uplink).notes.length ≤ 8) : QueuesBounded (s.modUplink f) :=
  ⟨hc, hr, ha, hs, hn, h.outstanding, h.passQueues⟩

theorem QueuesBounded.storeRow {s : State} (h : QueuesBounded s) (k : Fin 32) (row : StoredRow) :
    QueuesBounded (storeRow k row s) := by
  unfold Machine.storeRow
  split
  · exact h
  · split
    · exact h.congr rfl rfl
    · exact h.congr rfl rfl

theorem QueuesBounded.profileRow {s : State} (h : QueuesBounded s) (w : Option (Fin 8)) (i travel : Nat)
    (px : List Byte) : QueuesBounded (profileRow w i travel px s) := by
  unfold Machine.profileRow
  split
  · exact h
  · exact h.congr rfl rfl

theorem QueuesBounded.senderTake {s : State} (h : QueuesBounded s) : QueuesBounded (senderTake s) := by
  unfold Machine.senderTake
  repeat (first | exact h | exact h.congr rfl rfl | split)

/-- The alert of a settled capture keeps the alert queue within its 8 places (R155). -/
theorem alertTest_bounded (now : Stamp) (c : Capture) (u : Uplink) (h : u.alerts.length ≤ 8) :
    (u.alertTest now c).alerts.length ≤ 8 := by
  unfold Uplink.alertTest Uplink.pushAlert alertPlaces
  split
  · exact h
  · split
    · simp; omega
    · exact h

theorem takeClose_bounded (now : Stamp) (c : Capture) (u : Uplink) (h : u.alerts.length ≤ 8) :
    (u.takeClose now c).alerts.length ≤ 8 := alertTest_bounded now c _ h

/-- A condition close changes the alert queue, the alerts-lost counter and the cumulative summary alone. -/
theorem takeClose_keeps (now : Stamp) (c : Capture) (u : Uplink) :
    u.takeClose now c = { u with
      alerts := (u.takeClose now c).alerts
      alertsLost := (u.takeClose now c).alertsLost
      cumulative := u.cumulative ||| c.conditions } := by
  unfold Uplink.takeClose Uplink.alertTest Uplink.pushAlert
  split
  · rfl
  · split <;> rfl

theorem QueuesBounded.takeClose {s : State} (h : QueuesBounded s) (now : Stamp) (c : Capture) :
    QueuesBounded (s.modUplink (Uplink.takeClose now c)) := by
  have e := takeClose_keeps now c s.uplink
  apply h.modUplink
  · rw [e]; exact h.commands
  · rw [e]; exact h.replies
  · exact takeClose_bounded now c _ h.alerts
  · rw [e]; exact h.summaries
  · rw [e]; exact h.notes

theorem QueuesBounded.conditionClose {s : State} (h : QueuesBounded s) (k : Fin 32) :
    QueuesBounded (conditionClose k s) := by
  unfold Machine.conditionClose
  split
  · exact h
  · rename_i c _
    apply QueuesBounded.senderTake
    exact (h.takeClose s.time (c.closed s.time (resultRecord s c))).congr rfl rfl

theorem QueuesBounded.tryComplete {s : State} (h : QueuesBounded s) (k : Fin 32) :
    QueuesBounded (tryComplete k s) := by
  unfold Machine.tryComplete
  repeat (first | exact h | exact h.conditionClose k | split)

theorem QueuesBounded.modSlot {s : State} (h : QueuesBounded s) (k : Fin 32) (f : Capture → Capture) :
    QueuesBounded (s.modSlot k f) := h.congr rfl rfl

theorem QueuesBounded.closeCapture {s : State} (h : QueuesBounded s) (id : CaptureId) (r : CloseReason) :
    QueuesBounded (closeCapture id r s) := by
  unfold Machine.closeCapture
  split
  · exact h
  · exact (h.modSlot _ _).tryComplete _

theorem QueuesBounded.receiveRow {s : State} (h : QueuesBounded s) (k : Fin 32) (e : Entry) (px : List Byte) :
    QueuesBounded (receiveRow k e px s) := by
  unfold Machine.receiveRow
  split
  · dsimp only
    split
    · exact ((h.modSlot _ _).storeRow _ _).profileRow _ _ _ _
    · exact (h.modSlot _ _).storeRow _ _
  · exact h

theorem QueuesBounded.missRow {s : State} (h : QueuesBounded s) (k : Fin 32) (e : Entry) :
    QueuesBounded (missRow k e s) := by
  unfold Machine.missRow
  split
  · split
    · exact (h.modSlot _ _).storeRow _ _
    · exact h.modSlot _ _
  · exact h

theorem QueuesBounded.together {t : State} (h : QueuesBounded t) (s : State) : QueuesBounded (together s t) :=
  together_induct h fun _ h =>
    ⟨h.commands, h.replies, h.alerts, h.summaries, h.notes, h.outstanding, h.passQueues⟩

theorem QueuesBounded.resolveEntry {s : State} (h : QueuesBounded s) (e : Entry) (how : Resolution) :
    QueuesBounded (resolveEntry e how s) := by
  unfold Machine.resolveEntry
  split
  · exact h
  · split
    · exact h
    · cases how
      · exact h.receiveRow _ _ _
      · exact h.missRow _ _

theorem QueuesBounded.takeHead {s : State} (h : QueuesBounded s) (cam : Fin 4) (how : Resolution) :
    QueuesBounded (takeHead cam how s) := by
  unfold Machine.takeHead
  split
  · exact h
  · rename_i e rest he
    apply QueuesBounded.resolveEntry
    have := h.outstanding cam
    rw [he] at this
    exact h.modPort _ _ (by simp [Port.popEntry] at *; omega) (h.passQueues cam)

theorem QueuesBounded.takeHeads {s : State} (h : QueuesBounded s) (cam : Fin 4) (hows : List Resolution) :
    QueuesBounded (takeHeads cam hows s) := by
  induction hows generalizing s with
  | nil => exact h
  | cons how rest ih => exact ih (h.takeHead _ _)

theorem QueuesBounded.completeCapture {s : State} (h : QueuesBounded s) (id : CaptureId) :
    QueuesBounded (completeCapture id s) := by
  unfold Machine.completeCapture
  split
  · exact h
  · exact h.tryComplete _

theorem QueuesBounded.resolveHeads {s : State} (h : QueuesBounded s) (cam : Fin 4) (hows : List Resolution) :
    QueuesBounded (resolveHeads cam hows s) :=
  (inFreeOrder_induct ((h.takeHeads cam hows).congr rfl rfl) fun _ _ h => h.completeCapture _).together _

theorem QueuesBounded.resolveHead {s : State} (h : QueuesBounded s) (cam : Fin 4) (how : Resolution) :
    QueuesBounded (resolveHead cam how s) := h.resolveHeads cam [how]

theorem QueuesBounded.expireHeads {s : State} (h : QueuesBounded s) (cam : Fin 4) : QueuesBounded (expireHeads cam s) :=
  h.resolveHeads _ _

theorem QueuesBounded.portTrigger {s : State} (h : QueuesBounded s) (cam : Fin 4) (e : Entry) :
    QueuesBounded (portTrigger cam e s) := by
  unfold Machine.portTrigger outstandingPlaces
  dsimp only
  split
  · exact h.modPort _ _ (by simp [Port.takeTrigger] at *; omega) (h.passQueues cam)
  · rename_i hl
    have hl' := h.outstanding cam
    refine (h.resolveHead cam .missing).modPort _ _ ?_ ?_
    · rw [resolveHead_ports]
      split
      · rename_i he; rw [he] at hl; simp at hl
      · rename_i he
        rw [he] at hl'
        rw [upd_get_same]
        simp only [Port.takeTrigger, Port.popEntry, List.length_append, List.length_cons, List.length_nil] at *
        omega
    · exact (h.resolveHead cam .missing).passQueues cam

theorem QueuesBounded.modChannel {s : State} (h : QueuesBounded s) (c : Fin 4) (f : Channel → Channel) :
    QueuesBounded (s.modChannel c f) := h.congr rfl rfl

theorem QueuesBounded.modTrack {s : State} (h : QueuesBounded s) (t : Track) (f : TrackRec → TrackRec) :
    QueuesBounded (s.modTrack t f) := h.congr rfl rfl

theorem QueuesBounded.setPassage {s : State} (h : QueuesBounded s) (t : Track) (p : Passage) :
    QueuesBounded (s.setPassage t p) := h.congr rfl rfl

theorem QueuesBounded.reportWindow {s : State} (h : QueuesBounded s) (t : Track) (cam : Fin 4) (panto : Nat)
    (o : PlanOutcome) : QueuesBounded (reportWindow t cam panto o s) := by
  unfold Machine.reportWindow
  split
  · exact h
  · exact h.setPassage _ _

theorem QueuesBounded.createCapture {s : State} (h : QueuesBounded s) (k : Fin 32) (o : Opening) :
    QueuesBounded (createCapture k o s) := by
  unfold Machine.createCapture
  apply QueuesBounded.reportWindow
  exact h.congr rfl rfl

theorem QueuesBounded.closeWindow {s : State} (h : QueuesBounded s) (cam : Fin 4) (r : CloseReason) :
    QueuesBounded (closeWindow cam r s) := by
  unfold Machine.closeWindow
  split
  · exact h
  · exact (h.modChannel _ _).closeCapture _ _

theorem QueuesBounded.takeSlot {s : State} (h : QueuesBounded s) (t : Track) (cam : Fin 4) (site : SiteCamera)
    (p : Passage) (head : HeadClass) (w : Window) : QueuesBounded (takeSlot t cam site p head w s) := by
  unfold Machine.takeSlot
  split
  · exact h.reportWindow ..
  · exact h.createCapture ..

theorem QueuesBounded.openWindow {s : State} (h : QueuesBounded s) (t : Track) (cam : Fin 4) (site : SiteCamera)
    (p : Passage) (w : Window) : QueuesBounded (openWindow t cam site p w s) := by
  unfold Machine.openWindow
  split
  · exact h
  · exact (h.closeWindow _ _).takeSlot ..

theorem QueuesBounded.examineWindows {s : State} (h : QueuesBounded s) (t : Track) (cam : Fin 4)
    (site : SiteCamera) (p : Passage) (travel : Nat) (ws : List Window) :
    QueuesBounded (examineWindows t cam site p travel ws s) := by
  induction ws generalizing s with
  | nil => exact h.modChannel _ _
  | cons w rest ih =>
    unfold Machine.examineWindows
    split
    · exact ih (h.reportWindow ..)
    · split
      · exact (h.modChannel _ _).openWindow ..
      · exact h.modChannel _ _

theorem QueuesBounded.closeReached {s : State} (h : QueuesBounded s) (cam : Fin 4) (travel : Nat) :
    QueuesBounded (closeReached cam travel s) := by
  unfold Machine.closeReached
  repeat (first | exact h | exact h.closeWindow .. | split)

theorem QueuesBounded.tagTrigger {s : State} (h : QueuesBounded s) (cam : Fin 4) (pitch : Bool) :
    QueuesBounded (tagTrigger cam pitch s) := by
  unfold Machine.tagTrigger
  split
  · exact h
  · dsimp only
    split
    · exact h.modChannel _ _
    · exact (h.modChannel _ _).modSlot _ _

theorem QueuesBounded.takeTrigger {s : State} (h : QueuesBounded s) (cam : Fin 4) (t : Track) (site : SiteCamera)
    (p : Passage) (period : Nat) (off : Bool) (elapsed : Nat) :
    QueuesBounded (takeTrigger cam t site p period off elapsed s) := by
  unfold Machine.takeTrigger issueTrigger
  exact (((((h.modChannel _ _).closeReached _ _).examineWindows ..).tagTrigger _ _).modChannel _ _).portTrigger _ _

theorem QueuesBounded.dropWindows {s : State} (h : QueuesBounded s) (t : Track) (cam : Fin 4) (r : DropReason)
    (ws : List Window) : QueuesBounded (dropWindows t cam r ws s) := by
  induction ws generalizing s with
  | nil => exact h.modChannel _ _
  | cons w rest ih => exact ih (h.reportWindow ..)

theorem QueuesBounded.stopChannel {s : State} (h : QueuesBounded s) (t : Track) (r : DropReason) (cam : Fin 4) :
    QueuesBounded (stopChannel t r cam s) := by
  unfold Machine.stopChannel
  split
  · exact h
  · exact ((h.modChannel _ _).closeWindow _ _).dropWindows ..

theorem QueuesBounded.foldl {s : State} (h : QueuesBounded s) (f : State → Fin 4 → State)
    (hf : ∀ s c, QueuesBounded s → QueuesBounded (f s c)) (cs : List (Fin 4)) : QueuesBounded (cs.foldl f s) := by
  induction cs generalizing s with
  | nil => exact h
  | cons c rest ih => exact ih (hf s c h)

theorem QueuesBounded.stopChannels {s : State} (h : QueuesBounded s) (t : Track) (r : DropReason) :
    QueuesBounded (stopChannels t r s) :=
  (inFreeOrder_induct (h.congr rfl rfl) fun _ _ h => h.stopChannel ..).together _

theorem QueuesBounded.startChannel {s : State} (h : QueuesBounded s) (t : Track) (pace : Nat) (cam : Fin 4) :
    QueuesBounded (startChannel t pace cam s) := by
  unfold Machine.startChannel
  split
  · exact h
  · exact h.modChannel _ _

/-- A summary joins its queue within the 4 places (R196). -/
theorem QueuesBounded.pushSummary {s : State} (h : QueuesBounded s) (x : Summary) :
    QueuesBounded (s.modUplink (Uplink.pushSummary x)) := by
  have hs := h.summaries
  apply h.modUplink <;> unfold Uplink.pushSummary summaryPlaces <;> split
  all_goals first | exact h.commands | exact h.replies | exact h.alerts | exact h.notes | skip
  · simp; omega
  · exact hs

theorem QueuesBounded.endPassage {s : State} (h : QueuesBounded s) (t : Track) (r : EndReason) (d : EndTo) :
    QueuesBounded (endPassage t r d s) := by
  unfold Machine.endPassage
  dsimp only
  split
  · exact h.stopChannels _ _
  · exact (((h.stopChannels _ _).modTrack _ _).pushSummary _).together _

theorem QueuesBounded.planPassage {s : State} (h : QueuesBounded s) (t : Track) (i : Fin 32) (m : MatchState)
    (p : Passage) : QueuesBounded (planPassage t i m p s) := by
  unfold Machine.planPassage
  exact (h.setPassage _ _).foldl _ (fun _ _ h => h.modChannel _ _) _

theorem QueuesBounded.applyDecision {s : State} (h : QueuesBounded s) (t : Track) (d : Decision) (p : Passage) :
    QueuesBounded (applyDecision t d p s) := by
  cases d
  · exact h.setPassage _ _
  · exact h.planPassage ..
  · exact h.planPassage ..

theorem QueuesBounded.appendAxle {s : State} (h : QueuesBounded s) (t : Track) (x : Crossing) (p : Passage) :
    QueuesBounded (appendAxle t x p s) := by
  unfold Machine.appendAxle matchSpacing
  repeat (first | exact h.setPassage _ _ | exact h.applyDecision .. | split | dsimp only)

theorem QueuesBounded.strayAxle {s : State} (h : QueuesBounded s) (t : Track) : QueuesBounded (strayAxle t s) :=
  h.modTrack _ _

theorem QueuesBounded.markReversed {s : State} (h : QueuesBounded s) (t : Track) :
    QueuesBounded (markReversed t s) := by
  unfold Machine.markReversed
  repeat (first | exact h | exact (h.setPassage _ _).stopChannels _ _ | split)

theorem QueuesBounded.crossActive {s : State} (h : QueuesBounded s) (t : Track) (site : SiteTrack) (x : Crossing)
    (p : Passage) : QueuesBounded (crossActive t site x p s) := by
  unfold Machine.crossActive axleIn axleOut backOut backIn
  dsimp only
  split
  · exact h.appendAxle ..
  · split
    · split
      · exact (h.setPassage _ _).endPassage ..
      · exact h.setPassage _ _
    · exact (h.setPassage _ _).strayAxle _
  · apply QueuesBounded.markReversed
    split
    · exact h.setPassage _ _
    · exact (h.setPassage _ _).strayAxle _
  · apply QueuesBounded.markReversed
    split
    · exact h.setPassage _ _
    · exact (h.setPassage _ _).strayAxle _

theorem QueuesBounded.startPassage {s : State} (h : QueuesBounded s) (t : Track) (x : Crossing) (pace : Nat) :
    QueuesBounded (startPassage t x pace s) := by
  unfold Machine.startPassage startChannels
  split
  · exact h
  · apply QueuesBounded.foldl
    · exact h.congr rfl rfl
    · exact fun _ _ h => h.startChannel ..

theorem QueuesBounded.takeCrossing {s : State} (h : QueuesBounded s) (t : Track) (x : Crossing) :
    QueuesBounded (takeCrossing t x s) := by
  unfold Machine.takeCrossing crossIdle
  repeat (first | exact h | exact h.strayAxle _ | exact h.crossActive .. | exact h.startPassage .. | split)

theorem QueuesBounded.releaseHead {s : State} (h : QueuesBounded s) (k : Fin 32) :
    QueuesBounded (releaseHead k s) := by
  unfold Machine.releaseHead
  repeat (first | exact h | exact h.congr rfl rfl | split)

theorem QueuesBounded.senderEnd {s : State} (h : QueuesBounded s) (kind : TxKind) :
    QueuesBounded (senderEnd kind s) := by
  unfold Machine.senderEnd
  split
  · exact h
  · split
    · exact h.congr rfl rfl
    · dsimp only
      split
      · apply QueuesBounded.releaseHead
        exact h.congr rfl rfl
      · exact h.congr rfl rfl
    · apply QueuesBounded.senderTake
      exact h.congr rfl rfl
    all_goals exact h

end Sys2Proof.Machine
end

