-- ==== Sys2Proof/WellFormed.lean ====
section
/-! DEFINITION. Which commands are well formed: what the layouts of chapter 11 ask of a command's operands
beyond their types. A forward-lane frame is a run of at least one data byte, its start code (R201); a frame of
start code C3h is a camera note and comes as `cameraNote`, every other frame comes as `rowFrame`. -/

namespace Sys2Proof

/-- A command whose operands the layouts allow. -/
def Instr.wellFormed : Instr → Bool
  | .rowFrame _ _ _ frame => match frame with
    | [] => false
    | start :: _ => start != 0xC3#8
  | .cameraNote _ _ _ frame => match frame with
    | [] => false
    | start :: _ => start == 0xC3#8
  | .powerOn => true
  | .rstnReset _ _ => true
  | .leadingEdge _ _ => true
  | .trailingEdge _ _ => true
  | .pulseAccepted _ _ => true
  | .pairTimeout _ _ _ => true
  | .staleExpiry _ _ => true
  | .quietDeadline _ _ => true
  | .settleExpiry _ _ => true
  | .trigger _ _ => true
  | .rowTimeout _ _ => true
  | .cameraLinkUp _ _ _ => true
  | .cameraLinkDown _ _ _ => true
  | .passThroughSend _ => true
  | .messageSent _ _ => true
  | .uplinkLinkUp _ _ => true
  | .uplinkLinkDown _ _ => true
  | .frameReceived _ _ _ => true
  | .recordGrant => true
  | .recordEnd _ => true
  | .status => true
  | .tableRead => true
  | .stageLoad => true
  | .stagePatch => true
  | .commitEnable => true
  | .commitDisable => true
  | .commit => true
  | .trackControlEnable => true
  | .trackControlDisable => true
  | .abandon => true
  | .drainOn => true
  | .drainOff => true
  | .clearStats => true
  | .clearConditions => true
  | .cameraPass => true
  | .reset => true
  | .unknownCommand => true
  | .rstnRelease _ => true

end Sys2Proof
end

