-- ==== Sys2Proof/Tests/Slice0.lean ====
section
/-! SUPPORT. The model's own tests: small theorems about one command on a small state, the manual's worked figures,
and for every statement that has hypotheses a theorem that shows operands and a state that meet them. -/

namespace Sys2Proof.Tests
open Sys2Proof Sys2Proof.Machine

set_option Elab.async false

/-! ### Helper states -/

/-- The state a command answers. -/
def run (c : Instr) (s : State) : State :=
  match exec c s with
  | .next t => t
  | .fault _ => s
  | .refused _ => s

/-- A site track entry with each field at the low end of its range. -/
def siteT : SiteTrack where
  valid := true
  spacingA := 300
  spacingB := 1500
  defaultPace := 8333
  paceHold := 500
  quiet := 1000
  settle := 0

/-- A site camera entry of track 1. -/
def siteC (role : Role) : SiteCamera where
  track := some .t1
  role := role
  aDistance := 5000
  bDistance := 400000
  pitch := 250
  periodMin := 5000
  periodMax := 2000000
  slope := 4096
  kept := 0xF0
  rowLimit := 64
  rowTimeout := 100
  repairLimit := 1

def headC : HeadClass where
  nominal := 2500
  wearLimit := 500
  stepLimit := 100
  windowBefore := 50
  windowAfter := 50
  referenceThreshold := 100
  stripThreshold := 50
  minGap := 2
  minValid := 4
  firstCell := 0
  lastCell := 0
  alertMask := 0x0001

def profile0 : Profile where
  code := 0
  signature := []
  tolerance := none
  expectedAxles := none
  pantos := []

def profile1 : Profile where
  code := 0x1234
  signature := [2500, 2600]
  tolerance := some 10
  expectedAxles := some 3
  pantos := [{ offset := 0, headClass := 0 }]

def images (role : Role) : Images where
  siteTracks := #v[some siteT, some { siteT with valid := false }]
  siteCameras := #v[some (siteC role), some { siteC .image with track := none }, none, none]
  consist := upd (upd Images.empty.consist 0 fun _ => some profile0) 1 fun _ => some profile1
  headClasses := upd Images.empty.headClasses 0 fun _ => some headC
  blankMap := upd Images.empty.blankMap 0 fun _ => some { fill := 0x55, runs := [{ firstCell := 0, lastCell := 0, pattern := 0x01 }] }

/-- The tables committed, the track and the links as after reset. -/
def tabled : State :=
  { State.reset with
    tables :=
      { active := images .profile
        staging := images .image
        generation := #v[1, 2, 3, 4]
        loaded := Vector.replicate 4 true
        latch := false } }

/-- The reset held by a low RSTN. -/
def held : State := { State.reset with rstnLow := true }

def cmd (code : Byte) (params : List Byte) : Command where
  source := 0x0A0B0C0D0E0F
  tag := 7
  code := code
  params := params

/-- A command at the head of the queue, the uplink UP. -/
def asked (code : Byte) (params : List Byte) (s : State) : State :=
  { s with uplink := { s.uplink with up := true, commands := [cmd code params] } }

/-- The passage of one axle on track 1. -/
def passage : Passage where
  number := 4
  direction := .ab
  start := 0
  inCount := 1
  outCount := 0
  axles := [{ time := 0, pace := some 20000, spacing := none, unpaired := false, clamped := false }]
  paces := [20000]
  pace := 20000
  stale := false
  staleDeadline := 500001
  quietDeadline := 1000000
  consistGen := 2
  matching := .seeking
  candidates := [{ index := 1, deviation := 0 }]
  spacingsTaken := 0
  profile := none
  reversed := false
  unpairedSeen := false
  paceClamp := false
  axleOverflow := false
  plan := []

def windowOf (openPoint closePoint : Nat) : Window where
  panto := 0
  headClass := 0
  openPoint := openPoint
  closePoint := closePoint
  late := false
  unmatched := false

/-- Track 1 ACTIVE with a passage, channel 0 RUNNING at a period of 5,000 ns for `elapsed` ns. -/
def moving (p : Passage) (elapsed : Nat) : State :=
  (tabled.setPassage .t1 p).modChannel 0 fun c => { c with run := .running .t1 false 5000 true elapsed }

theorem test_ready (code : Byte) (params : List Byte) (s : State) (h : s.rstnLow = false) (u : s.uplink = Uplink.reset) :
    (asked code params s).Ready (cmd code params) [] :=
  ⟨h, by simp [asked, u, Uplink.reset], by simp [asked, u, Uplink.reset], rfl⟩

theorem tabled_ready (code : Byte) (params : List Byte) : (asked code params tabled).Ready (cmd code params) [] :=
  test_ready code params tabled rfl rfl

theorem moving_ready (code : Byte) (params : List Byte) (p : Passage) :
    (asked code params (moving p 5000)).Ready (cmd code params) [] :=
  test_ready code params _ rfl rfl

/-! ### Well-formed commands: each check refuses an ill-formed term -/

theorem test_wellFormed_row_empty : (Instr.rowFrame 0 0 true []).wellFormed = false := by decide

theorem test_wellFormed_row_is_note : (Instr.rowFrame 0 0 true [0xC3]).wellFormed = false := by decide

theorem test_wellFormed_note_empty : (Instr.cameraNote 0 0 true []).wellFormed = false := by decide

theorem test_wellFormed_note_is_row : (Instr.cameraNote 0 0 true [0xA5]).wellFormed = false := by decide

theorem test_wellFormed_frames :
    (Instr.rowFrame 0 0 true [0xA5]).wellFormed = true ∧ (Instr.cameraNote 0 0 true [0xC3]).wellFormed = true := by
  decide

/-- No row of the opcode table gives bits. -/
theorem test_no_word : decodeTableWord 0 0 = none ∧ State.reset.withFetchWord 8 1 = State.reset := ⟨rfl, rfl⟩

/-! ### Time and the resets -/

/-- The hypotheses of TimePasses, at the roll of the Timestamp Counter (R22). -/
theorem test_TimePasses_witness :
    State.reset.rstnLow = false ∧ State.reset.pending = [] ∧ held.rstnLow = true
      ∧ (({ State.reset with time := BitVec.allOnes 32, subUs := 999 } : State).pass 1).time = 0 := by decide +kernel

theorem test_RstnResets_witness :
    1000 ≤ 1000 ∧ held.rstnLow = true ∧ Instr.trigger 0 0 ≠ .powerOn ∧ (∀ a n, Instr.trigger 0 0 ≠ .rstnReset a n)
      ∧ (∀ a, Instr.trigger 0 0 ≠ .rstnRelease a) ∧ 999 < 1000 ∧ (State.reset.pass 0).rstnLow = false :=
  ⟨by decide, rfl, by decide, nofun, nofun, by decide, rfl⟩

/-- R205: RSTN low for 1 µs is a reset, and the part stays in it. -/
theorem test_rstn_resets :
    (run (.rstnReset 0 1000) tabled).rstnLow = true ∧ (run (.rstnReset 0 1000) tabled).tables = State.reset.tables
      ∧ (run (.rstnRelease 0) held).rstnLow = false := by decide +kernel

/-- R3: POWER_ON empties the tables. -/
theorem test_powerOn : (run .powerOn (asked 1 [] tabled)) = State.reset := by decide +kernel

/-- The RESET reply in transmission, for `elapsed` ns (R191, R193). -/
def resetting (elapsed : Nat) : State :=
  { tabled with
    uplink :=
      { tabled.uplink with
        up := true, halted := true
        transmitter := some { kind := .reply 0x0E, frame := List.replicate 64 0, elapsed := elapsed } } }

theorem test_SoftReset_witness :
    (asked 0x0E [] tabled).Ready (cmd 0x0E []) [] ∧ (cmd 0x0E []).code = 0x0E#8
      ∧ ((resetting 672).pass 0).rstnLow = false
      ∧ ((resetting 672).pass 0).uplink.transmitter
          = some { kind := .reply 0x0E, frame := List.replicate 64 0, elapsed := 672 }
      ∧ 8 * ((List.replicate 64 (0 : Byte)).length + 20) ≤ 672
      ∧ ((resetting 5).pass 0).uplink.up = true ∧ ((resetting 5).pass 0).uplink.halted = true
      ∧ exec (.uplinkLinkDown 0 false)
          { resetting 5 with uplink := { (resetting 5).uplink with halted := false } }
          = .next (run (.uplinkLinkDown 0 false)
            { resetting 5 with uplink := { (resetting 5).uplink with halted := false } }) :=
  ⟨tabled_ready _ _, rfl, by decide +kernel, by decide +kernel, by decide +kernel, by decide +kernel,
    by decide +kernel, rfl⟩

/-- R191: the soft reset comes at the end of the RESET reply, not before, and keeps the active tables. -/
theorem test_reset_ends :
    (run (.recordEnd 0) (resetting 671)).tables.staging = images .image
      ∧ (run (.recordEnd 0) (resetting 672)).tables.staging = Images.empty
      ∧ (run (.recordEnd 0) (resetting 672)).tables.active = images .profile := by decide +kernel

/-! ### The Axle Detection Unit -/

/-- Line 0 with a level and a stage. -/
def lined (active : Bool) (stage : Stage) (s : State) : State := s.modLine 0 fun _ => { active := active, stage := stage }

theorem test_LineEdges_witness :
    ((lined false .ready State.reset).pass 0).lines[0].active = false ∧ ((lined false .ready State.reset).pass 0).rstnLow = false
      ∧ ((lined true .accepted State.reset).pass 0).lines[0].active = true
      ∧ (∀ lead e, ((lined true .accepted State.reset).pass 0).lines[0].stage ≠ .qualifying lead e)
      ∧ ((lined true (.qualifying 3 9) State.reset).pass 39991).lines[0].active = true
      ∧ (∃ lead e, ((lined true (.qualifying 3 9) State.reset).pass 39991).lines[0].stage = .qualifying lead e
          ∧ e ≤ 40000)
      ∧ ((lined true (.qualifying 3 9) State.reset).pass 39992).lines[0].active = true
      ∧ (∃ lead e, ((lined true (.qualifying 3 9) State.reset).pass 39992).lines[0].stage = .qualifying lead e
          ∧ 40000 < e)
      ∧ exec (.pulseAccepted 39992 0) (lined true (.qualifying 3 9) State.reset)
        = .next (run (.pulseAccepted 39992 0) (lined true (.qualifying 3 9) State.reset))
      ∧ (held.pass 0).rstnLow = true := by
  refine ⟨by decide +kernel, by decide +kernel, by decide +kernel, ?_, by decide +kernel,
    ⟨3, 40000, by decide +kernel, by decide⟩, by decide +kernel, ⟨3, 40001, by decide +kernel, by decide⟩, rfl, rfl⟩
  have : ((lined true .accepted State.reset).pass 0).lines[0].stage = .accepted := by decide +kernel
  rw [this]; nofun

/-- R23, R35: a pulse that ends before 40 µs, or with them, is a glitch; one that ends after them is not. -/
theorem test_glitch :
    (run (.trailingEdge 40000 0) (lined true (.qualifying 3 0) State.reset)).glitches[0] = 1
      ∧ (run (.trailingEdge 40001 0) (lined true (.qualifying 3 0) State.reset)).glitches[0] = 0
      ∧ (run (.trailingEdge 0 0) (lined true .accepted State.reset)).glitches[0] = 0 := by decide +kernel

/-- A pulse of line 0 qualified for 40 µs, station A of track 1 waiting or CLEAR. -/
def pulsed (elapsed : Nat) (w : Option Wait) : State :=
  (lined true (.qualifying 1000 elapsed) tabled).setStation 0 w

def waiting (seen : Detector) : Wait where
  seen := seen
  first := 0
  spacing := 300
  deadline := 300040

theorem test_PulseStartsWait_witness :
    ((pulsed 0 none).pass 40000).rstnLow = false
      ∧ ((pulsed 0 none).pass 40000).lines[0] = { active := true, stage := .qualifying 1000 40000 }
      ∧ ((pulsed 0 none).pass 40000).stations[stationIndex .t1 .a] = none
      ∧ ((pulsed 0 none).pass 40000).siteTrack? .t1 = some siteT
      ∧ ((pulsed 0 none).pass 40000).siteTrack? .t2 = none
      ∧ (∀ lead elapsed, ((pulsed 0 none).pass 39999).lines[0].stage = .qualifying lead elapsed →
          ((pulsed 0 none).pass 39999).lines[0].active = false ∨ elapsed < 40000) := by
  refine ⟨by decide +kernel, by decide +kernel, by decide +kernel, by decide +kernel, by decide +kernel, ?_⟩
  have h : ((pulsed 0 none).pass 39999).lines[0].stage = .qualifying 1000 39999 := by decide +kernel
  rw [h]
  intro lead elapsed e
  cases e
  exact .inr (by decide)

/-- R26: the deadline is the first time, 1,000 µs for each mm of spacing, and 40 µs; a trailing edge after the 40 µs
finds the pulse accepted. -/
theorem test_wait_starts :
    (run (.pulseAccepted 40000 0) (pulsed 0 none)).stations[0]
        = some { seen := .outer, first := 1000, spacing := 300, deadline := 301040 }
      ∧ (run (.trailingEdge 40001 0) (pulsed 0 none)).stations[0]
        = some { seen := .outer, first := 1000, spacing := 300, deadline := 301040 } := by decide +kernel

theorem test_PulseEndsWait_witness :
    Track.t1 = lineTrack 0 ∧ Station.a = lineStation 0 ∧ lineDetector 0 = .outer ∧ lineDetector 1 = .inner
      ∧ ((pulsed 40000 (some (waiting .inner))).pass 0).rstnLow = false
      ∧ ((pulsed 40000 (some (waiting .inner))).pass 0).lines[0] = { active := true, stage := .qualifying 1000 40000 }
      ∧ ((pulsed 40000 (some (waiting .inner))).pass 0).stations[stationIndex .t1 .a] = some (waiting .inner)
      ∧ ((pulsed 40000 (some (waiting .outer))).pass 0).stations[stationIndex .t1 .a] = some (waiting .outer)
      ∧ (((tabled.modLine 1 fun _ => { active := true, stage := .qualifying 1000 40000 }).setStation 0
            (some (waiting .outer))).pass 0).lines[1] = { active := true, stage := .qualifying 1000 40000 } := by
  decide +kernel

/-- R27: the outer pulse and then the inner one are an ARRIVAL, a stray axle while the track is OFF. -/
theorem test_wait_ends :
    (run (.pulseAccepted 40000 0) (pulsed 0 (some (waiting .inner)))).stations[0] = none
      ∧ ((run (.pulseAccepted 40000 0) (pulsed 0 (some (waiting .inner)))).track .t1).stray = 1 := by decide +kernel

/-- Station A of track 1 waiting, with a deadline of 300,040 µs, at a time. -/
def waitingAt (time : Stamp) : State := { pulsed 0 (some (waiting .outer)) with time := time }

theorem test_WaitExpires_witness :
    ((waitingAt 300040).pass 0).stations[stationIndex .t1 .a] = some (waiting .outer)
      ∧ ((waitingAt 300040).pass 0).rstnLow = false ∧ ((pulsed 0 none).pass 0).stations[stationIndex .t1 .a] = none
      ∧ (((waitingAt 300040).pass 0).time - (waiting .outer).deadline).toNat < 2147483648
      ∧ 2147483648 ≤ (((waitingAt 300039).pass 999).time - (waiting .outer).deadline).toNat := by decide +kernel

/-- R29: the deadline's UNPAIRED crossing is counted at its station; a moment earlier nothing happens. -/
theorem test_pairTimeout :
    (run (.pairTimeout 0 .t1 .a) (waitingAt 300040)).unpaired[0] = 1
      ∧ (run (.pairTimeout 0 .t1 .a) (waitingAt 300039)).unpaired[0] = 0 := by decide +kernel

/-- R31: 12,500 µs over 1,000 mm; a half is rounded up; the clamp and its mark. -/
theorem test_axlePace :
    axlePace 12500 1000 = (12500, false) ∧ axlePace 1 400 = (8333, true) ∧ axlePace 3001 400 = (8333, true)
      ∧ axlePace 300000 300 = (1000000, false) := by decide +kernel

theorem test_PaceArithmetic_witness :
    0 < 300 ∧ 300000 ≤ 300 * 1000 ∧ (siteC .image).periodMin ≤ (siteC .image).periodMax ∧ passage.paces.length ≤ 4
      ∧ (∀ x ∈ passage.paces, 8333 ≤ x ∧ x ≤ 1000000) ∧ 8333 ≤ 8333 ∧ 1000000 ≤ 1000000 := by decide

/-- R50: the mean of four paces, rounded down, and the oldest leaves. -/
theorem test_takePace :
    ({ passage with paces := [1, 10000, 10000, 10001] }.takePace 0 500 10002).paces = [10000, 10000, 10001, 10002]
      ∧ ({ passage with paces := [1, 10000, 10000, 10001] }.takePace 0 500 10002).pace = 10000 := by decide +kernel

/-- What goes on with the time: a pulse being qualified, an interval, the record in transmission (R23, R68, R193). -/
theorem test_TimePasses_parts_witness :
    (pulsed 7 none).lines[0].stage = .qualifying 1000 7 ∧ ((pulsed 7 none).pass 5).lines[0].stage = .qualifying 1000 12
      ∧ (∀ lead e, (pulsed 7 none).lines[1].stage ≠ .qualifying lead e)
      ∧ (moving passage 3).channels[0].run = .running .t1 false 5000 true 3
      ∧ ((moving passage 3).pass 5).channels[0].run = .running .t1 false 5000 true 8
      ∧ (moving passage 3).channels[1].run = .stopped ∧ (moving passage 3).uplink.transmitter = none
      ∧ (resetting 5).uplink.transmitter.map Transmission.elapsed = some 5
      ∧ ((resetting 5).pass 6).uplink.transmitter.map Transmission.elapsed = some 11 := by
  have rest : (pulsed 7 none).lines[1].stage = .waitRest := by decide +kernel
  simp only [rest, ne_eq, reduceCtorEq, not_false_eq_true, implies_true, true_and]
  decide +kernel

/-! ### The Passage Tracker -/

def crossing (st : Station) (kind : CrossingKind) : Crossing where
  station := st
  kind := kind
  time := 90000

/-- Track 1 in a state. -/
def trackIn (x : TrackState) : State := tabled.modTrack .t1 fun _ => { state := x, stray := 0xFFFF }

theorem test_CrossingOutsidePassage_witness :
    ((trackIn .off).track .t1).state = .off ∧ (∃ d, ((trackIn (.settling 3)).track .t1).state = .settling d)
      ∧ ((trackIn .idle).track .t1).state = .idle
      ∧ (∀ pace clamped, (crossing .a .unpaired).kind ≠ .arrival pace clamped) :=
  ⟨by decide +kernel, ⟨3, by decide +kernel⟩, by decide +kernel, nofun⟩

/-- R43: the stray axle counter saturates. -/
theorem test_stray_saturates :
    ((takeCrossing .t1 (crossing .a .unpaired) (trackIn .off)).track .t1).stray = 0xFFFF := by decide +kernel

theorem test_PassageStarts_witness :
    ((trackIn .idle).track .t1).state = .idle
      ∧ (crossing .b (.arrival 12000 false)).kind = .arrival 12000 false
      ∧ (trackIn .idle).siteTrack? .t1 = some siteT
      ∧ (trackIn .idle).siteCamera? 0 = some (siteC .profile) ∧ (siteC .profile).track = some .t1
      ∧ (1 : Fin 4) ∉ (trackIn .idle).camerasOf .t1 := by decide +kernel

/-- R44, R66: an ARRIVAL at station B starts a passage BA and its camera's channel. -/
theorem test_passage_starts :
    ((takeCrossing .t1 (crossing .b (.arrival 12000 false)) (trackIn .idle)).passage? .t1).map Passage.direction
        = some .ba
      ∧ (takeCrossing .t1 (crossing .b (.arrival 12000 false)) (trackIn .idle)).channels[0].run
        = .running .t1 false 5000 true 0 := by decide +kernel

theorem test_ApproachAxle_witness :
    ((moving passage 0).track .t1).state = .active passage ∧ (moving passage 0).siteTrack? .t1 = some siteT
      ∧ (crossing .a (.arrival 12000 false)).station = approachStation passage.direction
      ∧ (∀ pace clamped, (crossing .a (.arrival 12000 false)).kind ≠ .departure pace clamped)
      ∧ (∀ pace clamped, (crossing .a .unpaired).kind ≠ .departure pace clamped)
      ∧ { passage with reversed := true }.reversed = true ∧ 8 < 9
      ∧ 1 = passage.axles.length ∧ 1 ≤ 1 ∧ passage.matching = .seeking ∧ passage.reversed = false
      ∧ (crossing .a .unpaired).pace = none
      ∧ some 7500 = (match passage.axles.getLast?, (crossing .a (.arrival 12000 false)).pace with
        | some last, some pace =>
          if last.unpaired then none
          else some (((crossing .a (.arrival 12000 false)).time - last.time).toNat * 1000 / pace)
        | _, _ => none)
      ∧ [] = passage.candidates.filterMap (testCandidate (images .profile) 1 7500)
      ∧ decideMatch (images .profile) 1 [] = .fallback
      ∧ passage.candidates = passage.candidates.filterMap (testCandidate (images .profile) 1 2500)
      ∧ decideMatch (images .profile) 1 passage.candidates = .seeking
      ∧ decideMatch (images .profile) 2 (passage.candidates.filterMap (testCandidate (images .profile) 2 2600))
        = .matched 1 :=
  ⟨by decide +kernel, by decide +kernel, by decide, nofun, nofun, rfl, by decide, rfl, by decide, rfl, rfl, rfl, rfl,
    by decide +kernel, by decide +kernel, by decide +kernel, by decide +kernel, by decide +kernel⟩

/-- R52, R54: a spacing that no candidate meets ends matching FALLBACK, with profile 0. -/
theorem test_fallback :
    ((takeCrossing .t1 (crossing .a (.arrival 12000 false)) (moving passage 0)).passage? .t1).map
        (fun p => (p.matching, p.profile, p.spacingsTaken)) = some (.fallback, some (0, 0), 1)
      ∧ ((takeCrossing .t1 (crossing .a .unpaired) (moving passage 0)).passage? .t1).map Passage.matching
        = some .fallback := by decide +kernel

/-- R48: 30,000 µs at 12,000 ns/mm is a spacing of 2,500 mm. -/
theorem test_spacing :
    spacingAfter { time := 1014400, pace := some 12000, spacing := none, unpaired := false, clamped := false }
      { station := .a, kind := .arrival 12000 false, time := 1044400 } = some 2500 := by decide +kernel

theorem test_FarAxle_witness :
    (crossing .b .unpaired).station ≠ approachStation passage.direction
      ∧ (∀ pace clamped, (crossing .b .unpaired).kind ≠ .arrival pace clamped)
      ∧ (∀ pace clamped, (crossing .b (.departure 9000 true)).kind ≠ .arrival pace clamped)
      ∧ ((moving { passage with inCount := 2 } 0).track .t1).state = .active { passage with inCount := 2 }
      ∧ (moving passage 0).siteTrack? .t1 = some siteT
      ∧ { passage with inCount := 2 }.outCount + 1 < { passage with inCount := 2 }.inCount
      ∧ passage.outCount + 1 = passage.inCount
      ∧ { passage with outCount := 1 }.inCount ≤ { passage with outCount := 1 }.outCount :=
  ⟨by decide, nofun, nofun, by decide +kernel, by decide +kernel, by decide, by decide, by decide⟩

/-- R58: the increment that balances ends the passage, with its summary. -/
theorem test_balanced :
    ((takeCrossing .t1 (crossing .b (.departure 9000 false)) (moving passage 0)).track .t1).state = .settling 0
      ∧ (takeCrossing .t1 (crossing .b (.departure 9000 false)) (moving passage 0)).uplink.summaries.map Summary.reason
        = [.balanced] := by decide +kernel

theorem test_ReversalCrossing_witness :
    (crossing .a (.departure 9000 true)).station = approachStation passage.direction
      ∧ (∃ pace clamped, (crossing .a (.departure 9000 true)).kind = .departure pace clamped)
      ∧ (crossing .b (.arrival 9000 true)).station ≠ approachStation passage.direction
      ∧ (∃ pace clamped, (crossing .b (.arrival 9000 true)).kind = .arrival pace clamped)
      ∧ ((moving passage 0).track .t1).state = .active passage ∧ (moving passage 0).siteTrack? .t1 = some siteT
      ∧ passage.reversed = false
      ∧ ((moving passage 0).setPassage .t1 { passage with inCount := 0 }).passage? .t1
        = some { passage with inCount := 0 } :=
  ⟨by decide, ⟨9000, true, rfl⟩, by decide, ⟨9000, true, rfl⟩, by decide +kernel, by decide +kernel, rfl,
    by decide +kernel⟩

/-- R49: the first reversal stops the channels of the track. -/
theorem test_reversal :
    (takeCrossing .t1 (crossing .a (.departure 9000 false)) (moving passage 0)).channels[0].run = .stopped
      ∧ ((takeCrossing .t1 (crossing .a (.departure 9000 false)) (moving passage 0)).passage? .t1).map Passage.inCount
        = some 0 := by decide +kernel

/-- A state at a time. -/
def atTime (time : Stamp) (s : State) : State := { s with time := time }

theorem test_TrackDeadlines_witness :
    (∃ isReached : Stamp → Prop, ∀ d, isReached d ↔ (((atTime 7 tabled).pass 0).time - d).toNat < 2147483648)
      ∧ ((atTime 500001 (moving passage 0)).pass 0).rstnLow = false ∧ (tabled.pass 0).passage? .t1 = none
      ∧ ((atTime 500001 (moving passage 0)).pass 0).passage? .t1 = some passage
      ∧ ((atTime 500001 (moving passage 0)).pass 0).siteTrack? .t1 = some siteT
      ∧ passage.stale = false ∧ { passage with stale := true }.stale = true
      ∧ (((atTime 500001 (moving passage 0)).pass 0).time - passage.staleDeadline).toNat < 2147483648
      ∧ ¬ (((atTime 500000 (moving passage 0)).pass 999).time - passage.staleDeadline).toNat < 2147483648
      ∧ (((atTime 1000000 (moving passage 0)).pass 0).time - passage.quietDeadline).toNat < 2147483648
      ∧ ¬ (((atTime 999999 (moving passage 0)).pass 0).time - passage.quietDeadline).toNat < 2147483648
      ∧ (((atTime 7 (trackIn (.settling 7))).pass 0).track .t1).state = .settling 7
      ∧ (((atTime 7 (trackIn (.settling 7))).pass 0).time - 7).toNat < 2147483648
      ∧ ¬ (((atTime 6 (trackIn (.settling 7))).pass 0).time - 7).toNat < 2147483648
      ∧ ∀ d, ((tabled.pass 0).track .t1).state ≠ .settling d := by
  refine ⟨⟨_, fun _ => Iff.rfl⟩, ?_⟩
  have off : ((tabled.pass 0).track .t1).state = .off := by decide +kernel
  simp only [off, ne_eq, reduceCtorEq, not_false_eq_true, implies_true, and_true]
  decide +kernel

/-- R42, R51, R59: each deadline acts when the Timestamp Counter reaches it, and not 1 µs before. -/
theorem test_deadlines :
    ((run (.staleExpiry 1000 .t1) (atTime 500000 (moving passage 0))).passage? .t1).map Passage.pace = some 8333
      ∧ ((run (.staleExpiry 999 .t1) (atTime 500000 (moving passage 0))).passage? .t1).map Passage.pace = some 20000
      ∧ ((run (.quietDeadline 0 .t1) (atTime 1000000 (moving passage 0))).track .t1).state = .settling 1000000
      ∧ ((run (.settleExpiry 0 .t1) (atTime 7 (trackIn (.settling 7)))).track .t1).state = .idle
      ∧ ((run (.settleExpiry 0 .t1) (atTime 6 (trackIn (.settling 7)))).track .t1).state = .settling 7 := by
  decide +kernel

/-- The channels of a moving passage: only CH0 runs. -/
theorem moving_run (elapsed : Nat) :
    (moving passage elapsed).channels[0].run = .running .t1 false 5000 true elapsed
      ∧ ∀ cam : Fin 4, cam ≠ 0 → (moving passage elapsed).channels[cam] = Channel.reset := by
  refine ⟨rfl, fun cam h => ?_⟩
  fin_cases cam <;> first | exact absurd rfl h | rfl

theorem moving_tracks (elapsed : Nat) (t : Track) :
    (moving passage elapsed).passage? t = (match t with | .t1 => some passage | .t2 => none)
      ∧ (moving passage elapsed).camerasOf t = (match t with | .t1 => [0] | .t2 => []) := by
  cases t <;> exact ⟨rfl, rfl⟩

/-- Track 1 ACTIVE and not reversed, track 2 OFF, and CH0 the only channel that is not at reset. -/
theorem oneTrack_sound {s : State} {p : Passage} {held off : Bool} {period elapsed : Nat}
    (site : (s.siteTrack? .t1).isSome = true) (track2 : (s.track .t2).state = .off) (active : s.passage? .t1 = some p)
    (forward : p.reversed = false) (camera : s.camerasOf .t1 = [0])
    (zero : s.channels[(0 : Fin 4)].run = .running .t1 held period off elapsed)
    (others : ∀ cam : Fin 4, cam ≠ 0 → s.channels[cam] = Channel.reset) : TracksSound s where
  entryValid := by
    intro t h
    cases t
    · exact site
    · rw [track2] at h
      exact absurd h (by decide)
  running := by
    intro cam t held period off e h
    by_cases c : cam = 0
    · subst c
      cases zero.symm.trans h
      exact ⟨by rw [active]; rfl, by rw [camera]; decide⟩
    · rw [others cam c] at h
      cases h
  stopped := by
    intro cam h
    by_cases c : cam = 0
    · subst c
      cases zero.symm.trans h
    · rw [others cam c]
      exact ⟨rfl, rfl⟩
  follows := by
    intro t q h cam c
    cases t
    · rw [camera] at c
      cases active.symm.trans h
      obtain rfl : cam = 0 := by simpa using c
      unfold channelFollows
      rw [forward]
      exact ⟨held, period, off, elapsed, zero⟩
    · have none : s.passage? .t2 = none := by
        unfold State.passage?
        rw [track2]
      cases none.symm.trans h

theorem moving_sound (elapsed : Nat) : TracksSound (moving passage elapsed) :=
  oneTrack_sound rfl rfl (moving_tracks elapsed .t1).1 rfl (moving_tracks elapsed .t1).2 (moving_run elapsed).1
    (moving_run elapsed).2

/-- A passage that is MATCHED, one window PENDING and one MISSED. -/
def plannedPassage : Passage :=
  { passage with
    matching := .matched
    profile := some (1, 0x1234)
    plan := [{ camera := 0, panto := 0, outcome := .pending }, { camera := 0, panto := 1, outcome := .dropped .missed }] }

/-- Its PENDING window in the list of CH0. -/
def planned : State :=
  (moving plannedPassage 0).modChannel 0 fun c => { c with windows := [windowOf 5 6] }

theorem planned_others (cam : Fin 4) (h : cam ≠ 0) : planned.channels[cam] = Channel.reset := by
  fin_cases cam <;> first | exact absurd rfl h | rfl

theorem planned_windows (cam : Fin 4) (w : Window) (h : w ∈ planned.channels[cam].windows) :
    cam = 0 ∧ w = windowOf 5 6 := by
  by_cases c : cam = 0
  · subst c
    exact ⟨rfl, List.mem_singleton.1 h⟩
  · rw [planned_others cam c] at h
    cases h

theorem planned_passage (t : Track) (p : Passage) (h : planned.passage? t = some p) : t = .t1 ∧ p = plannedPassage := by
  cases t
  · exact ⟨rfl, (Option.some.inj h).symm⟩
  · cases h

theorem planned_sound : TracksSound planned :=
  oneTrack_sound rfl rfl (p := plannedPassage) rfl rfl rfl rfl planned_others

theorem planned_plans : PlansSound planned where
  pending := by
    intro t p h e m pending
    obtain ⟨rfl, rfl⟩ := planned_passage t p h
    simp only [plannedPassage, List.mem_cons, List.not_mem_nil, or_false] at m
    rcases m with rfl | rfl
    · exact ⟨by decide +kernel, windowOf 5 6, List.mem_singleton.2 rfl, rfl⟩
    · cases pending
  listed := by
    intro t p h e m _ w listed same
    obtain ⟨rfl, rfl⟩ := planned_passage t p h
    obtain ⟨-, rfl⟩ := planned_windows _ w listed
    simp only [plannedPassage, List.mem_cons, List.not_mem_nil, or_false] at m
    rcases m with rfl | rfl
    · rfl
    · cases same
  distinct := by decide +kernel
  unplanned := by
    intro t p h seeking
    obtain ⟨-, rfl⟩ := planned_passage t p h
    cases seeking
  heads := by
    intro cam w h
    obtain ⟨-, rfl⟩ := planned_windows cam w h
    decide +kernel

theorem test_PassageEnds_witness :
    TracksSound planned ∧ PlansSound planned ∧ planned.passage? .t1 = some plannedPassage
      ∧ planned.siteTrack? .t1 = some siteT ∧ (0 : Fin 4) ∈ planned.camerasOf .t1
      ∧ (1 : Fin 4) ∉ planned.camerasOf .t1 ∧ planned.uplink.summaries.length < 4 :=
  ⟨planned_sound, planned_plans, by decide +kernel, by decide +kernel, by decide +kernel, by decide +kernel, by decide⟩

/-- R60: the end drops the PENDING window, ENDED, and leaves the outcome of the other. -/
theorem test_ended :
    (endPassage .t1 .timeout .settling planned).uplink.summaries.map (fun x => x.plan.map PlanEntry.outcome)
      = [[.dropped .ended, .dropped .missed]] := by decide +kernel

/-- Profiles 5, 9 and 14 of the manual's matching example. -/
def matchImages : Images :=
  let p := fun (d : List Nat) => some { profile1 with signature := d, tolerance := some 60 }
  { images .image with
    consist :=
      upd (upd (upd Images.empty.consist 5 fun _ => p [2500, 15000, 2500, 5000]) 9 fun _ =>
        p [2500, 15000, 2500, 5000, 12500, 2500]) 14 fun _ => p [2500, 15000] }

theorem test_MatchDecision_witness :
    (images .image).consist[(1 : Fin 32)] = some profile1 ∧ 1 ≤ 2 ∧ profile1.signature[2 - 1]? = some 2600
      ∧ profile1.tolerance = some 10 ∧ profile1.signature.length < 3
      ∧ [{ index := 1, deviation := 0 : Candidate }] ≠ []
      ∧ (∀ c ∈ [{ index := 1, deviation := 0 : Candidate }], isCompleteCandidate (images .image) 2 c = true)
      ∧ (∃ c ∈ [{ index := 1, deviation := 0 : Candidate }], isCompleteCandidate (images .image) 8 c = true)
      ∧ 1 ≠ 8 ∧ (∃ c ∈ [{ index := 1, deviation := 0 : Candidate }], isCompleteCandidate (images .image) 1 c = false) := by
  decide +kernel

/-- R52, R53: the example's spacing 5 removes profile 9; among the complete, 14 with 6 beats 5 with 11, and 5 is
chosen alone. -/
theorem test_matching :
    testCandidate matchImages 5 2500 { index := 9, deviation := 11 } = none
      ∧ testCandidate matchImages 5 2500 { index := 5, deviation := 11 } = some { index := 5, deviation := 11 }
      ∧ testCandidate matchImages 4 4996 { index := 9, deviation := 7 } = some { index := 9, deviation := 11 }
      ∧ decideMatch matchImages 4 [{ index := 5, deviation := 11 }, { index := 9, deviation := 11 }] = .seeking
      ∧ decideMatch matchImages 5 [{ index := 5, deviation := 11 }] = .matched 5
      ∧ decideMatch matchImages 5 [{ index := 5, deviation := 11 }, { index := 14, deviation := 6 }] = .matched 14 := by
  decide +kernel

theorem test_WindowsPlanned_witness :
    (∀ q ∈ profile1.pantos, (images .profile).headClasses[q.headClass] ≠ none)
      ∧ profile1.pantos[0]? = some { offset := 0, headClass := 0 }
      ∧ (images .profile).headClasses[(0 : Fin 16)] = some headC
      ∧ (MatchState.matched = .matched ∨ MatchState.matched = .fallback)
      ∧ tabled.tables.active.consist[(1 : Fin 32)] = some profile1
      ∧ tabled.tables.active.consist[(31 : Fin 32)] = none
      ∧ (∃ planned : Fin 4 → List Window, ∀ (cam : Fin 4) (site : SiteCamera), tabled.siteCamera? cam = some site →
          planned cam
            = planWindows tabled.tables.active (match passage.direction with | .ab => site.aDistance | .ba => site.bDistance)
                (decide (MatchState.matched = .fallback)) 0 profile1.pantos)
      ∧ (0 : Fin 4) ∈ tabled.camerasOf .t1 ∧ (1 : Fin 4) ∉ tabled.camerasOf .t1 := by
  refine ⟨by decide +kernel, rfl, rfl, .inl rfl, rfl, rfl, ⟨fun cam => match tabled.siteCamera? cam with
    | some site => planWindows tabled.tables.active site.aDistance false 0 profile1.pantos
    | none => [], ?_⟩, by decide +kernel, by decide +kernel⟩
  intro cam site h
  simp only [h]
  rfl

/-- R55: the manual's window on camera 0, of O 133,950,000 and C 134,750,000 µm. -/
theorem test_planWindow :
    (planWindow 80000 false { headC with windowBefore := 350, windowAfter := 450 } 0 { offset := 54300, headClass := 2 }).openPoint
        = 133950000
      ∧ (planWindow 80000 false { headC with windowBefore := 350, windowAfter := 450 } 0
          { offset := 54300, headClass := 2 }).closePoint = 134750000 := by decide +kernel

/-! ### The Trigger and Window Unit -/

theorem test_TriggerTaken_witness :
    ((moving passage 0).pass 5000).rstnLow = false
      ∧ ((moving passage 0).pass 5000).channels[1].run = .stopped
      ∧ ((moving passage 0).pass 5000).channels[0].run = .running .t1 false 5000 true 5000
      ∧ ((moving passage 0).pass 4999).channels[0].run = .running .t1 false 5000 true 4999
      ∧ 5000 ≤ 5000 ∧ ((moving passage 0).pass 5000).subUs % 40 = 0 ∧ ((moving passage 0).pass 5001).subUs % 40 ≠ 0
      ∧ ((moving passage 0).pass 5000).siteCamera? 0 = some (siteC .profile)
      ∧ ((moving passage 0).pass 5000).passage? .t1 = some passage
      ∧ ((250, 0) : Nat × Nat) = (min (((moving passage 0).pass 5000).channels[0].travel
            + (5000 * 1000 + ((moving passage 0).pass 5000).channels[0].carry) / passage.pace) 4294967295,
          (5000 * 1000 + ((moving passage 0).pass 5000).channels[0].carry) % passage.pace)
      ∧ ((moving passage 0).pass 5000).channels[0].windows = []
      ∧ ((moving passage 0).pass 5000).channels[0].openWindow = none
      ∧ ((moving passage 0).pass 5000).ports[0].outstanding.length < 64 := by decide +kernel

/-- R68, R70: a trigger at the end of its interval, and none before it or between two edges of the clock. -/
theorem test_trigger :
    (run (.trigger 5000 0) (moving passage 0)).channels[0].travel = 250
      ∧ (run (.trigger 5000 0) (moving passage 0)).ports[0].outstanding.map Entry.expiry = [105]
      ∧ (run (.trigger 4999 0) (moving passage 0)).ports[0].outstanding = []
      ∧ (run (.trigger 5001 0) (moving passage 0)).ports[0].outstanding = [] := by decide +kernel

/-- R74: the manual's steps at a clamped period: 1,041, 2,083 and 3,125 µm, and 4,166 after the pace change. -/
theorem test_travel :
    travelAfter false 12500 12000 0 0 = (1041, 8000) ∧ travelAfter false 12500 12000 1041 8000 = (2083, 4000)
      ∧ travelAfter false 12500 12000 2083 4000 = (3125, 0) ∧ travelAfter false 12500 12003 3125 0 = (4166, 4877) := by
  decide +kernel

/-- R67: 12,000 ns/mm at 1,000 µm is 12,000 ns, clamped to 12,500 and off-pitch. -/
theorem test_linePeriod :
    linePeriod 12000 { siteC .image with pitch := 1000, periodMin := 12500, periodMax := 200000 } = (12500, true)
      ∧ linePeriod 20000 { siteC .image with pitch := 1000, periodMin := 12500, periodMax := 200000 } = (20000, false) := by
  decide +kernel

theorem test_TravelIsExact_witness :
    0 < 12000 ∧ ((fun y : Nat × Nat => travelAfter false 12500 12000 y.1 y.2)^[0] (0, 0)) = (0, 0)
      ∧ ∀ k, ((fun y : Nat × Nat => travelAfter false 12500 12000 y.1 y.2)^[k + 1] (0, 0))
        = travelAfter false 12500 12000 ((fun y : Nat × Nat => travelAfter false 12500 12000 y.1 y.2)^[k] (0, 0)).1
            ((fun y : Nat × Nat => travelAfter false 12500 12000 y.1 y.2)^[k] (0, 0)).2 :=
  ⟨by decide, rfl, fun k => Function.iterate_succ_apply' _ k _⟩

theorem test_WindowsExamined_witness :
    (∀ w ∈ [windowOf 1 5], w.closePoint ≤ 5) ∧ 5 < (windowOf 5 6).closePoint ∧ (windowOf 5 6).openPoint ≤ 5
      ∧ (windowOf 6 7).late = false ∧ 5 < (windowOf 6 7).openPoint ∧ 5 < (windowOf 6 7).closePoint
      ∧ (moving passage 0).passage? .t1 = some passage ∧ tabled.passage? .t1 = none := by decide +kernel

/-- R80: a window opens at the trigger whose travel reaches its open point. -/
theorem test_examine :
    (examineWindows .t1 0 (siteC .profile) passage 5 [windowOf 1 5, windowOf 5 6] (moving passage 0)).slots[0].map
        Capture.openPoint = some 5
      ∧ (examineWindows .t1 0 (siteC .profile) passage 5 [windowOf 6 7] (moving passage 0)).channels[0].windows
        = [windowOf 6 7] := by decide +kernel

/-- A capture of camera 0 with a stored row, in a state. -/
def capture (st : CaptureState) : Capture where
  id := 9
  state := st
  camera := 0
  track := .t1
  passage := 4
  panto := 0
  headClass := 0
  profile := 1
  code := 0x1234
  consistGen := 2
  headGen := 3
  blankGen := 4
  openPoint := 5
  closePoint := 6
  firstSequence := 65535
  role := .image
  slope := 4096
  kept := 0xF0
  rowLimit := 64
  repairLimit := 1
  head := headC
  blank := { fill := 0x55, runs := [] }
  tagged := 1
  close := .none
  received := 1
  repaired := 0
  omitted := 0
  repairRun := 0
  stored := 1
  chain := [0]
  conditions := 0x0001
  openTime := 5
  doneTime := none
  result := none
  cells := none
  workSet := none

def condRecord : CondRecord where
  capture := 9
  camera := 0
  role := .image
  kept := 0xF0
  fill := 0x55
  blank := List.replicate 2048 false
  blankGen := 4
  fillRow := List.replicate 2048 0x50
  hasWorkSet := false

/-- The capture in slot 0 with its conditioning record; segment 0 is its chain. -/
def holding (c : Capture) (s : State) : State :=
  { s with
    slots := upd s.slots 0 fun _ => some c
    condRecords := upd s.condRecords 0 fun _ => some condRecord
    freeList := List.range' 1 511 }

/-- Its OPEN window on CH0. -/
def windowed (tagged : Nat) : State :=
  (holding (capture .opened) (moving passage 0)).modChannel 0 fun c =>
    { c with openWindow := some { window := windowOf 5 6, capture := 9, tagged := tagged, rowLimit := 64 } }

/-- CH0 with an OPEN window one trigger below its row limit, and a PENDING one; the next trigger reaches neither. -/
def opened : State :=
  (holding (capture .opened) (moving passage 0)).modChannel 0 fun c =>
    { c with
      openWindow := some { window := windowOf 5 251, capture := 9, tagged := 63, rowLimit := 64 }
      windows := [windowOf 251 252] }

/-- The hypotheses of TriggerTaken under an OPEN window. -/
theorem test_TriggerTaken_open_witness :
    (∀ v, (opened.pass 5000).channels[0].windows.head? = some v →
        v.late = false ∧ 250 < v.openPoint ∧ 250 < v.closePoint)
      ∧ (opened.pass 5000).channels[0].openWindow
        = some { window := windowOf 5 251, capture := 9, tagged := 63, rowLimit := 64 }
      ∧ 63 ≠ 64 ∧ 250 < (windowOf 5 251).closePoint ∧ (opened.pass 5000).slotOf 9 = some 0
      ∧ (opened.pass 5000).slots[0] = some (capture .opened)
      ∧ (opened.pass 5000).channels[0].run = .running .t1 false 5000 true 5000
      ∧ (opened.pass 5000).ports[0].outstanding.length < 64 := by
  refine ⟨?_, by decide +kernel, by decide, by decide, by decide +kernel, by decide +kernel, by decide +kernel,
    by decide +kernel⟩
  have h : (opened.pass 5000).channels[0].windows.head? = some (windowOf 251 252) := by decide +kernel
  intro v e
  cases h.symm.trans e
  decide

/-- R85, R87: a trigger under an OPEN window is tagged, and PITCH joins the capture's set when it carries it. -/
theorem test_tagged :
    ((run (.trigger 5000 0) opened).slots[0]).map (fun c => (c.tagged, c.conditions)) = some (2, 0x0021)
      ∧ (run (.trigger 5000 0) opened).channels[0].openWindow.map OpenWindow.tagged = some 64
      ∧ (run (.trigger 5000 0) opened).ports[0].outstanding.map Entry.capture = [some 9] := by decide +kernel

/-- An entry of CP0's list. -/
def entryOfSeq (sequence : Half) (tag : Option CaptureId) : Entry where
  sequence := sequence
  capture := tag
  travel := 3
  issue := 0
  expiry := 100

theorem test_CaptureOpens_witness :
    (∀ k : Fin 32, ({ tabled with slots := Vector.replicate 32 (some (capture .opened)) } : State).slots[k] ≠ none)
      ∧ (windowed 1).slots[1] = none ∧ (∀ j : Fin 32, j < 1 → (windowed 1).slots[j] ≠ none)
      ∧ { passage with profile := some (1, 0x1234) }.profile = some (1, 0x1234)
      ∧ (siteC .image).role = .image ∧ (siteC .profile).role = .profile
      ∧ (0 : Fin 8).val = 2 * (0 : Fin 4).val ∧ (1 : Fin 8).val = 2 * (0 : Fin 4).val + 1
      ∧ tabled.workSets[0] = none ∧ tabled.passage? .t1 = none ∧ (windowed 1).passage? .t1 = some passage := by
  decide +kernel

/-- R83, R121: the opening capture takes the id after one that is held, and working set 0. -/
theorem test_opens :
    ((takeSlot .t1 0 (siteC .profile) passage headC (windowOf 5 6) { windowed 1 with captureIds := 9 }).slots[1]).map
        (fun c => (c.id, c.workSet)) = some (10, some 0)
      ∧ ((takeSlot .t1 0 (siteC .profile) plannedPassage headC (windowOf 5 6) planned).passage? .t1).map
        (fun p => p.plan.map PlanEntry.outcome) = some [.opened 0, .dropped .missed] := by decide +kernel

theorem test_WindowCloses_witness :
    (windowed 64).channels[0].openWindow = some { window := windowOf 5 6, capture := 9, tagged := 64, rowLimit := 64 }
      ∧ (windowed 63).channels[0].openWindow
        = some { window := windowOf 5 6, capture := 9, tagged := 63, rowLimit := 64 }
      ∧ (windowOf 5 6).closePoint ≤ 6 ∧ 5 < (windowOf 5 6).closePoint
      ∧ (windowed 64).tables.active.headClasses[(windowOf 5 6).headClass] = some headC
      ∧ (windowed 64).slotOf 9 = some 0 ∧ (windowed 64).slots[0] = some (capture .opened)
      ∧ (capture .opened).state = .opened
      ∧ (∀ e ∈ (windowed 64).ports[(capture .opened).camera].outstanding, e.capture ≠ some 9)
      ∧ (∃ e ∈ ((windowed 64).modPort 0 fun p => { p with outstanding := [entryOfSeq 0 (some 9)] }).ports[
            (capture .opened).camera].outstanding, e.capture = some 9)
      ∧ (windowed 64).channels[0].run = .running .t1 false 5000 true 0 ∧ tabled.channels[0].run = .stopped
      ∧ (moving passage 0).channels[0].openWindow = none
      ∧ (moving passage 0).tables.active.headClasses[(windowOf 5 6).headClass] = some headC := by decide +kernel

/-- R82: with no OPEN window a window opens and closes none; an OPEN one is CUT. -/
theorem test_openWindow :
    (openWindow .t1 0 (siteC .image) passage (windowOf 5 6) (moving passage 0)).slots[0].map Capture.id = some 0
      ∧ (openWindow .t1 0 (siteC .image) passage (windowOf 5 6) (moving passage 0)).delivery = []
      ∧ (openWindow .t1 0 (siteC .image) passage (windowOf 5 6) (windowed 1)).slots[0].map Capture.close = some .cut
      ∧ (openWindow .t1 0 (siteC .image) passage (windowOf 5 6) (windowed 1)).slots[1].map Capture.id = some 0 := by
  decide +kernel

/-- R78, R87: the row limit closes a window LIMIT, and its capture completes at once when no entry is left. -/
theorem test_limit :
    ((closeReached 0 5 (windowed 64)).slots[0]).map (fun c => (c.close, c.conditions)) = some (.limit, 0x0011)
      ∧ (closeReached 0 5 (windowed 64)).delivery = [9] ∧ closeReached 0 5 (windowed 63) = windowed 63 := by
  decide +kernel

/-! ### The camera ports -/

/-- CP0 UP with a list of entries. -/
def listed (entries : List Entry) (s : State) : State := s.modPort 0 fun p => { p with up := true, outstanding := entries }

theorem test_PortTakesTrigger_witness :
    (listed (List.replicate 63 (entryOfSeq 0 none)) tabled).ports[0].outstanding.length < 64
      ∧ 64 ≤ (listed (List.replicate 64 (entryOfSeq 0 none)) tabled).ports[0].outstanding.length
      ∧ QueuesBounded (listed [entryOfSeq 0 none] tabled) := by
  refine ⟨by decide +kernel, by decide +kernel, by decide, by decide, by decide, by decide, by decide, ?_, ?_⟩ <;>
    decide +kernel

/-- R93, R95: the 65th trigger expires the oldest. -/
theorem test_overflow :
    (portTrigger 0 (entryOfSeq 1 none) (listed (List.replicate 64 (entryOfSeq 0 none)) tabled)).ports[0].missingRows = 1
      ∧ (portTrigger 0 (entryOfSeq 1 none) (listed (List.replicate 64 (entryOfSeq 0 none)) tabled)).ports[0].lane.item
        = some (.token 1) := by decide +kernel

theorem test_RowTimeout_witness :
    (({ listed [entryOfSeq 7 none, { entryOfSeq 8 none with expiry := 101 }] tabled with time := 100 } : State).pass
          0).ports[0].outstanding = [entryOfSeq 7 none] ++ [{ entryOfSeq 8 none with expiry := 101 }]
      ∧ (({ listed [entryOfSeq 7 none, { entryOfSeq 8 none with expiry := 101 }] tabled with time := 100 } : State).pass
          0).rstnLow = false
      ∧ (∀ e ∈ [entryOfSeq 7 none],
          ((({ listed [entryOfSeq 7 none] tabled with time := 100 } : State).pass 0).time - e.expiry).toNat < 2147483648)
      ∧ 2147483648 ≤ ((({ listed [entryOfSeq 7 none] tabled with time := 100 } : State).pass 0).time
          - { entryOfSeq 8 none with expiry := 101 }.expiry).toNat := by decide +kernel

/-- R96, R102: the head expires when its time is reached; the next one waits for its own; with its last entry a CLOSING
capture completes. -/
theorem test_rowTimeout :
    (run (.rowTimeout 0 0)
        { listed [entryOfSeq 7 none, { entryOfSeq 8 none with expiry := 101 }] tabled with time := 100 }).ports[0].missingRows
      = 1
      ∧ (run (.rowTimeout 0 0) { listed [entryOfSeq 1 (some 9), entryOfSeq 2 (some 9)]
          (holding (capture .closing) tabled) with time := 100 }).delivery = [9] := by decide +kernel

theorem test_RowFrame_witness :
    (tabled.pass 0).rstnLow = false ∧ (tabled.pass 0).ports[0].up = false
      ∧ ((listed [entryOfSeq 7 none, entryOfSeq 8 none] tabled).pass 0).ports[0].up = true
      ∧ (List.replicate 2048 (0 : Byte)).length = 2048
      ∧ ((listed [entryOfSeq 7 none, entryOfSeq 8 none] tabled).pass 0).ports[0].outstanding
        = [entryOfSeq 7 none] ++ entryOfSeq 8 none :: []
      ∧ (entryOfSeq 8 none).sequence = 8 ∧ (∀ x ∈ [entryOfSeq 7 none], x.sequence ≠ 8)
      ∧ (∀ e ∈ ((listed [entryOfSeq 7 none, entryOfSeq 8 none] tabled).pass 0).ports[0].outstanding, e.sequence ≠ 9)
      ∧ ([0x00] : List Byte).length ≠ 2054 ∧ (0x69 : Byte) ≠ 0xA5#8 ∧ (0x69 : Byte) ≠ 0xC3#8 := by decide +kernel

/-- R97, R98: a good row with the later echo expires the older entry; a short row frame fails and resolves the head. -/
theorem test_rowFrame :
    (goodRow 0 8 (List.replicate 2048 0) (listed [entryOfSeq 7 none, entryOfSeq 8 none] tabled)).ports[0].missingRows = 1
      ∧ (run (.rowFrame 0 0 true [0xA5, 0]) (listed [entryOfSeq 7 none] tabled)).ports[0].failedFrames = 1
      ∧ (run (.rowFrame 0 0 true [0xA5, 0]) (listed [entryOfSeq 7 none] tabled)).ports[0].outstanding = []
      ∧ (run (.rowFrame 0 0 true [0x00]) (listed [entryOfSeq 7 none] tabled)).ports[0].outstanding.length = 1 := by
  decide +kernel

/-- R200: the check of the nine characters 1 to 9. -/
theorem test_check : check [0x31, 0x32, 0x33, 0x34, 0x35, 0x36, 0x37, 0x38, 0x39] = 0xCBF43926 := by decide +kernel

def noteFrame (bytes : List Byte) : List Byte :=
  0xC3 :: BitVec.ofNat 8 bytes.length :: (bytes ++ beBytes 4 (check (BitVec.ofNat 8 bytes.length :: bytes)).toNat)

def fullNotes : State :=
  { listed [] tabled with
    uplink := { tabled.uplink with notes := List.replicate 8 { camera := 3, time := 0, bytes := [1] } } }

theorem test_CameraNote_witness :
    (tabled.pass 0).rstnLow = false ∧ (tabled.pass 0).ports[0].up = false
      ∧ ((listed [] tabled).pass 0).ports[0].up = true ∧ 1 ≤ ([5] : List Byte).length
      ∧ (List.replicate 64 (5 : Byte)).length ≤ 64
      ∧ ((listed [] tabled).pass 0).uplink.notes.length < 8 ∧ 8 ≤ (fullNotes.pass 0).uplink.notes.length
      ∧ (∀ bytes : List Byte, 1 ≤ bytes.length → bytes.length ≤ 64 →
          [] ≠ BitVec.ofNat 8 bytes.length :: (bytes ++ beBytes 4 (check (BitVec.ofNat 8 bytes.length :: bytes)).toNat)) :=
  ⟨by decide +kernel, by decide +kernel, by decide +kernel, by decide, by decide, by decide +kernel, by decide +kernel,
    nofun⟩

/-- R105: a good note is queued, a full queue drops it, and a bad one is a failed frame. -/
theorem test_cameraNote :
    (run (.cameraNote 3000 0 true (noteFrame [5, 6])) (listed [] tabled)).uplink.notes
        = [{ camera := 0, time := 3, bytes := [5, 6] }]
      ∧ (run (.cameraNote 0 0 true (noteFrame [5])) fullNotes).ports[0].noteDrops = 1
      ∧ (run (.cameraNote 0 0 true [0xC3, 0, 0, 0, 0, 0]) (listed [] tabled)).ports[0].failedFrames = 1 := by
  decide +kernel

/-- Capture 9 CUT by capture 10: both CLOSING, with one entry each in CP0's list. -/
def cutPair : State :=
  { listed [entryOfSeq 65535 (some 9), entryOfSeq 0 (some 10)]
      (holding { capture .closing with close := .cut } tabled) with
    slots := upd (upd tabled.slots 0 fun _ => some { capture .closing with close := .cut }) 1 fun _ =>
      some { capture .closing with id := 10, firstSequence := 0, received := 0, stored := 0, chain := [], conditions := 0 }
    condRecords := upd (upd tabled.condRecords 0 fun _ => some condRecord) 1 fun _ =>
      some { condRecord with capture := 10 } }

/-- The hypotheses on declarations and on a CUT capture and the one that cut it. -/
theorem test_EntryResolved_declared_witness :
    declared 0 [.missing, .missing] cutPair = [9, 10]
      ∧ (takeHeads 0 [.missing, .missing] cutPair).slotOf 9 = some 0
      ∧ (takeHeads 0 [.missing, .missing] cutPair).slotOf 10 = some 1
      ∧ ((takeHeads 0 [.missing, .missing] cutPair).slots[0]).map
          (fun c => (c.close, c.camera, c.firstSequence + BitVec.ofNat 16 c.tagged)) = some (.cut, 0, 0)
      ∧ ((takeHeads 0 [.missing, .missing] cutPair).slots[1]).map (fun d => (d.camera, d.firstSequence)) = some (0, 0)
      ∧ cutPair.ports[0].outstanding.head? = some (entryOfSeq 65535 (some 9))
      ∧ (takeHead 0 .missing cutPair).slotOf 9 = some 0
      ∧ ((takeHead 0 .missing cutPair).slots[0]).map Capture.state = some .closing
      ∧ (∀ x ∈ (takeHead 0 .missing cutPair).ports[0].outstanding, x.capture ≠ some 9)
      ∧ (∃ x ∈ (takeHead 0 .missing (listed [entryOfSeq 1 (some 9), entryOfSeq 2 (some 9)] cutPair)).ports[0].outstanding,
          x.capture = some 9)
      ∧ (listed [entryOfSeq 7 none] tabled).ports[0].outstanding.head? = some (entryOfSeq 7 none)
      ∧ (entryOfSeq 7 none).capture ≠ some 9 ∧ (takeHead 0 .missing (listed [entryOfSeq 7 (some 9)] tabled)).slotOf 9 = none := by
  decide +kernel

/-- R102, R170: one expiry resolves the last entries of both; the CUT capture completes first. -/
theorem test_cutFirst :
    (run (.rowTimeout 0 0) { cutPair with time := 100 }).delivery = [9, 10]
      ∧ (run (.rowTimeout 0 0) { cutPair with time := 100 }).sender.capture = some 9 := by decide +kernel

/-- The capture with its conditioning record in a state where an entry of CP0 names it. -/
theorem test_EntryResolved_witness :
    (entryOfSeq 0 none).capture = none ∧ (entryOfSeq 1 (some 9)).capture = some (capture .opened).id
      ∧ (windowed 1).slotOf (capture .opened).id = some 0 ∧ (windowed 1).slots[0] = some (capture .opened)
      ∧ (windowed 1).condRecords[0] = some condRecord ∧ condRecord.role = .image
      ∧ { condRecord with role := .profile, hasWorkSet := true }.role = .profile
      ∧ { capture .opened with workSet := some 0 }.workSet = some 0
      ∧ (capture .opened).repairRun < (capture .opened).repairLimit
      ∧ { capture .opened with repairRun := 1 }.repairLimit ≤ { capture .opened with repairRun := 1 }.repairRun
      ∧ tabled.ports[0].outstanding = []
      ∧ (listed [entryOfSeq 7 none] tabled).ports[0].outstanding = entryOfSeq 7 none :: []
      ∧ tabled.slotOf 9 = none ∧ (holding (capture .closing) tabled).slotOf 9 = some 0
      ∧ (holding (capture .closing) tabled).slots[0] = some (capture .closing) ∧ (capture .closing).state = .closing
      ∧ (∀ e ∈ (holding (capture .closing) tabled).ports[(capture .closing).camera].outstanding, e.capture ≠ some 9)
      ∧ (capture .opened).state ≠ .closing
      ∧ (∃ e ∈ (listed [entryOfSeq 7 (some 9)] (holding (capture .closing) tabled)).ports[
            (capture .closing).camera].outstanding, e.capture = some 9) := by decide +kernel

/-- R100, R101: below the repair limit a missing row is repaired, at the limit it is omitted. -/
theorem test_missing :
    ((resolveEntry (entryOfSeq 1 (some 9)) .missing (windowed 1)).slots[0]).map
        (fun c => (c.stored, c.repaired, c.omitted, c.conditions)) = some (2, 1, 0, 0x0041)
      ∧ ((resolveEntry (entryOfSeq 1 (some 9)) .missing
          (holding { capture .opened with repairRun := 1 } tabled)).slots[0]).map
        (fun c => (c.stored, c.repaired, c.omitted, c.conditions)) = some (1, 0, 1, 0x0081) := by decide +kernel

theorem test_CameraLink_witness :
    (tabled.pass 0).rstnLow = false ∧ (tabled.pass 0).ports[0].up = false ∧ 1000000 ≤ 1000000 ∧ 999999 < 1000000
      ∧ ((listed [] tabled).pass 0).ports[0].up = true := by decide +kernel

/-- R91, R92: 1 ms of alignment; the frame in reception at the change to DOWN is a failed frame. -/
theorem test_cameraLink :
    (run (.cameraLinkUp 0 0 1000000) tabled).ports[0].up = true
      ∧ (run (.cameraLinkUp 0 0 999999) tabled).ports[0].up = false
      ∧ (run (.cameraLinkDown 0 0 true) (listed [entryOfSeq 7 none] tabled)).ports[0].failedFrames = 1
      ∧ (run (.cameraLinkDown 0 0 false) (listed [entryOfSeq 7 none] tabled)).ports[0].outstanding.length = 1 := by
  decide +kernel

/-- CP0 UP with pass-through messages and an item on its return lane. -/
def laned (queue : List (List Byte)) (lane : ReturnLane) : State :=
  tabled.modPort 0 fun p => { p with up := true, passQueue := queue, lane := lane }

/-- A lane that has been idle for some time. -/
def idleLane (idle : Nat) (waiting : List Half) : ReturnLane :=
  { item := none, elapsed := 0, waiting := waiting, idle := idle }

def busyLane (elapsed : Nat) (waiting : List Half) : ReturnLane :=
  { item := some (.message [1, 2]), elapsed := elapsed, waiting := waiting, idle := 0 }

theorem test_ReturnLane_witness :
    (laned [[1, 2]] (idleLane 8 [])).rstnLow = false ∧ (laned [[1, 2]] (idleLane 8 [])).ports[0].up = true
      ∧ (laned [[1, 2]] (idleLane 8 [])).ports[0].passQueue = [[1, 2]]
      ∧ (laned [[1, 2]] (idleLane 8 [])).ports[0].lane.item = none
      ∧ (laned [[1, 2]] (idleLane 8 [])).ports[0].lane.waiting = []
      ∧ 8 ≤ (laned [[1, 2]] (idleLane 8 [])).ports[0].lane.idle
      ∧ tabled.ports[0].up = false ∧ (laned [[1, 2]] (idleLane 7 [])).ports[0].lane.idle < 8
      ∧ ((laned [] (busyLane 60 [])).pass 4).ports[0].lane = busyLane 64 []
      ∧ 8 * (messageBytes [1, 2]).length ≤ 64
      ∧ ((laned [] (busyLane 0 [])).pass 63).ports[0].lane.elapsed < 8 * (messageBytes [1, 2]).length
      ∧ 0 + 23 < 24 ∧ 24 ≤ 0 + 24 ∧ 0 + 7 < 8 ∧ 8 ≤ 0 + 8 := by
  decide +kernel

/-- R94, R201: a message goes out whole behind an idle word; the token that waited follows it behind another, and the
next token behind a third. -/
theorem test_returnLane :
    (run (.passThroughSend 0) (laned [[1, 2], [3]] (idleLane 8 []))).ports[0].passQueue = [[3]]
      ∧ (run (.passThroughSend 0) (laned [[1, 2], [3]] (idleLane 7 []))).ports[0].passQueue = [[1, 2], [3]]
      ∧ (run (.messageSent 71 0) (laned [] (busyLane 0 [5]))).ports[0].lane = idleLane 7 [5]
      ∧ (run (.messageSent 95 0) (laned [] (busyLane 0 [5, 6]))).ports[0].lane
        = { item := some (.token 5), elapsed := 23, waiting := [6], idle := 0 }
      ∧ (run (.messageSent 104 0) (laned [] (busyLane 0 [5, 6]))).ports[0].lane
        = { item := some (.token 6), elapsed := 0, waiting := [], idle := 0 } := by decide +kernel

/-! ### The Row Conditioner and the Strip Profiler -/

theorem test_StoredPixels_witness :
    (List.replicate 2048 (7 : Byte)).length = 2048 ∧ (List.replicate 2048 (7 : Byte))[8 * 255 + 7]? = some 7
      ∧ (∃ r ∈ [{ firstCell := 255, lastCell := 255, pattern := 0x80 : BlankRun }],
          r.firstCell ≤ 255 ∧ 255 ≤ r.lastCell ∧ r.pattern.getLsbD 7 = true)
      ∧ (∀ r ∈ [{ firstCell := 254, lastCell := 254, pattern := 0x80 : BlankRun }],
          255 < r.firstCell ∨ r.lastCell < 255 ∨ r.pattern.getLsbD 7 = false) := by decide +kernel

/-- R111, R112: the manual's cell 12 under the bits 128 to 4 and a fill value of 130. -/
theorem test_storedPixels :
    storedPixels 0xFC 130 [true, true, false, false, false, false, true, true] [40, 41, 200, 183, 77, 255, 12, 3]
        = [130, 130, 200, 180, 76, 252, 130, 130]
      ∧ fillRow 0xFC 130 [true, false] = [130, 128] := by decide

/-- A working set of band cell 0, no column blanked. -/
def workSet : WorkSet where
  capture := 9
  slot := 0
  firstCell := 0
  lastCell := 0
  referenceThreshold := 100
  stripThreshold := 50
  minGap := 2
  minValid := 4
  nominal := 2600
  wearLimit := 1900
  stepLimit := 150
  slope := 512
  blank := List.replicate 2048 false
  columns := List.replicate 8 .seekReference

theorem test_EdgeSearch_witness :
    (List.replicate 2048 (101 : Byte)).length = 2048 ∧ workSet.blank.length = 2048 ∧ workSet.lastCell < 256
      ∧ workSet.firstCell ≤ workSet.lastCell
      ∧ workSet.columns.length = 8 * (workSet.lastCell + 1 - workSet.firstCell)
      ∧ workSet.columns[7]? = some .seekReference ∧ (List.replicate 2048 (101 : Byte))[8 * workSet.firstCell + 7]? = some 101
      ∧ workSet.blank[8 * workSet.firstCell + 7]? = some false
      ∧ (List.replicate 2048 true)[8 * workSet.firstCell + 7]? = some true := by decide +kernel

/-- R124: a pixel equal to a threshold is no edge; the strip edge comes at row index r + min gap at the earliest. -/
theorem test_edges :
    searchColumn workSet 3 9 false 100 .seekReference = .seekReference
      ∧ searchColumn workSet 3 9 false 101 .seekReference = .seekStrip 3 9
      ∧ searchColumn workSet 4 10 false 49 (.seekStrip 3 9) = .seekStrip 3 9
      ∧ searchColumn workSet 5 11 false 50 (.seekStrip 3 9) = .seekStrip 3 9
      ∧ searchColumn workSet 5 11 false 49 (.seekStrip 3 9) = .found 3 9 11
      ∧ searchColumn workSet 5 11 true 101 .seekReference = .seekReference := by decide

theorem test_CellsMeasured_witness :
    133952083 ≤ 133957291 ∧ (false = true ∨ ∀ r tr ts, Column.seekReference ≠ .found r tr ts)
      ∧ (List.replicate 8 (Measured.valid 65535 false)).length = 8 ∧ 1 ≤ 4
      ∧ (∀ t ov, Measured.valid t ov ∈ List.replicate 8 (Measured.valid 65535 false) → t ≤ 65535)
      ∧ 0 = (List.replicate 8 Measured.blanked).countP (fun m => !m.isBlanked)
      ∧ (List.replicate 8 Measured.invalid).countP Measured.isValid
        < min ((List.replicate 8 Measured.invalid).countP fun m => !m.isBlanked) 4
      ∧ 65535 < ((List.replicate 8 (Measured.valid 65535 false)).map Measured.amount).sum
      ∧ ((List.replicate 8 (Measured.valid 8191 false)).map Measured.amount).sum ≤ 65535
      ∧ workSet.blank.length = 2048 ∧ { workSet with firstCell := 255, lastCell := 255 }.firstCell ≤ 255 ∧ 255 < 256
      ∧ 1 = 255 + 1 - 255 ∧ workSet.columns.length = 8 * 1 ∧ workSet.blank[8 * (255 + 0) + 7]? = some false
      ∧ workSet.columns[8 * 0 + 7]? = some .seekReference := by
  refine ⟨by decide, .inr nofun, by decide, by decide, ?_, by decide, by decide, by decide, by decide, by decide +kernel,
    by decide, by decide, by decide, by decide, by decide +kernel, by decide⟩
  intro t ov h
  cases (List.mem_replicate.1 h).2
  exact Nat.le_refl _

/-- R128: the manual's column 98, a travel of 5,208 µm at a slope factor of 512. -/
theorem test_thickness :
    measureColumn 512 false (.found 10 133952083 133957291) = .valid 260 false
      ∧ measureColumn 4096 false (.found 0 0 163840) = .valid 65535 true
      ∧ measureColumn 10240 false (.found 0 0 65535) = .valid 65535 false := by decide

/-- The manual's result figures, cells 40 to 47 (R134 to R138); a band with a SPARSE cell alone gives SPARSE and NOCELL. -/
theorem test_result :
    captureResult { workSet with firstCell := 40, lastCell := 47 }
      [.present 2480, .present 2470, .sparse, .present 2300, .present 2120, .saturated, .present 1830, .present 1830]
      = some { minimum := 1830, cell := 46, mean := 2171, wear := 770, steps := 1 }
      ∧ measurementMarks workSet = 0x2400 := by decide +kernel

theorem test_ResultOfCells_witness :
    captureResult workSet [.present 7] = some { minimum := 7, cell := 0, mean := 7, wear := 2593, steps := 0 }
      ∧ ([.present 7] : List Cell)[0]? = some (.present 7) ∧ (∀ v, Cell.present v ∈ ([.present 7] : List Cell) → v ≤ 65535)
      ∧ 7 < workSet.nominal
      ∧ captureResult workSet [.present 2600] = some { minimum := 2600, cell := 0, mean := 2600, wear := 0, steps := 0 }
      ∧ workSet.nominal ≤ 2600 := by
  refine ⟨by decide, rfl, ?_, by decide, by decide, by decide⟩
  intro v h
  cases List.mem_singleton.1 h
  decide

/-! ### The Frame Store Controller and the condition close -/

def row : StoredRow where
  sequence := 3
  rowIndex := 4
  repaired := false
  pixels := List.replicate 2048 7

theorem test_RowStored_witness :
    (windowed 1).slots[0] = some (capture .opened) ∧ (capture .opened).stored % 64 ≠ 0
      ∧ (capture .opened).chain.getLast? = some 0 ∧ { capture .opened with stored := 64 }.stored % 64 = 0
      ∧ (windowed 1).freeList.head? = some 1 ∧ ({ windowed 1 with freeList := [] } : State).freeList = []
      ∧ (windowed 1).store.wf = true ∧ (∀ g ∈ (windowed 1).freeList ++ (capture .opened).chain, g < 512)
      ∧ { capture .opened with stored := 0 }.stored = 0 ∧ 0 < (capture .opened).stored := by
  decide +kernel

/-- R166, R167: row 64 takes the head of the free list, or raises TRUNC when the list is empty. -/
theorem test_storeRow :
    (storeRow 0 row (holding { capture .opened with stored := 64 } tabled)).slots[0].map Capture.chain = some [0, 1]
      ∧ ((storeRow 0 row (holding { capture .opened with stored := 64 } tabled)).store.read 64).map StoredRow.sequence
        = some 3
      ∧ (storeRow 0 row { holding { capture .opened with stored := 64 } tabled with freeList := [] }).slots[0].map
          Capture.conditions = some 0x0101 := by decide +kernel

/-- In a state with one capture, ids are distinct. -/
theorem holding_ids (c : Capture) (s : State) (h : s.slots = Vector.replicate 32 none) : IdsDistinct (holding c s) := by
  have only : ∀ (k : Fin 32) (d : Capture), (holding c s).Holds k d → k = 0 := by
    intro k d holds
    by_contra other
    have : (holding c s).slots[k] = none := by
      simp [holding, upd, h, Vector.getElem_set]
      omega
    exact absurd (this.symm.trans holds) nofun
  intro j k d e hj hk _
  rw [only j d hj, only k e hk]

theorem test_ConditionClose_witness :
    IdsDistinct (holding (capture .closing) tabled) ∧ (holding (capture .closing) tabled).slots[0] = some (capture .closing)
      ∧ (holding (capture .closing) tabled).sender.capture = none ∧ (holding (capture .closing) tabled).uplink.drain = true
      ∧ (holding (capture .closing) tabled).delivery = []
      ∧ (capture .closing).conditions &&& headC.alertMask ≠ 0
      ∧ (0x0010#16) &&& headC.alertMask = 0
      ∧ (holding (capture .closing) tabled).uplink.alerts.length < 8 :=
  ⟨holding_ids _ _ rfl, by decide +kernel⟩

/-- The hypotheses of the frame of ConditionClose with DRAIN OFF and a queue that is not empty. -/
theorem test_ConditionClose_drainOff_witness :
    IdsDistinct (holding (capture .closing) { tabled with
        delivery := [3], uplink := { tabled.uplink with drain := false } })
      ∧ (1 : Fin 32) ≠ 0
      ∧ ({ tabled.uplink with drain := false } : Uplink).drain = false :=
  ⟨holding_ids _ _ rfl, by decide, rfl⟩

/-- R148 to R156: a capture without a row takes NOROWS; an alerted one makes an ALERT entry and is SENDING at once. -/
theorem test_conditionClose :
    ((conditionClose 0 (holding { capture .closing with received := 0, stored := 0, chain := [] } tabled)).slots[0]).map
        Capture.conditions = some 0x0201
      ∧ (conditionClose 0 (holding (capture .closing) tabled)).uplink.alerts.map Alert.alerted = [0x0001]
      ∧ (conditionClose 0 (holding (capture .closing) tabled)).sender.capture = some 9 := by decide +kernel

/-! ### The Uplink Port -/

/-- The uplink UP, with a record in transmission. -/
def sendingRec (kind : TxKind) (elapsed : Nat) (s : State) : State :=
  { s with
    uplink :=
      { s.uplink with
        up := true, transmitter := some { kind := kind, frame := List.replicate 64 0, elapsed := elapsed } } }

/-- The capture in slot 0 SENDING, its next record given. -/
def delivering (next : NextRecord) (sent : Nat) : State :=
  { holding (capture .sending) tabled with
    delivery := [9]
    sender := { capture := some 9, next := next, inTransmission := false, rowsSent := sent }
    uplink := { tabled.uplink with up := true } }

def upS : State := asked 1 [] tabled

theorem test_UplinkLink_witness :
    (tabled.pass 0).rstnLow = false ∧ (tabled.pass 0).uplink.up = false ∧ 10000000 ≤ 10000000 ∧ 9999999 < 10000000
      ∧ (upS.pass 0).uplink.up = true ∧ (upS.pass 0).uplink.halted = false ∧ (upS.pass 0).uplink.transmitter = none
      ∧ ((sendingRec .alert 5 tabled).pass 0).uplink.transmitter
        = some { kind := .alert, frame := List.replicate 64 0, elapsed := 5 }
      ∧ TxKind.alert.isCapture = false
      ∧ (sendingRec (.block 1) 5 (delivering (.block 0) 0)).pass 0 = sendingRec (.block 1) 5 (delivering (.block 0) 0)
      ∧ (delivering (.block 0) 0).uplink.halted = false ∧ (delivering (.block 0) 0).sender.capture = some 9
      ∧ (delivering (.block 0) 0).slotOf 9 = some 0 ∧ (delivering (.block 0) 0).slots[0] = some (capture .sending)
      ∧ (delivering (.block 0) 0).sender.next = .block 0
      ∧ 0 + 1 = (capture .sending).stored ∧ (capture .sending).chain = 0 :: []
      ∧ ¬ ((0 + 4) % 64 = 0 ∨ 0 + 4 = { capture .sending with stored := 5 }.stored)
      ∧ (60 + 4) % 64 = 0 := by decide +kernel

/-- R177, R182: 10 ms of established link; a record in transmission at the change to DOWN is cut and counted, and the last
block's segment is given back. -/
theorem test_uplinkLink :
    (run (.uplinkLinkUp 0 10000000) tabled).uplink.up = true ∧ (run (.uplinkLinkUp 0 9999999) tabled).uplink.up = false
      ∧ (run (.uplinkLinkDown 0 true) (sendingRec .alert 5 tabled)).uplink.recordsCut = 1
      ∧ (run (.uplinkLinkDown 0 true) (sendingRec .alert 5 tabled)).uplink.receiveErrors = 1
      ∧ (run (.uplinkLinkDown 0 false) (sendingRec (.block 1) 5 (delivering (.block 0) 0))).freeList.getLast? = some 0 := by
  decide +kernel

/-- An uplink frame from an address, of a type, with a payload, padded and closed by its frame check. -/
def frameOf (type : Nat) (payload : List Byte) : List Byte :=
  let bytes := List.replicate 6 0xFF ++ beBytes 6 0x0A0B0C0D0E0F ++ beBytes 2 type ++ padPayload payload
  bytes ++ frameCheck bytes

/-- The STATUS command of tag 7: record kind 01h, record number 0, B of 3. -/
def statusFrame : List Byte := frameOf 0x88B6 [0x01, 0, 0, 0, 3, 0, 7, 0x01]

theorem test_FrameReceived_witness :
    (tabled.pass 0).uplink.up = false ∧ (upS.pass 0).rstnLow = false ∧ (upS.pass 0).uplink.up = true
      ∧ (statusFrame.drop 1).length < 64
      ∧ 64 ≤ statusFrame.length ∧ statusFrame.length ≤ 9018
      ∧ statusFrame.drop (statusFrame.length - 4) = frameCheck (statusFrame.take (statusFrame.length - 4))
      ∧ beNat (((frameOf 0x0800 []).drop 12).take 2) ≠ 0x88B6
      ∧ (frameOf 0x0800 []).drop ((frameOf 0x0800 []).length - 4)
        = frameCheck ((frameOf 0x0800 []).take ((frameOf 0x0800 []).length - 4))
      ∧ beNat ((statusFrame.drop 12).take 2) = 0x88B6
      ∧ (frameOf 0x88B6 [0x02, 0, 0, 0, 3])[14]? ≠ some 0x01#8
      ∧ statusFrame[14]? = some 0x01#8 ∧ 3 ≤ beNat ((statusFrame.drop 17).take 2)
      ∧ 23 + beNat ((statusFrame.drop 17).take 2) ≤ statusFrame.length
      ∧ (cmd 0x01 []).source.toNat = beNat ((statusFrame.drop 6).take 6)
      ∧ (cmd 0x01 []).tag.toNat = beNat ((statusFrame.drop 19).take 2) ∧ statusFrame[21]? = some (cmd 0x01 []).code
      ∧ (cmd 0x01 []).params = (statusFrame.drop 22).take (beNat ((statusFrame.drop 17).take 2) - 3)
      ∧ (upS.pass 0).uplink.commands.length < 4
      ∧ 4 ≤ (({ upS with uplink := { upS.uplink with commands := List.replicate 4 (cmd 1 []) } } : State).pass
          0).uplink.commands.length := by decide +kernel

/-- R183, R184: a command frame joins the queue, a foreign frame and a short one are counted. -/
theorem test_frameReceived :
    (run (.frameReceived 0 true statusFrame) upS).uplink.commands = [cmd 1 [], cmd 1 []]
      ∧ (run (.frameReceived 0 true (frameOf 0x0800 [])) upS).uplink.foreignFrames = 1
      ∧ (run (.frameReceived 0 true (statusFrame.drop 1)) upS).uplink.receiveErrors = 1 := by decide +kernel

def reply0 : Reply := { tag := 7, code := 1, status := .ok, index := none, body := [] }

/-- A reply and a capture record that arrived together. -/
def arrived : State :=
  { delivering .header 0 with
    uplink := { (delivering .header 0).uplink with replies := [reply0], mayLead := [.reply, .capture] } }

/-- A capture COMPLETE with DRAIN OFF, and the command DRAIN ON. -/
def undrained : State :=
  asked 10 [1] { holding (capture .complete) tabled with
    delivery := [9], uplink := { tabled.uplink with drain := false } }

theorem test_RecordGranted_witness :
    tabled.rstnLow = false ∧ tabled.uplink.up = false ∧ (sendingRec .alert 0 tabled).uplink.transmitter ≠ none
      ∧ (delivering .header 0).uplink.up = true ∧ (delivering .header 0).uplink.transmitter = none
      ∧ waits (delivering .header 0) .capture = true ∧ (delivering .header 0).uplink.mayLead = []
      ∧ waits arrived .reply = true ∧ waits arrived .capture = true ∧ .capture ∈ arrived.uplink.mayLead
      ∧ ({ tabled.uplink with replies := [reply0] } : Uplink).replies = reply0 :: []
      ∧ fullNotes.uplink.notes = { camera := 3, time := 0, bytes := [1] } ::
          List.replicate 7 { camera := 3, time := 0, bytes := [1] }
      ∧ (conditionClose 0 (holding (capture .closing) tabled)).uplink.alerts ≠ []
      ∧ (endPassage .t1 .timeout .settling (moving passage 0)).uplink.summaries ≠ []
      ∧ (delivering .header 0).sender.capture = some 9 ∧ (delivering .header 0).slotOf 9 = some 0
      ∧ (delivering .header 0).slots[0] = some (capture .sending) ∧ (delivering .header 0).uplink.drain = true
      ∧ (delivering .header 0).sender.inTransmission = false ∧ (delivering (.block 0) 0).sender.next = .block 0
      ∧ (delivering .captureEnd 1).sender.next = .captureEnd
      ∧ arrivals undrained (run .drainOn undrained) = [.reply, .capture] ∧ arrivals tabled tabled = []
      ∧ { capture .sending with stored := 65, chain := [7] }.chain = [3, 7].drop (4 * 16 / 64)
      ∧ [row].length = min 4 (65 - 4 * 16)
      ∧ ([3, 7] : List Nat)[(4 * 16 + 0) / 64]? = some 7
      ∧ Memory.read [(448, row)] (64 * 7 + (4 * 16 + 0) % 64) = [row][0]? := by decide +kernel

/-- The classes of RecordGranted that are not waiting, and the highest of those that are. -/
theorem test_RecordGranted_classes_witness (c : TxClass) :
    waits tabled c = false ∧ (waits (delivering .header 0) c = true → TxClass.capture.number ≤ c.number)
      ∧ (waits arrived c = true → TxClass.reply.number ≤ c.number) := by
  cases c <;> decide +kernel

/-- R194: the reply of a DRAIN ON and the capture record it offers arrive together, and so do an alert and the summary of
the passage that ends; the record of a capture comes after its own alert, and time that passes ends the moment. -/
theorem test_together :
    (run .drainOn undrained).uplink.mayLead = [.reply, .capture]
      ∧ ((run .drainOn undrained).pass 1).uplink.mayLead = []
      ∧ (endPassage .t1 .timeout .settling (windowed 1)).uplink.mayLead = [.alert, .summary]
      ∧ (run .recordGrant { arrived with uplink := { arrived.uplink with mayLead := [] } }).uplink.transmitter.map
          Transmission.kind = some (.reply 1) := by decide +kernel

/-- R193, R195: a reply goes before a capture record, and takes the record number. -/
theorem test_grant :
    (run .recordGrant { delivering .header 0 with
        uplink := { (delivering .header 0).uplink with replies := [reply0] } }).uplink.transmitter.map Transmission.kind
        = some (.reply 1)
      ∧ (run .recordGrant (delivering .header 0)).uplink.transmitter.map Transmission.kind = some .header
      ∧ (run .recordGrant (delivering .header 0)).uplink.recordNumber = 1 := by decide +kernel

theorem test_RecordEnds_witness :
    ((sendingRec .alert 671 tabled).pass 1).rstnLow = false
      ∧ ((sendingRec .alert 671 tabled).pass 1).uplink.transmitter
        = some { kind := .alert, frame := List.replicate 64 0, elapsed := 672 }
      ∧ 671 < 8 * ((List.replicate 64 (0 : Byte)).length + 20) ∧ 8 * ((List.replicate 64 (0 : Byte)).length + 20) ≤ 672
      ∧ (0x01 : Byte) ≠ 0x0E#8
      ∧ ((sendingRec (.block 1) 672 (delivering (.block 0) 0)).pass 0).sender.capture = some 9
      ∧ ((sendingRec (.block 1) 672 (delivering (.block 0) 0)).pass 0).slotOf 9 = some 0
      ∧ ((sendingRec (.block 1) 672 (delivering (.block 0) 0)).pass 0).slots[0] = some (capture .sending)
      ∧ ((sendingRec (.block 1) 672 (delivering (.block 0) 0)).pass 0).sender.next = .block 0
      ∧ 0 + 1 = (capture .sending).stored ∧ (capture .sending).chain = 0 :: []
      ∧ ¬ ((0 + 4) % 64 = 0 ∨ 0 + 4 = { capture .sending with stored := 5 }.stored)
      ∧ (60 + 4) % 64 = 0 := by decide +kernel

/-- R174, R175: the last block's end gives its segment back, and the CAPTURE-END's frees the slot. -/
theorem test_recordEnd :
    (run (.recordEnd 0) (sendingRec (.block 1) 672 (delivering (.block 0) 0))).sender.next = .captureEnd
      ∧ (run (.recordEnd 0) (sendingRec (.block 1) 672 (delivering (.block 0) 0))).freeList.getLast? = some 0
      ∧ (run (.recordEnd 0) (sendingRec .captureEnd 672 (delivering .captureEnd 1))).slots[0] = none
      ∧ (run (.recordEnd 0) (sendingRec .captureEnd 671 (delivering .captureEnd 1))).slots[0] ≠ none := by
  decide +kernel

/-! ### The recorder's commands -/

theorem test_CommandsWaitTheirTurn_witness :
    (Instr.reset, 14) ∈ [(Instr.status, 1), (.reset, 14)]
      ∧ (resetting 0).uplink.halted = true
      ∧ 4 ≤ ({ tabled.uplink with replies := List.replicate 4 reply0 } : Uplink).replies.length
      ∧ tabled.uplink.commands = [] ∧ upS.uplink.commands = cmd 1 [] :: [] ∧ (cmd 1 []).code.toNat ≠ 14
      ∧ (asked 0x0F [] tabled).Ready (cmd 0x0F []) [] ∧ 14 < (cmd 0x0F []).code.toNat ∧ (cmd 0 []).code = 0
      ∧ 1 ≤ (cmd 1 []).code.toNat ∧ (cmd 0x0E []).code.toNat ≤ 14 :=
  ⟨by decide, rfl, by decide, rfl, rfl, by decide, tabled_ready _ _, by decide, rfl, by decide, by decide⟩

theorem test_unknown :
    (run .unknownCommand (asked 0x0F [9] tabled)).uplink.replies.map Reply.status = [.unknown]
      ∧ (run .unknownCommand (asked 0x0E [] tabled)).uplink.replies = [] := by decide +kernel

theorem test_StatusLatchAndClears_witness (code : Byte) :
    (asked code [] tabled).Ready (cmd code []) [] ∧ (cmd 0x01 []).code = 0x01#8 ∧ (cmd 0x05 []).code = 0x05#8
      ∧ (cmd 0x06 []).code = 0x06#8 ∧ (cmd 0x0B []).code = 0x0B#8 ∧ (cmd 0x0C []).code = 0x0C#8 :=
  ⟨tabled_ready _ _, rfl, rfl, rfl, rfl, rfl⟩

/-- R15, R153, R189, R190. -/
theorem test_status_and_clears :
    (run .status (asked 1 [] tabled)).uplink.replies.map (fun r => r.body.length) = [127]
      ∧ (run .commitEnable (asked 5 [] tabled)).tables.latch = true
      ∧ (run .commitDisable (asked 6 [] { tabled with tables := { tabled.tables with latch := true } })).tables.latch
        = false
      ∧ ((run .clearStats (asked 0x0B [] (trackIn .idle))).track .t1).stray = 0
      ∧ (run .clearConditions (asked 0x0C [] { tabled with uplink := { Uplink.reset with cumulative := 5 } })).uplink.cumulative
        = 0 := by decide +kernel

theorem test_TableRead_witness :
    (asked 2 [1, 0, 5] tabled).Ready (cmd 2 [1, 0, 5]) [] ∧ (cmd 2 [1, 0, 5]).code = 0x02#8
      ∧ (0x01 : Byte).toNat = tableCode .site ∧ (0x01 : Byte).toNat ≤ 1 ∧ (0x00 : Byte).toNat ≤ 1
      ∧ (asked 2 [1, 0, 5] tabled).tables.active.entry .site (0x05 : Byte).toNat = some none
      ∧ (asked 2 [1, 0, 5] tabled).tables.active.entry .site 0 = some (some (.siteTrack siteT))
      ∧ (∀ (t : TableId) (table image index : Byte), (cmd 2 [1, 0, 6]).params = [table, image, index] →
          table.toNat = tableCode t → image.toNat ≤ 1 → tableSize t ≤ index.toNat) := by
  refine ⟨tabled_ready _ _, rfl, by decide, by decide, by decide, by decide +kernel, by decide +kernel, ?_⟩
  intro t table image index h code _
  cases h
  cases t
  · decide
  all_goals exact absurd code (by decide)

/-- R20: an entry of the active image with its generation and loaded flag; index 6 of the site table is outside. -/
theorem test_tableRead :
    (run .tableRead (asked 2 [1, 0, 5] tabled)).uplink.replies.map Reply.body = [[1, 0, 5, 0, 1, 1, 0]]
      ∧ (run .tableRead (asked 2 [1, 0, 6] tabled)).uplink.replies.map Reply.status = [.range] := by decide +kernel

/-- Blank map entry 3 EMPTY and entry 0 of a fill value alone. -/
def stageParams : List Byte := [4, 2, 3, 0, 0, 1, 0x77, 0]

theorem test_Staging_witness :
    (Instr.stageLoad, (0x03 : Byte), false) ∈ [(Instr.stageLoad, 0x03#8, false), (.stagePatch, 0x04#8, true)]
      ∧ (asked 3 stageParams tabled).Ready (cmd 3 stageParams) [] ∧ (cmd 4 stageParams).code = 0x04#8
      ∧ stageCheck stageParams = .ok (.blankMap, [(3, none), (0, some (.blankMap { fill := 0x77, runs := [] }))])
      ∧ stageCheck [4, 1, 4, 0] = .error (some 4) ∧ stageCheck [4, 2, 3, 0, 3, 0] = .error (some 3)
      ∧ stageCheck [] = .error none ∧ (3, none) ∈ [(3, (none : Option TableEntry))] ∧ 2 < tableSize .blankMap
      ∧ TableId.site ≠ .blankMap :=
  ⟨by decide, tabled_ready _ _, rfl, rfl, rfl, rfl, rfl, by simp, by decide, by decide⟩

/-- Blank map entry 3 EMPTY, as it is spelled. -/
def spelledEmpty : Spelled := { index := 3, fields := none, bytes := [3, 0] }

/-- Blank map entry 0 with a run of an empty pattern, which is out of its range. -/
def spelledRun : Spelled := { index := 0, fields := some (.blankMap 0x77 [(0, 0, 0)]), bytes := [0, 1, 0x77, 1, 0, 0, 0] }

/-- The hypotheses of the refusals of Staging. -/
theorem test_Staging_refused_witness :
    (∀ (t : TableId) (b : Byte), (cmd 3 [5]).params.head? = some b → b.toNat ≠ tableCode t)
      ∧ (cmd 3 [4]).params.length ≤ 1 ∧ (0x04 : Byte).toNat = tableCode .blankMap
      ∧ (cmd 3 [4, 2, 3, 0]).params = 0x04 :: 0x02 :: ([spelledEmpty].flatMap Spelled.bytes ++ [])
      ∧ (cmd 3 [4, 2, 3, 0, 3]).params = 0x04 :: 0x02 :: ([spelledEmpty].flatMap Spelled.bytes ++ [3])
      ∧ (∀ x ∈ [spelledEmpty, spelledRun], x.Sound .blankMap)
      ∧ (∀ x ∈ [spelledEmpty, spelledRun], x.index < tableSize .blankMap)
      ∧ ([spelledEmpty, spelledRun].map Spelled.index).Nodup
      ∧ [spelledEmpty].length < (0x02 : Byte).toNat ∧ [spelledEmpty].length = (0x01 : Byte).toNat
      ∧ tableSize .blankMap ≤ (0x04 : Byte).toNat ∧ (0x03 : Byte).toNat ∈ [spelledEmpty].map Spelled.index
      ∧ (∃ form, ([2] : List Byte).head? = some form ∧ form ≠ 0x00#8 ∧ form ≠ 0x01#8)
      ∧ takeEntry (entryKind .blankMap (0x00 : Byte).toNat) [0x77] = none
      ∧ (∀ y ∈ [spelledEmpty], y.Passes) ∧ ¬ spelledRun.Passes := by
  refine ⟨?_, by decide, by decide, rfl, rfl, ?_, by decide, by decide, by decide, by decide, by decide, by decide,
    ⟨2, rfl, by decide, by decide⟩, rfl, ?_, ?_⟩
  · intro t b h
    cases h
    cases t <;> decide
  · intro x h
    simp only [List.mem_cons, List.not_mem_nil, or_false] at h
    rcases h with rfl | rfl
    · exact ⟨3, rfl, rfl⟩
    · exact ⟨0, rfl, [0x77, 1, 0, 0, 0], rfl, fun rest => rfl⟩
  · intro y h raw e
    cases List.mem_singleton.1 h
    cases e
  · intro h
    obtain ⟨e, read, passes⟩ := h _ rfl
    cases read
    exact absurd passes (by decide)

/-- R14: bytes that end between two entries, bytes that remain, and a run without a column. -/
theorem test_stageRefused :
    (run .stageLoad (asked 3 [4, 2, 3, 0] tabled)).uplink.replies.map (fun r => (r.status, r.index)) = [(.range, none)]
      ∧ (run .stageLoad (asked 3 [4, 1, 3, 0, 0] tabled)).uplink.replies.map Reply.index = [none]
      ∧ (run .stageLoad (asked 3 [4, 2, 0, 1, 0x77, 1, 0, 0, 0, 3, 2] tabled)).uplink.replies.map Reply.index = [some 3]
      ∧ (run .stageLoad (asked 3 [4, 2, 0, 1, 0x77, 1, 0, 0, 0, 3, 0] tabled)).uplink.replies.map Reply.index
        = [some 0] := by decide +kernel

/-- R12, R13: a load empties the entries it does not name, a patch keeps them. -/
theorem test_staging :
    (run .stageLoad (asked 3 [1, 1, 5, 0] tabled)).tables.staging.siteTracks[0] = none
      ∧ (run .stagePatch (asked 4 [1, 1, 5, 0] tabled)).tables.staging.siteTracks[0] = some siteT
      ∧ (run .stagePatch (asked 4 [1, 1, 6, 0] tabled)).uplink.replies.map Reply.index = [some 6] := by decide +kernel

/-- A staging image, the latch set, no command yet. -/
def staged (im : Images) (s : State) : State := { s with tables := { s.tables with staging := im, latch := true } }

/-- Camera 1 staged on track 2, whose entry is not valid. -/
def badCamera : Images :=
  { images .image with
    siteCameras := #v[some (siteC .image), some { siteC .image with track := some .t2 }, none, none] }

theorem test_Commit_witness :
    (asked 7 [1] (staged badCamera tabled)).Ready (cmd 7 [1]) [] ∧ (cmd 7 [1]).code = 0x07#8
      ∧ (∀ (t : TableId) (b : Byte), b.toNat = tableCode t → (cmd 7 [5]).params ≠ [b])
      ∧ (0x01 : Byte).toNat = tableCode .site ∧ (0x04 : Byte).toNat = tableCode .blankMap
      ∧ (asked 7 [1] tabled).tables.latch = false ∧ (asked 7 [1] (staged badCamera tabled)).tables.latch = true
      ∧ (((moving passage 0).track .t1).state ≠ .off) ∧ ((moving passage 0).track .t1).state = .active passage
      ∧ (∀ k, (tabled.track k).state = .off) ∧ badCamera.siteCameras[1] = some { siteC .image with track := some .t2 }
      ∧ badCamera.siteTracks[trackIndex .t2] = some { siteT with valid := false }
      ∧ (∀ (i : Fin 4) (d : SiteCamera) (j : Track), i < 1 → badCamera.siteCameras[i] = some d → d.track = some j →
          ∃ x, badCamera.siteTracks[trackIndex j] = some x ∧ x.valid = true)
      ∧ Images.empty.consist[0] = none ∧ (images .image).consist[0] ≠ none
      ∧ (images .image).consist[(1 : Fin 32)] = some profile1 ∧ (∃ p ∈ profile1.pantos, p.headClass = 0)
      ∧ Images.empty.headClasses[0] = none := by
  refine ⟨test_ready _ _ _ rfl rfl, rfl, ?_, by decide, by decide, rfl, rfl, by decide +kernel, by decide +kernel, ?_,
    by decide +kernel, by decide +kernel, ?_, by decide +kernel, by decide +kernel, by decide +kernel,
    by decide +kernel, by decide +kernel⟩
  · intro t b h e
    cases e
    cases t <;> exact absurd h (by decide)
  · intro k
    cases k <;> rfl
  · intro i d j lt h e
    obtain rfl : i = 0 := by omega
    have h : some (siteC .image) = some d := h
    cases h
    cases e
    exact ⟨siteT, rfl, rfl⟩

/-- The hypotheses of a COMMIT taken, for each table: the tables of `tabled` refer to each other as R6, R8 and R10 ask. -/
theorem test_Commit_taken_witness :
    (∀ k, (tabled.track k).state = .off) ∧ (∀ k p, (tabled.track k).state ≠ .active p)
      ∧ (∀ (cam : Fin 4) (e : SiteCamera) (k : Track), tabled.tables.staging.siteCameras[cam] = some e →
          e.track = some k → ∃ x, tabled.tables.staging.siteTracks[trackIndex k] = some x ∧ x.valid = true)
      ∧ tabled.tables.staging.consist[0] ≠ none
      ∧ (∀ (i : Fin 32) (e : Profile), tabled.tables.staging.consist[i] = some e →
          ∀ p ∈ e.pantos, tabled.tables.active.headClasses[p.headClass] ≠ none)
      ∧ (∀ i : Fin 16, tabled.tables.staging.headClasses[i] = none →
          ∀ (j : Fin 32) (e : Profile), tabled.tables.active.consist[j] = some e → ∀ p ∈ e.pantos, p.headClass ≠ i) := by
  have profiles : ∀ i : Fin 32, ∀ e ∈ (images .image).consist[i],
      ∀ p ∈ e.pantos, (images .profile).headClasses[p.headClass] ≠ none := by decide +kernel
  have classes : ∀ i : Fin 16, (images .image).headClasses[i] = none →
      ∀ j : Fin 32, ∀ e ∈ (images .profile).consist[j], ∀ p ∈ e.pantos, p.headClass ≠ i := by decide +kernel
  have cams : ∀ cam : Fin 4, ∀ e ∈ (images .image).siteCameras[cam], e.track ≠ some .t2 := by decide +kernel
  refine ⟨fun k => by cases k <;> rfl, fun k p => by cases k <;> nofun, ?_, by decide +kernel,
    fun i e => profiles i e, fun i none j e => classes i none j e⟩
  intro cam e k h track
  cases k
  · exact ⟨siteT, rfl, rfl⟩
  · exact absurd track (cams cam e h)

/-- R16: each refusal of a COMMIT with its entry index, and a commit taken. -/
theorem test_commit :
    (run .commit (asked 7 [1] (staged badCamera tabled))).uplink.replies.map (fun r => (r.status, r.index))
        = [(.invalid, some 3)]
      ∧ (run .commit (asked 7 [1] tabled)).uplink.replies.map Reply.status = [.latch]
      ∧ (run .commit (asked 7 [1] (staged badCamera (moving passage 0)))).uplink.replies.map Reply.status = [.busy]
      ∧ (run .commit (asked 7 [2] (staged Images.empty tabled))).uplink.replies.map (fun r => (r.status, r.index))
        = [(.invalid, some 0)]
      ∧ (run .commit (asked 7 [3] (staged Images.empty tabled))).uplink.replies.map (fun r => (r.status, r.index))
        = [(.reference, some 0)]
      ∧ (run .commit (asked 7 [1] (staged (images .image) tabled))).uplink.replies.map Reply.body = [[0, 2]]
      ∧ (run .commit (asked 7 [4] (staged (images .image) (moving passage 0)))).uplink.replies.map Reply.body
        = [[0, 5]] := by
  decide +kernel

/-- No track byte, with these bytes behind it, is the command's parameters. -/
def NamesNoTrack (c : Command) (tail : List Byte) : Prop :=
  ∀ (t : Track) (b : Byte), b.toNat = trackNumber t → c.params ≠ b :: tail

theorem test_TrackCommands_witness :
    (asked 8 [2, 1] tabled).Ready (cmd 8 [2, 1]) [] ∧ NamesNoTrack (cmd 8 [1, 2]) [0x01] ∧ NamesNoTrack (cmd 8 [1, 0, 0]) [0x00]
      ∧ NamesNoTrack (cmd 9 []) [] ∧ (0x02 : Byte).toNat = trackNumber .t2 ∧ (cmd 8 [2, 1]).params = [0x02, 0x01#8]
      ∧ (cmd 8 [2, 1]).code = 0x08#8 ∧ (cmd 9 [1]).code = 0x09#8
      ∧ (tabled.track .t1).state = .off ∧ (tabled.siteTrack? .t1).isSome = true
      ∧ (tabled.track .t2).state = .off ∧ tabled.siteTrack? .t2 = none ∧ ((trackIn .idle).track .t1).state ≠ .off
      ∧ ((moving passage 0).passage? .t1).isSome = true ∧ tabled.passage? .t1 = none
      ∧ (cmd 8 [1, 2]).params[1]? ≠ some 0x00#8 ∧ (cmd 8 [1]).params[1]? ≠ some 0x00#8
      ∧ (cmd 8 [1, 0, 0]).params[1]? = some 0x00#8 :=
  ⟨tabled_ready _ _, fun _ _ _ => by simp [cmd], fun _ _ _ => by simp [cmd], fun _ _ _ => by simp [cmd], by decide +kernel⟩

/-- R39 to R41. -/
theorem test_trackCommands :
    ((run .trackControlEnable (asked 8 [1, 1] tabled)).track .t1).state = .idle
      ∧ (run .trackControlEnable (asked 8 [2, 1] tabled)).uplink.replies.map Reply.status = [.state]
      ∧ ((run .trackControlDisable (asked 8 [1, 0] (moving passage 0))).track .t1).state = .off
      ∧ (run .trackControlDisable (asked 8 [3, 0] tabled)).uplink.replies.map Reply.status = [.range]
      ∧ (run .trackControlEnable (asked 8 [1, 2] tabled)).uplink.replies.map Reply.status = [.range]
      ∧ ((run .abandon (asked 9 [1] (moving passage 0))).track .t1).state = .settling 0
      ∧ (run .abandon (asked 9 [1] tabled)).uplink.replies.map Reply.status = [.state]
      ∧ run .trackControlEnable (asked 8 [1, 0] tabled) = asked 8 [1, 0] tabled
      ∧ run .trackControlDisable (asked 8 [1] tabled) = asked 8 [1] tabled := by decide +kernel

/-- CP0 with `n` messages in its pass-through queue. -/
def queued (up : Bool) (n : Nat) : State := tabled.modPort 0 fun p => { p with up := up, passQueue := List.replicate n [1] }

theorem test_DrainAndCameraPass_witness :
    (asked 10 [1] tabled).Ready (cmd 10 [1]) []
      ∧ (∀ (cam : Fin 4) (message : List Byte), 1 ≤ message.length → message.length ≤ 64 →
          (cmd 13 []).params ≠ BitVec.ofNat 8 cam.val :: BitVec.ofNat 8 message.length :: message)
      ∧ (cmd 10 [1]).params = [0x01#8] ∧ (cmd 10 [1]).code = 0x0A#8 ∧ (cmd 13 []).code = 0x0D#8
      ∧ (delivering .header 0).sender.capture ≠ none ∧ tabled.delivery = [] ∧ tabled.sender.capture = none
      ∧ { delivering .header 0 with sender := Sender.reset }.delivery = 9 :: []
      ∧ (delivering .header 0).slotOf 9 = some 0 ∧ (delivering .header 0).slots[0] = some (capture .sending)
      ∧ (cmd 10 [2]).params ≠ [0x00#8] ∧ (cmd 10 [2]).params ≠ [0x01#8] ∧ (cmd 10 [2]).params.head? ≠ some 0x00#8
      ∧ (cmd 10 [0, 0]).params ≠ [0x00#8] ∧ (cmd 10 [0, 0]).params.head? = some 0x00#8
      ∧ 1 ≤ ([9] : List Byte).length ∧ (List.replicate 64 (9 : Byte)).length ≤ 64
      ∧ (cmd 13 [3, 1, 9]).params
        = BitVec.ofNat 8 (3 : Fin 4).val :: BitVec.ofNat 8 ([9] : List Byte).length :: [9]
      ∧ (queued false 0).ports[0].up = false ∧ 4 ≤ (queued true 4).ports[0].passQueue.length
      ∧ (queued true 3).ports[0].up = true ∧ (queued true 3).ports[0].passQueue.length < 4 :=
  ⟨tabled_ready _ _, nofun, by decide +kernel⟩

/-- R104, R176, R188. -/
theorem test_drain_and_pass :
    (run .drainOff (asked 10 [0] tabled)).uplink.drain = false
      ∧ (run .drainOn undrained).sender.capture = some 9 ∧ run .drainOff undrained = undrained
      ∧ run .drainOn (asked 10 [0] tabled) = asked 10 [0] tabled
      ∧ (run .cameraPass (asked 13 [0, 1, 9] (queued true 4))).uplink.replies.map Reply.status = [.full]
      ∧ (run .cameraPass (asked 13 [0, 1, 9] (queued true 3))).ports[0].passQueue.length = 4
      ∧ (run .cameraPass (asked 13 [4, 1, 9] (queued true 3))).uplink.replies.map Reply.status = [.range] := by
  decide +kernel

/-! ### Encodings -/

theorem test_TableEntryRoundTrip_witness :
    5 < tableSize .site ∧ (TableEntry.siteCamera (siteC .profile)).inRange 5 = true
      ∧ (∃ im : Images, (im.putEntry 5 (.siteCamera (siteC .profile))).entry .site 5
          = some (some (.siteCamera (siteC .profile))))
      ∧ [((5 : Nat), some (TableEntry.siteCamera (siteC .profile)))].length ≤ 255
      ∧ ([((5 : Nat), some (TableEntry.siteCamera (siteC .profile)))].map Prod.fst).Nodup
      ∧ profile1.signature[1]? = some 2600 ∧ profile1.pantos[0]? = some { offset := 0, headClass := 0 }
      ∧ [{ firstCell := 0, lastCell := 0, pattern := 1 : BlankRun }][0]? = some { firstCell := 0, lastCell := 0, pattern := 1 }
      ∧ tableSize .site ≤ 6 :=
  ⟨by decide, by decide, ⟨Images.empty, rfl⟩, by decide⟩

/-- R202: the fields of a site track, a site camera and a profile, byte by byte. -/
theorem test_entry_bytes :
    entryBytes (.siteTrack siteT) = [1, 0x01, 0x2C, 0x05, 0xDC, 0, 0, 0x20, 0x8D, 0x01, 0xF4, 0x03, 0xE8, 0, 0]
      ∧ entryBytes (.siteCamera (siteC .profile))
        = [1, 1, 0, 0, 0x13, 0x88, 0, 0x06, 0x1A, 0x80, 0, 250, 0, 0, 0x13, 0x88, 0, 0x1E, 0x84, 0x80, 0x10, 0, 0xF0, 0, 64,
          0, 100, 1]
      ∧ entryBytes (.profile profile1) = [0x12, 0x34, 2, 0x09, 0xC4, 0x0A, 0x28, 0, 10, 0, 3, 1, 0, 0, 0, 0, 0] := by
  decide +kernel

/-- R202: a staged head class of the manual's layout, byte by byte. -/
theorem test_headClass_bytes :
    stageCheck [3, 1, 15, 1, 0x09, 0xC4, 0x01, 0xF4, 0x00, 0x64, 0x00, 0x32, 0x00, 0x32, 100, 50, 2, 4, 0, 0, 0x00, 0x01]
      = .ok (.headClass, [(15, some (.headClass headC))]) := rfl

theorem test_FrameRoundTrip_witness :
    (List.replicate 6 (0 : Byte)).length = 6 ∧ (List.replicate 8992 (0 : Byte)).length ≤ 8992
      ∧ (List.replicate 2048 (0 : Byte)).length = 2048 ∧ 1 ≤ ([0] : List Byte).length
      ∧ (List.replicate 64 (0 : Byte)).length ≤ 64
      ∧ (∃ (shift : BitVec 32 → BitVec 32) (remainder : List Byte → BitVec 32),
          (∀ r, shift r = if r.getLsbD 0 then (r >>> 1) ^^^ 0xEDB88320#32 else r >>> 1) ∧ remainder [] = 0xFFFFFFFF#32
          ∧ ∀ bytes b, remainder (bytes ++ [b]) = shift^[8] (remainder bytes ^^^ b.setWidth 32)) :=
  ⟨rfl, (List.length_replicate ..).le, List.length_replicate .., by decide, by decide, crcBit,
    fun bytes => bytes.foldl crcByte 0xFFFFFFFF#32, fun _ => rfl, rfl, fun _ _ => List.foldl_append ..⟩

/-- R201: a token, and a message whose check is computed by hand from R200. -/
theorem test_lane_frames :
    tokenBytes 0xF64F = [0x3C, 0xF6, 0x4F]
      ∧ messageBytes [0x32] = [0x69, 1, 0x32, 0x90, 0x15, 0x72, 0x3E] := by decide +kernel

theorem test_sortFrame : sortFrame statusFrame = .command (cmd 1 []) := by decide +kernel

theorem test_RecordLayouts_witness :
    0x92 < 256 ∧ (List.replicate 65535 (0 : Byte)).length < 65536 ∧ (∀ r ∈ [row], r.pixels.length = 2048)
      ∧ [row][0]? = some row ∧ (moving passage 0).passage? .t1 = some passage ∧ (moving passage 0).passage? .t2 = none
      ∧ plannedPassage.plan[1]? = some { camera := 0, panto := 1, outcome := .dropped .missed }
      ∧ passage.axles[0]?
        = some { time := 0, pace := some 20000, spacing := none, unpaired := false, clamped := false }
      ∧ { capture .complete with doneTime := some 7 }.doneTime = some 7
      ∧ [{ firstCell := 0, lastCell := 0, pattern := 1 : BlankRun }][0]? = some { firstCell := 0, lastCell := 0, pattern := 1 }
      ∧ { capture .complete with cells := some [.sparse] }.cells = some [.sparse]
      ∧ [Cell.sparse][0]? = some .sparse ∧ (capture .complete).cells = none := by
  refine ⟨by decide, by rw [List.length_replicate]; decide, fun r h => ?_, rfl, rfl, rfl, rfl, rfl, rfl, rfl, rfl, rfl, rfl⟩
  cases List.mem_singleton.1 h
  exact List.length_replicate ..

/-- R204: the manual's header of the track 1 capture, selected fields. -/
theorem test_header_example :
    let c : Capture := { capture .sending with
      passage := 0, code := 5105, openPoint := 133950000, closePoint := 134750000, firstSequence := 63055, tagged := 768
      conditions := condBit .pitch ||| condBit .wear, stored := 768 }
    ((headerBody 0 c).drop 9).take 2 = [0x13, 0xF1] ∧ ((headerBody 0 c).drop 17).take 8
        = [0x07, 0xFB, 0xEA, 0x30, 0x08, 0x08, 0x1F, 0x30]
      ∧ ((headerBody 0 c).drop 25).take 4 = [0xF6, 0x4F, 0x03, 0x00] ∧ c.conditions = 0x4020
      ∧ blockCount c.stored = 0x00C0 := by decide +kernel

/-! ### Invariants -/

theorem steps_idle (s : State) (h : s.pending = []) : step s = .next (s.pass 40) := by
  simp [step, h, clockNs]

theorem test_StepsKeepQueuesBounded_witness :
    QueuesBounded fullNotes ∧ step fullNotes = .next (fullNotes.pass 40) := by
  refine ⟨⟨by decide, by decide, by decide, by decide, by decide, ?_, ?_⟩, rfl⟩ <;> decide +kernel

theorem images_inRange (role : Role) : (images role).InRange := by
  have a : ∀ r : Role, ∀ i : Fin 2, ∀ e ∈ (images r).siteTracks[i], e.InRange := by
    intro r; cases r <;> decide +kernel
  have b : ∀ r : Role, ∀ i : Fin 4, ∀ e ∈ (images r).siteCameras[i], e.InRange := by
    intro r; cases r <;> decide +kernel
  have c : ∀ r : Role, ∀ i : Fin 32, ∀ e ∈ (images r).consist[i], e.InRange i.val := by
    intro r; cases r <;> decide +kernel
  have d : ∀ r : Role, ∀ i : Fin 16, ∀ e ∈ (images r).headClasses[i], e.InRange := by
    intro r; cases r <;> decide +kernel
  have f : ∀ r : Role, ∀ i : Fin 4, ∀ e ∈ (images r).blankMap[i], e.InRange := by
    intro r; cases r <;> decide +kernel
  exact ⟨fun i e => a role i e, fun i e => b role i e, fun i e => c role i e, fun i e => d role i e,
    fun i e => f role i e⟩

theorem moving_tables (p : Passage) (elapsed : Nat) : TablesInRange (moving p elapsed) :=
  ⟨images_inRange .profile, images_inRange .image⟩

theorem test_StepsKeepTablesSound_witness :
    TablesInRange (moving passage 0) ∧ ReferencesValid (moving passage 0)
      ∧ step (moving passage 0) = .next ((moving passage 0).pass 40) := by
  refine ⟨moving_tables _ _, ?_, rfl⟩
  have h : ∀ i : Fin 32, ∀ e ∈ (images .profile).consist[i], ∀ p ∈ e.pantos,
      (images .profile).headClasses[p.headClass].isSome := by decide +kernel
  exact fun i e => h i e

theorem test_StepsKeepMotionInRange_witness :
    TablesInRange (moving passage 0) ∧ PassagesInRange (moving passage 0) ∧ ChannelsInRange (moving passage 0)
      ∧ step (moving passage 0) = .next ((moving passage 0).pass 40) := by
  refine ⟨moving_tables _ _, ?_, ?_, rfl⟩
  · intro t p h
    rw [(moving_tracks 0 t).1] at h
    cases t
    · cases h
      exact ⟨by decide, by decide, by decide, by decide, by simp [passage, PaceInRange], by decide,
        by simp [passage, PaceInRange], by simp [passage, PaceInRange], by decide⟩
    · cases h
  · intro cam
    obtain ⟨zero, others⟩ := moving_run 0
    by_cases c : cam = 0
    · subst c
      exact ⟨by decide +kernel, by decide +kernel, fun t held p off e h => by
        cases zero.symm.trans h
        decide⟩
    · rw [others cam c]
      exact ⟨by decide, by decide, nofun⟩

theorem test_StepsKeepTracksSound_witness :
    TracksSound planned ∧ PlansSound planned ∧ step planned = .next (planned.pass 40) :=
  ⟨planned_sound, planned_plans, rfl⟩

theorem test_StepsKeepClockAndLinesSound_witness :
    ClockAndLinesSound held ∧ step held = .next (held.pass 40)
      ∧ ClockAndLinesSound (lined true (.qualifying 1 2) State.reset) := by
  refine ⟨⟨by decide, fun _ => ⟨rfl, rfl⟩, fun _ => by decide +kernel, ?_⟩, rfl,
    ⟨by decide, nofun, nofun, ?_⟩⟩
  · intro l lead e h
    have rest : ∀ l : Fin 8, held.lines[l].stage = .waitRest := by decide +kernel
    rw [rest l] at h
    cases h
  · intro l lead e h
    have others : ∀ l : Fin 8, l ≠ 0 → (lined true (.qualifying 1 2) State.reset).lines[l].stage = .waitRest := by
      decide +kernel
    by_cases z : l = 0
    · subst z
      decide +kernel
    · rw [others l z] at h
      cases h

/-- The capture of `windowed 1` is the only one. -/
theorem windowed_only (k : Fin 32) (c : Capture) (h : (windowed 1).Holds k c) : k = 0 ∧ c = capture .opened := by
  have others : ∀ k : Fin 32, k ≠ 0 → (windowed 1).slots[k] = none := by decide +kernel
  have zero : (windowed 1).slots[(0 : Fin 32)] = some (capture .opened) := by decide +kernel
  by_cases z : k = 0
  · subst z
    exact ⟨rfl, Option.some.inj (h.symm.trans zero)⟩
  · cases (others k z).symm.trans h

theorem windowed_holds : (windowed 1).Holds 0 (capture .opened) := by
  show (windowed 1).slots[(0 : Fin 32)] = _
  decide +kernel

theorem windowed_segments : SegmentsPartitioned (windowed 1) := by
  intro g
  have others : ∀ k : Fin 32, k ≠ 0 → (windowed 1).slots[k] = none := by decide +kernel
  have zero : (windowed 1).slots[(0 : Fin 32)] = some (capture .opened) := by decide +kernel
  have chains : ∑ k : Fin 32, (chainIn (windowed 1).slots[k]).count g = [0].count g := by
    rw [Finset.sum_eq_single (0 : Fin 32)]
    · rw [zero]; rfl
    · intro k _ h
      rw [others k h]
      rfl
    · intro h
      exact absurd (Finset.mem_univ _) h
  have free : (windowed 1).freeList = List.range' 1 511 := rfl
  rw [timesHeld, chains, free, (List.nodup_range' (s := 1) (n := 511)).count]
  simp only [List.mem_range'_1, List.count_singleton]
  split <;> split <;> split <;> simp_all <;> omega

theorem windowed_store : StoreSound (windowed 1) where
  captures :=
    { ids := fun j k c d hj hk _ => (windowed_only j c hj).1.trans (windowed_only k d hk).1.symm
      delivery :=
        { nodup := List.nodup_nil
          settled := nofun
          joined := by
            intro k c h settled
            obtain ⟨-, rfl⟩ := windowed_only k c h
            rcases settled with h | h <;> cases h
          head := nofun
          oneSends := by
            intro k c h state
            obtain ⟨-, rfl⟩ := windowed_only k c h
            cases state }
      tags :=
        { entries := by
            intro cam e id h
            have none : ∀ cam : Fin 4, (windowed 1).ports[cam].outstanding = [] := by decide +kernel
            rw [none cam] at h
            cases h
          windows := by
            intro cam w h
            have others : ∀ cam : Fin 4, cam ≠ 0 → (windowed 1).channels[cam].openWindow = none := by decide +kernel
            by_cases z : cam = 0
            · subst z
              have zero : (windowed 1).channels[(0 : Fin 4)].openWindow
                  = some { window := windowOf 5 6, capture := 9, tagged := 1, rowLimit := 64 } := by decide +kernel
              cases zero.symm.trans h
              exact ⟨0, _, windowed_holds, rfl, rfl, rfl⟩
            · cases (others cam z).symm.trans h } }
  sender :=
    { sending := by
        intro k c h state
        obtain ⟨-, rfl⟩ := windowed_only k c h
        cases state
      busy := ⟨nofun, nofun⟩
      idle := fun _ => rfl }
  chains :=
    { held := by
        intro k c h _
        obtain ⟨-, rfl⟩ := windowed_only k c h
        rfl
      sent := by
        intro k c h state
        obtain ⟨-, rfl⟩ := windowed_only k c h
        cases state }
  segments := windowed_segments

theorem test_StepsKeepStoreSound_witness :
    StoreSound (windowed 1) ∧ StoreInRange (windowed 1) ∧ step (windowed 1) = .next ((windowed 1).pass 40) := by
  refine ⟨windowed_store, ⟨rfl, by decide +kernel, ?_⟩, rfl⟩
  intro k c h
  obtain ⟨-, rfl⟩ := windowed_only k c h
  decide

theorem test_StepsKeepSlotsSound_witness :
    StoreSound (windowed 1) ∧ SlotsSound (windowed 1) ∧ step (windowed 1) = .next ((windowed 1).pass 40) := by
  refine ⟨windowed_store, ⟨?_, ?_, ?_, ?_⟩, rfl⟩
  · intro k c h
    obtain ⟨rfl, rfl⟩ := windowed_only k c h
    exact ⟨condRecord, by decide +kernel, rfl, rfl, rfl, rfl⟩
  · decide +kernel
  · intro k c w h set
    obtain ⟨-, rfl⟩ := windowed_only k c h
    cases set
  · intro w x h
    have none : ∀ w : Fin 8, (windowed 1).workSets[w] = none := by decide +kernel
    cases (none w).symm.trans h
end Sys2Proof.Tests
end

section
/-! SUPPORT. The Table Store: the failing entries a COMMIT looks for (R6, R8, R10, R16), the ranges that staging and
commits keep (R14, R17), and the one inversion of what any command can do to the tables. -/

namespace Sys2Proof.Machine

/-! ### The failing entries of a COMMIT (R6, R8, R10) -/

theorem cameraFails_iff (staging : Images) (c : Fin 4) :
    cameraFails staging c = true ↔ ∃ (e : SiteCamera) (k : Track), staging.siteCameras[c] = some e ∧ e.track = some k
      ∧ ∀ x, staging.siteTracks[trackIndex k] = some x → x.valid = false := by
  unfold cameraFails
  split
  · next none => simp [none]
  · next e he =>
    split
    · next hk => simp [he, hk]
    · next k hk => simp [he, hk, Option.all_eq_true]

theorem profileFails_iff (staging active : Images) (i : Fin 32) :
    profileFails staging active i = true ↔ ∃ e, staging.consist[i] = some e
      ∧ ∃ p ∈ e.pantos, active.headClasses[p.headClass] = none := by
  unfold profileFails
  split
  · next none => simp [none]
  · next e he => simp [he, List.any_eq_true]

theorem classFails_iff (staging active : Images) (k : Fin 16) :
    classFails staging active k = true ↔ staging.headClasses[k] = none
      ∧ ∃ (i : Fin 32) (e : Profile), active.consist[i] = some e ∧ ∃ p ∈ e.pantos, p.headClass = k := by
  unfold classFails
  rw [Bool.and_eq_true, Option.isNone_iff_eq_none, List.any_eq_true]
  refine and_congr_right fun _ => exists_congr fun i => ?_
  split
  · next none => simp [none]
  · next e he => simp [he, List.any_eq_true]

theorem commitFailure_site_eq_none_iff (staging active : Images) :
    commitFailure .site staging active = none ↔ ∀ c : Fin 4, cameraFails staging c = false := by
  unfold commitFailure
  rw [Option.map_eq_none_iff, List.find?_eq_none]
  simp [cameras, Fin.forall_fin_succ]

theorem commitFailure_consist_eq_none_iff (staging active : Images) :
    commitFailure .consist staging active = none ↔
      staging.consist[0] ≠ none ∧ ∀ i : Fin 32, profileFails staging active i = false := by
  unfold commitFailure
  dsimp only
  split
  · next empty => simp [Option.isNone_iff_eq_none.1 empty]
  · next held => simp [Option.isNone_iff_eq_none.not.1 held]

theorem commitFailure_headClass_eq_none_iff (staging active : Images) :
    commitFailure .headClass staging active = none ↔ ∀ k : Fin 16, classFails staging active k = false := by
  unfold commitFailure
  simp

/-! ### Images in range -/

theorem Images.InRange.empty : Images.empty.InRange := by
  constructor <;> simp [Images.empty]

/-- A table in range copied into an image in range (R17). -/
theorem Images.InRange.copy {source target : Images} (hs : source.InRange) (ht : target.InRange) (t : TableId) :
    (source.copy target t).InRange := by
  cases t
  · exact { ht with siteTracks := hs.siteTracks, siteCameras := hs.siteCameras }
  · exact { ht with consist := hs.consist }
  · exact { ht with headClasses := hs.headClasses }
  · exact { ht with blankMap := hs.blankMap }

/-- Clearing a table is a copy from the empty image. -/
theorem Images.clear_eq_copy (im : Images) (t : TableId) : im.clear t = Images.empty.copy im t := by
  cases t <;> rfl

/-- What every item of a vector has, the items have after one of them is replaced by an item that has it. -/
theorem set_keeps {α : Type} {n : Nat} {v : Vector (Option α) n} (P : Fin n → α → Prop)
    (hv : ∀ (i : Fin n) (e : α), v[i] = some e → P i e) {k : Nat} (hk : k < n) {o : Option α}
    (ho : ∀ e, o = some e → P ⟨k, hk⟩ e) (i : Fin n) (e : α) (h : (v.set k o)[i] = some e) : P i e := by
  simp only [Fin.getElem_fin, Vector.getElem_set] at h
  split at h
  · next same => obtain rfl : i = ⟨k, hk⟩ := Fin.ext same.symm; exact ho e h
  · exact hv i e h

/-- `set_keeps` for an item that holds something. -/
theorem set_some_keeps {α : Type} {n : Nat} {v : Vector (Option α) n} (P : Fin n → α → Prop)
    (hv : ∀ (i : Fin n) (e : α), v[i] = some e → P i e) {k : Nat} (hk : k < n) {x : α} (hx : P ⟨k, hk⟩ x) (i : Fin n)
    (e : α) (h : (v.set k (some x))[i] = some e) : P i e :=
  set_keeps P hv hk (fun _ same => Option.some.inj same ▸ hx) i e h

/-- An entry made EMPTY leaves the image in range. -/
theorem Images.InRange.clearEntry {im : Images} (h : im.InRange) (t : TableId) (index : Nat) :
    (im.clearEntry t index).InRange := by
  unfold Images.clearEntry
  cases t <;> dsimp only
  · split
    · exact { h with siteTracks := set_keeps (fun _ => SiteTrack.InRange) h.siteTracks ‹_› nofun }
    · split
      · exact { h with siteCameras := set_keeps (fun _ => SiteCamera.InRange) h.siteCameras ‹_› nofun }
      · exact h
  · split
    · exact { h with consist := set_keeps (fun i => Profile.InRange i.val) h.consist ‹_› nofun }
    · exact h
  · split
    · exact { h with headClasses := set_keeps (fun _ => HeadClass.InRange) h.headClasses ‹_› nofun }
    · exact h
  · split
    · exact { h with blankMap := set_keeps (fun _ => BlankEntry.InRange) h.blankMap ‹_› nofun }
    · exact h

/-- An entry in range at its index keeps the image in range (R14). -/
theorem Images.InRange.putEntry {im : Images} (h : im.InRange) {index : Nat} {e : TableEntry}
    (he : e.inRange index = true) : (im.putEntry index e).InRange := by
  unfold Images.putEntry
  cases e <;> dsimp only <;> have range := of_decide_eq_true he <;> split
  · exact { h with siteTracks := set_some_keeps (fun _ => SiteTrack.InRange) h.siteTracks ‹_› range }
  · exact h
  · exact { h with siteCameras := set_some_keeps (fun _ => SiteCamera.InRange) h.siteCameras ‹_› range }
  · exact h
  · exact { h with consist := set_some_keeps (fun i => Profile.InRange i.val) h.consist ‹_› range }
  · exact h
  · exact { h with headClasses := set_some_keeps (fun _ => HeadClass.InRange) h.headClasses ‹_› range }
  · exact h
  · exact { h with blankMap := set_some_keeps (fun _ => BlankEntry.InRange) h.blankMap ‹_› range }
  · exact h

/-- Staged entries that are EMPTY or in range keep the image in range (R12, R13). -/
theorem Images.InRange.stageAll {im : Images} (h : im.InRange) (t : TableId) (entries : List (Nat × Option TableEntry))
    (he : ∀ x ∈ entries, ∀ e, x.2 = some e → e.inRange x.1 = true) : (entries.foldl (Images.stage t) im).InRange := by
  induction entries generalizing im with
  | nil => exact h
  | cons x rest ih =>
    refine ih ?_ fun y hy => he y (List.mem_cons_of_mem _ hy)
    unfold Images.stage
    split
    · exact h.clearEntry t x.1
    · next e hx => exact h.putEntry (he x List.mem_cons_self e hx)

/-! ### The checks of a staging command (R14) -/

/-- An entry that passes step 3 is the one its fields spell, and it is in range. -/
theorem checkEntry_eq_some_iff (index : Nat) (raw : RawEntry) (e : TableEntry) :
    checkEntry index raw = some e ↔ entryOf raw = some e ∧ e.inRange index = true := by
  unfold checkEntry
  split
  · next none => simp [none]
  · next d hd => rw [hd]; grind

/-- Every entry that step 3 lets through is in range. -/
theorem checkEntries_inRange {raws : List (Nat × Option RawEntry)} {entries : List (Nat × Option TableEntry)}
    (h : checkEntries raws = .ok entries) : ∀ x ∈ entries, ∀ e, x.2 = some e → e.inRange x.1 = true := by
  fun_induction checkEntries raws generalizing entries with
  | case1 => cases h; nofun
  | case2 => cases h
  | case3 index rest out hout ih => cases h; simpa using ih hout
  | case4 => cases h
  | case5 => cases h
  | case6 index raw rest e he out hout ih =>
    cases h
    have range := ((checkEntry_eq_some_iff ..).1 he).2
    simpa [range] using ih hout

/-- A staging command that passes its checks, taken apart: the table, and the two steps of R14. -/
theorem stageCheck_eq_ok_iff (params : List Byte) (t : TableId) (entries : List (Nat × Option TableEntry)) :
    stageCheck params = .ok (t, entries) ↔ ∃ table count bs raws, params = table :: count :: bs ∧ tableOf table = some t
      ∧ readEntries t count.toNat [] bs = .ok raws ∧ checkEntries raws = .ok entries := by
  constructor
  · intro h
    unfold stageCheck at h
    repeat' split at h
    all_goals cases h
    exact ⟨_, _, _, _, rfl, ‹_›, ‹_›, ‹_›⟩
  · rintro ⟨table, count, bs, raws, rfl, table_ok, read, checked⟩
    simp [stageCheck, table_ok, read, checked]

/-! ### Sound tables -/

/-- Both images in range, and every head class that a valid active profile names valid (R8, R10, R14, R17). -/
structure Tables.Sound (x : Tables) : Prop where
  active : x.active.InRange
  staging : x.staging.InRange
  references : ∀ (i : Fin 32) (e : Profile), x.active.consist[i] = some e →
    ∀ p ∈ e.pantos, x.active.headClasses[p.headClass].isSome

/-- The two invariants of a state are about its Table Store alone. -/
theorem tables_sound_iff (s : State) : s.tables.Sound ↔ TablesInRange s ∧ ReferencesValid s :=
  ⟨fun h => ⟨⟨h.active, h.staging⟩, h.references⟩, fun h => ⟨h.1.active, h.1.staging, h.2⟩⟩

theorem Tables.Sound.reset : State.reset.tables.Sound :=
  ⟨.empty, .empty, fun i e h => by simp [State.reset, Images.empty] at h⟩

/-- R17: a COMMIT whose reference check found no failing entry. -/
theorem Tables.Sound.commitTaken {x : Tables} (h : x.Sound) {t : TableId}
    (passed : commitFailure t x.staging x.active = none) : (commitTaken t x).Sound := by
  refine ⟨h.staging.copy h.active t, h.staging, ?_⟩
  cases t with
  | site => exact h.references
  | blankMap => exact h.references
  | consist =>
    intro i e hi p hp
    by_contra missing
    have fails : profileFails x.staging x.active i = true :=
      (profileFails_iff ..).2 ⟨e, hi, p, hp, Option.not_isSome_iff_eq_none.1 missing⟩
    simp [((commitFailure_consist_eq_none_iff ..).1 passed).2 i] at fails
  | headClass =>
    intro i e hi p hp
    by_contra missing
    have fails : classFails x.staging x.active p.headClass = true :=
      (classFails_iff ..).2 ⟨Option.not_isSome_iff_eq_none.1 missing, i, e, hi, p, hp, rfl⟩
    simp [(commitFailure_headClass_eq_none_iff ..).1 passed p.headClass] at fails

/-! ### What a command can do to the tables -/

/-- The changes of the Table Store: none, the two resets (R3, R191), the latch (R15), a staging command that passed its
checks (R12 to R14), and a COMMIT taken (R16, R17). -/
inductive TableChange (x : Tables) : Tables → Prop where
  | same : TableChange x x
  | hardReset : TableChange x State.reset.tables
  | softReset : TableChange x { x with staging := Images.empty, latch := false }
  | latch (value : Bool) : TableChange x { x with latch := value }
  | loaded (params : List Byte) (t : TableId) (entries : List (Nat × Option TableEntry)) :
      stageCheck params = .ok (t, entries) → TableChange x { x with staging := stageLoaded t entries x.staging }
  | patched (params : List Byte) (t : TableId) (entries : List (Nat × Option TableEntry)) :
      stageCheck params = .ok (t, entries) → TableChange x { x with staging := stagePatched t entries x.staging }
  | committed (t : TableId) : commitFailure t x.staging x.active = none →
      TableChange x { commitTaken t x with latch := false }

theorem TableChange.of_eq {x y : Tables} (h : y = x) : TableChange x y := h ▸ .same

/-- Every entry of a staging command that passed its checks is EMPTY or in range. -/
theorem stageCheck_inRange {params : List Byte} {t : TableId} {entries : List (Nat × Option TableEntry)}
    (h : stageCheck params = .ok (t, entries)) : ∀ x ∈ entries, ∀ e, x.2 = some e → e.inRange x.1 = true := by
  obtain ⟨_, _, _, _, _, _, _, checked⟩ := (stageCheck_eq_ok_iff ..).1 h
  exact checkEntries_inRange checked

/-- Every change keeps the tables sound. -/
theorem Tables.Sound.change {x y : Tables} (h : x.Sound) (c : TableChange x y) : y.Sound := by
  cases c with
  | same => exact h
  | hardReset => exact .reset
  | softReset => exact { h with staging := .empty }
  | latch => exact { h with }
  | loaded params t entries ok =>
    refine { h with staging := Images.InRange.stageAll ?_ t entries (stageCheck_inRange ok) }
    rw [Images.clear_eq_copy]
    exact .copy .empty h.staging t
  | patched params t entries ok => exact { h with staging := h.staging.stageAll t entries (stageCheck_inRange ok) }
  | committed t passed => exact { h.commitTaken passed with }

/-! ### Commands that leave the tables alone -/

@[simp] theorem pass_tables (s : State) (ns : Nat) : (s.pass ns).tables = s.tables := by
  unfold State.pass
  split <;> rfl

@[simp] theorem softReset_tables (s : State) :
    (softReset s).tables = { s.tables with staging := Images.empty, latch := false } := rfl

theorem takePulse_tables (t : Track) (st : Station) (d : Detector) (time : Stamp) (s : State) :
    (takePulse t st d time s).tables = s.tables := by
  unfold takePulse
  split
  · rfl
  · split
    · exact (takeCrossing_keeps ..).tables
    · exact (takeCrossing_keeps ..).tables

theorem acceptPulse_tables (l : Fin 8) (s : State) : (acceptPulse l s).tables = s.tables := by
  unfold acceptPulse
  split
  · rfl
  · exact takePulse_tables ..

theorem trailingEdge_tables (l : Fin 8) (s : State) : (trailingEdge l s).tables = s.tables := by
  unfold trailingEdge
  split
  · rfl
  · exact acceptPulse_tables l s

theorem lineEvent_tables (l : Fin 8) (inReset : Line → Line) {live : State → State} (s : State)
    (h : (live s).tables = s.tables) : (lineEvent l inReset live s).tables = s.tables := by
  unfold lineEvent
  split
  · rfl
  · exact h

theorem expireWait_tables (t : Track) (st : Station) (s : State) : (expireWait t st s).tables = s.tables := by
  unfold expireWait
  split
  · rfl
  · split
    · exact (takeCrossing_keeps ..).tables
    · rfl

theorem staleNow_tables (t : Track) (s : State) : (staleNow t s).tables = s.tables := by
  unfold staleNow
  split
  · split <;> rfl
  · rfl

theorem quietNow_tables (t : Track) (s : State) : (quietNow t s).tables = s.tables := by
  unfold quietNow
  split
  · rfl
  · split
    · exact (endPassage_keeps ..).tables
    · rfl

theorem settleNow_tables (t : Track) (s : State) : (settleNow t s).tables = s.tables := by
  unfold settleNow
  split
  · split <;> rfl
  · rfl
  · rfl
  · rfl

theorem cameraUp_tables (cam : Fin 4) (heldNs : Nat) (s : State) : (cameraUp cam heldNs s).tables = s.tables := by
  unfold cameraUp
  split <;> rfl

theorem cameraDown_tables (cam : Fin 4) (inReception : Bool) (s : State) :
    (cameraDown cam inReception s).tables = s.tables := by
  unfold cameraDown
  split <;> rfl

theorem uplinkUp_tables (heldNs : Nat) (s : State) : (uplinkUp heldNs s).tables = s.tables := by
  unfold uplinkUp
  split <;> rfl

theorem frameArrives_tables (fresh : Bool) (frame : List Byte) (s : State) :
    (frameArrives fresh frame s).tables = s.tables := by
  unfold frameArrives
  split <;> rfl

theorem grantCapture_tables (s : State) : (grantCapture s).tables = s.tables := by
  unfold grantCapture
  split
  · rfl
  · split <;> rfl

theorem grantClass_tables (c : TxClass) (s : State) : (grantClass c s).tables = s.tables := by
  cases c with
  | capture => exact grantCapture_tables s
  | reply | alert | summary | note => unfold grantClass; dsimp only; split <;> rfl

theorem grant_tables (s : State) : (grant s).tables = s.tables := by
  unfold grant
  split
  · unfold grantNext
    split
    · rfl
    · exact grantClass_tables ..
  · rfl

theorem releaseHead_tables (k : Fin 32) (s : State) : (releaseHead k s).tables = s.tables := by
  unfold releaseHead
  split
  · rfl
  · split <;> rfl

theorem senderEnd_tables (kind : TxKind) (s : State) : (senderEnd kind s).tables = s.tables := by
  unfold senderEnd
  split
  · rfl
  · cases kind with
    | header | reply | alert | summary | note => rfl
    | block rows =>
      dsimp only
      split
      · exact releaseHead_tables ..
      · rfl
    | captureEnd => exact (senderTake_keeps _).tables

/-! ### Commands that change them -/

theorem recordEndNow_change (s : State) : TableChange s.tables (recordEndNow s).tables := by
  unfold recordEndNow
  split
  · exact .same
  · next x _ =>
    split
    · unfold recordEnds
      cases x.kind with
      | reply code =>
        dsimp only
        split
        · exact .softReset
        · exact .same
      | alert | summary | note => exact .same
      | header | block | captureEnd => exact .of_eq (senderEnd_tables ..)
    · exact .same

theorem cutRecord_tables (x : Option Transmission) (s : State) : (cutRecord x s).tables = s.tables := by
  cases x with
  | none => rfl
  | some x => exact senderEnd_tables ..

theorem uplinkDown_change (inReception : Bool) (s : State) :
    TableChange s.tables (uplinkDown inReception s).tables := by
  unfold uplinkDown
  split
  · dsimp only
    split
    · rw [softReset_tables, cutRecord_tables]; exact .softReset
    · exact .of_eq (cutRecord_tables ..)
  · exact .same

theorem rstnFalls_change (lowNs : Nat) (s : State) : TableChange s.tables (rstnFalls lowNs s).tables := by
  unfold rstnFalls
  split
  · exact .hardReset
  · split
    · exact .same
    · unfold shortPulse
      dsimp only
      split
      · exact .hardReset
      · exact .same

theorem interpret_change {owner : Owner} (h : ∀ params u, TableChange u.tables (owner params u).1.tables)
    (mine : Command → Bool) (s : State) : TableChange s.tables (interpret mine owner s).tables := by
  unfold interpret
  split
  · exact .same
  · split
    · exact h _ (s.modUplink _)
    · exact .same

theorem interpretTogether_change {owner : Owner} (h : ∀ params u, TableChange u.tables (owner params u).1.tables)
    (mine : Command → Bool) (s : State) : TableChange s.tables (interpretTogether mine owner s).tables := by
  unfold interpretTogether
  rw [(together_keeps ..).tables]
  exact interpret_change h mine s

theorem ownTableRead_tables (params : List Byte) (s : State) : (ownTableRead params s).1.tables = s.tables := by
  unfold ownTableRead
  split <;> rfl

theorem ownStage_change {apply : TableId → List (Nat × Option TableEntry) → Images → Images}
    (h : apply = stageLoaded ∨ apply = stagePatched) (params : List Byte) (s : State) :
    TableChange s.tables (ownStage apply params s).1.tables := by
  unfold ownStage
  split
  · exact .same
  · next t entries ok =>
    rcases h with rfl | rfl
    · exact .loaded params t entries ok
    · exact .patched params t entries ok

theorem ownCommit_change (params : List Byte) (s : State) : TableChange s.tables (ownCommit params s).1.tables := by
  unfold ownCommit clearLatch
  split
  · exact .latch false
  · next t _ =>
    unfold commitNamed
    split
    · exact .latch false
    · split
      · exact .latch false
      · split
        · exact .latch false
        · next passed => exact .committed t passed

theorem enableTrack_tables (t : Track) (s : State) : (enableTrack t s).1.tables = s.tables := by
  unfold enableTrack
  split
  · split <;> rfl
  all_goals rfl

theorem disableTrack_tables (t : Track) (s : State) : (disableTrack t s).1.tables = s.tables := by
  unfold disableTrack
  split
  · exact (endPassage_keeps ..).tables
  all_goals rfl

theorem abandonTrack_tables (t : Track) (s : State) : (abandonTrack t s).1.tables = s.tables := by
  unfold abandonTrack
  split
  · exact (endPassage_keeps ..).tables
  all_goals rfl

theorem ownEnable_tables (params : List Byte) (s : State) : (ownEnable params s).1.tables = s.tables := by
  unfold ownEnable
  split
  · split
    · rfl
    · split
      · exact enableTrack_tables ..
      · rfl
  · rfl

theorem ownDisable_tables (params : List Byte) (s : State) : (ownDisable params s).1.tables = s.tables := by
  unfold ownDisable
  split
  · split
    · rfl
    · split
      · exact disableTrack_tables ..
      · rfl
  · rfl

theorem ownAbandon_tables (params : List Byte) (s : State) : (ownAbandon params s).1.tables = s.tables := by
  unfold ownAbandon
  split
  · split
    · rfl
    · exact abandonTrack_tables ..
  · rfl

theorem setDrain_tables (value : Bool) (s : State) : (setDrain value s).tables = s.tables :=
  (senderTake_keeps _).tables

theorem ownDrainOn_tables (params : List Byte) (s : State) : (ownDrainOn params s).1.tables = s.tables := by
  unfold ownDrainOn
  split
  · exact setDrain_tables ..
  · rfl

theorem ownDrainOff_tables (params : List Byte) (s : State) : (ownDrainOff params s).1.tables = s.tables := by
  unfold ownDrainOff
  split
  · exact setDrain_tables ..
  · rfl

theorem ownCameraPass_tables (params : List Byte) (s : State) : (ownCameraPass params s).1.tables = s.tables := by
  unfold ownCameraPass
  split
  · rfl
  · split
    · rfl
    · split <;> rfl

theorem interpretReset_change (s : State) : TableChange s.tables (interpretReset s).tables := by
  unfold interpretReset
  split
  · exact .same
  · split
    · unfold resetIfDown
      split
      · exact .softReset
      · exact .same
    · exact .same

/-! ### Every step -/

theorem atOnce_change {f : State → State} {s t : State} (h : ∀ u, TableChange u.tables (f u).tables)
    (e : atOnce f s = .next t) : TableChange s.tables t.tables :=
  atOnce_keeps (P := fun u => TableChange s.tables u.tables) .same (fun _ => h s) e

theorem timed_change {after : Nat} {f : State → State} {s t : State} (h : ∀ u, TableChange u.tables (f u).tables)
    (e : timed after f s = .next t) : TableChange s.tables t.tables :=
  pass_tables s after ▸ atOnce_change h e

theorem exec_change (c : Instr) {s t : State} (e : exec c s = .next t) : TableChange s.tables t.tables := by
  cases c with
  | powerOn => cases e; exact .hardReset
  | rstnReset after lowNs => cases e; exact pass_tables s after ▸ rstnFalls_change ..
  | rstnRelease after => cases e; exact .of_eq (pass_tables ..)
  | leadingEdge after l => cases e; exact .of_eq ((lineEvent_tables _ _ _ rfl).trans (pass_tables ..))
  | trailingEdge after l =>
    cases e; exact .of_eq ((lineEvent_tables _ _ _ (trailingEdge_tables ..)).trans (pass_tables ..))
  | pulseAccepted after l => exact timed_change (fun _ => .of_eq (acceptPulse_tables ..)) e
  | pairTimeout after track st => exact timed_change (fun _ => .of_eq (expireWait_tables ..)) e
  | staleExpiry after track => exact timed_change (fun _ => .of_eq (staleNow_tables ..)) e
  | quietDeadline after track => exact timed_change (fun _ => .of_eq (quietNow_tables ..)) e
  | settleExpiry after track => exact timed_change (fun _ => .of_eq (settleNow_tables ..)) e
  | trigger after cam => exact timed_change (fun _ => .of_eq (triggerNow_keeps ..).tables) e
  | rowTimeout after cam => exact timed_change (fun _ => .of_eq (resolveHeads_keeps ..).tables) e
  | rowFrame after cam fresh frame =>
    exact timed_change (fun u => .of_eq (forwardFrame_keeps cam fresh frame u).tables) e
  | cameraNote after cam fresh frame =>
    exact timed_change (fun u => .of_eq (forwardFrame_keeps cam fresh frame u).tables) e
  | cameraLinkUp after cam heldNs => exact timed_change (fun _ => .of_eq (cameraUp_tables ..)) e
  | cameraLinkDown after cam inReception => exact timed_change (fun _ => .of_eq (cameraDown_tables ..)) e
  | passThroughSend cam => exact atOnce_change (f := fun u => u.modPort cam Port.sendMessage) (fun _ => .same) e
  | messageSent after cam =>
    exact timed_change (f := fun u => u.modPort cam fun p => { p with lane := p.lane.finishMessage }) (fun _ => .same) e
  | uplinkLinkUp after heldNs => exact timed_change (fun _ => .of_eq (uplinkUp_tables ..)) e
  | uplinkLinkDown after inReception => exact timed_change (uplinkDown_change inReception) e
  | frameReceived after fresh frame => exact timed_change (fun _ => .of_eq (frameArrives_tables ..)) e
  | recordGrant => exact atOnce_change (fun _ => .of_eq (grant_tables ..)) e
  | recordEnd after => exact timed_change recordEndNow_change e
  | status => exact atOnce_change (interpret_change (fun _ _ => .same) _) e
  | tableRead => exact atOnce_change (interpret_change (fun _ _ => .of_eq (ownTableRead_tables ..)) _) e
  | stageLoad => exact atOnce_change (interpret_change (ownStage_change (.inl rfl)) _) e
  | stagePatch => exact atOnce_change (interpret_change (ownStage_change (.inr rfl)) _) e
  | commitEnable => exact atOnce_change (interpret_change (fun _ _ => .latch true) _) e
  | commitDisable => exact atOnce_change (interpret_change (fun _ _ => .latch false) _) e
  | commit => exact atOnce_change (interpret_change ownCommit_change _) e
  | trackControlEnable => exact atOnce_change (interpret_change (fun _ _ => .of_eq (ownEnable_tables ..)) _) e
  | trackControlDisable =>
    exact atOnce_change (interpretTogether_change (fun _ _ => .of_eq (ownDisable_tables ..)) _) e
  | abandon => exact atOnce_change (interpretTogether_change (fun _ _ => .of_eq (ownAbandon_tables ..)) _) e
  | drainOn => exact atOnce_change (interpretTogether_change (fun _ _ => .of_eq (ownDrainOn_tables ..)) _) e
  | drainOff => exact atOnce_change (interpret_change (fun _ _ => .of_eq (ownDrainOff_tables ..)) _) e
  | clearStats => exact atOnce_change (interpret_change (fun _ _ => .same) _) e
  | clearConditions => exact atOnce_change (interpret_change (fun _ _ => .same) _) e
  | cameraPass => exact atOnce_change (interpret_change (fun _ _ => .of_eq (ownCameraPass_tables ..)) _) e
  | reset => exact atOnce_change interpretReset_change e
  | unknownCommand => exact atOnce_change (interpret_change (fun _ _ => .same) _) e

theorem step_change {s t : State} (e : step s = .next t) : TableChange s.tables t.tables := by
  unfold step at e
  split at e
  · cases e; exact .of_eq (pass_tables ..)
  · next c rest _ => exact exec_change (s := { s with pending := rest }) c e

end Sys2Proof.Machine

namespace Sys2Proof.Settled

open Sys2Proof.Machine

/-- Settles O54: a step makes one of the changes of `TableChange`, and each keeps the tables sound. -/
theorem stepsKeepTablesSound : Obligations.StepsKeepTablesSound := by
  intro s t ranges references stepped
  exact (tables_sound_iff t).1 (((tables_sound_iff s).2 ⟨ranges, references⟩).change (step_change stepped))

end Sys2Proof.Settled
end

section
/-! SUPPORT. The entries of an image by table and index (R1): which there are, their kinds, and how they stand after a
copy (R17) and after a staged entry (R12, R13). -/

namespace Sys2Proof.Machine

/-! ### Entries by index (R1) -/

theorem entry_siteTrack (im : Images) (i : Fin 2) :
    im.entry .site i.val = some (im.siteTracks[i].map .siteTrack) := by
  simp only [Images.entry, dif_pos i.isLt]
  rfl

theorem entry_siteCamera (im : Images) (i : Fin 4) :
    im.entry .site (2 + i.val) = some (im.siteCameras[i].map .siteCamera) := by
  have camera : ¬ 2 + i.val < 2 := Nat.not_lt_of_le (Nat.le_add_right 2 i.val)
  simp only [Images.entry, dif_neg camera, Nat.add_sub_cancel_left, dif_pos i.isLt]
  rfl

theorem entry_consist (im : Images) (i : Fin 32) : im.entry .consist i.val = some (im.consist[i].map .profile) := by
  simp [Images.entry]

theorem entry_headClass (im : Images) (i : Fin 16) :
    im.entry .headClass i.val = some (im.headClasses[i].map .headClass) := by
  simp [Images.entry]

theorem entry_blankMap (im : Images) (i : Fin 4) : im.entry .blankMap i.val = some (im.blankMap[i].map .blankMap) := by
  simp [Images.entry]

/-- The indices of a table are those below its size. -/
theorem entry_isSome_iff (im : Images) (t : TableId) (index : Nat) :
    (im.entry t index).isSome = true ↔ index < tableSize t := by
  cases t <;> simp only [Images.entry, tableSize] <;> split <;> try split
  all_goals simp; omega

theorem entry_eq_none_iff (im : Images) (t : TableId) (index : Nat) :
    im.entry t index = none ↔ tableSize t ≤ index := by
  rw [← Option.not_isSome_iff_eq_none, entry_isSome_iff, not_lt]

theorem entry_empty (t : TableId) {index : Nat} (h : index < tableSize t) :
    Images.empty.entry t index = some none := by
  cases t <;> simp only [Images.entry, Images.empty, tableSize] at h ⊢ <;> split <;> try split
  all_goals simp; try omega

/-! ### Kinds (R202) -/

/-- The kind of an entry that holds fields. -/
def TableEntry.kind : TableEntry → EntryKind
  | .siteTrack _ => .siteTrack
  | .siteCamera _ => .siteCamera
  | .profile _ => .profile
  | .headClass _ => .headClass
  | .blankMap _ => .blankMap

/-- An entry of a table has the kind of its table and index. -/
theorem kind_of_entry {im : Images} {t : TableId} {index : Nat} {e : TableEntry}
    (h : im.entry t index = some (some e)) : e.kind = entryKind t index := by
  cases t <;> simp only [Images.entry, entryKind] at h ⊢
  · split at h
    · next track =>
      obtain ⟨x, -, rfl⟩ := Option.map_eq_some_iff.1 (Option.some.inj h)
      rw [if_pos track]; rfl
    · next camera =>
      split at h
      · obtain ⟨x, -, rfl⟩ := Option.map_eq_some_iff.1 (Option.some.inj h)
        rw [if_neg camera]; rfl
      · cases h
  all_goals
    split at h
    · obtain ⟨x, -, rfl⟩ := Option.map_eq_some_iff.1 (Option.some.inj h)
      rfl
    · cases h

/-! ### Copies (R17) -/

theorem entry_copy_same (source target : Images) (t : TableId) (index : Nat) :
    (source.copy target t).entry t index = source.entry t index := by
  cases t <;> rfl

theorem entry_copy_other (source target : Images) {t u : TableId} (h : u ≠ t) (index : Nat) :
    (source.copy target t).entry u index = target.entry u index := by
  cases t <;> cases u <;> try contradiction
  all_goals rfl

/-! ### Staged entries (R12, R13) -/

/-- A staged entry: EMPTY, or of the kind of its index. -/
def Stageable (t : TableId) (x : Nat × Option TableEntry) : Prop :=
  x.1 < tableSize t ∧ ∀ e, x.2 = some e → e.kind = entryKind t x.1

/-- What a staged entry does to an image: one position of one vector takes it. -/
inductive EntryStaged (im : Images) : TableId → Nat → Option TableEntry → Images → Prop where
  | siteTrack (i : Nat) (h : i < 2) (o : Option SiteTrack) :
      EntryStaged im .site i (o.map .siteTrack) { im with siteTracks := im.siteTracks.set i o }
  | siteCamera (i : Nat) (h : i < 4) (o : Option SiteCamera) :
      EntryStaged im .site (i + 2) (o.map .siteCamera) { im with siteCameras := im.siteCameras.set i o }
  | profile (i : Nat) (h : i < 32) (o : Option Profile) :
      EntryStaged im .consist i (o.map .profile) { im with consist := im.consist.set i o }
  | headClass (i : Nat) (h : i < 16) (o : Option HeadClass) :
      EntryStaged im .headClass i (o.map .headClass) { im with headClasses := im.headClasses.set i o }
  | blankMap (i : Nat) (h : i < 4) (o : Option BlankEntry) :
      EntryStaged im .blankMap i (o.map .blankMap) { im with blankMap := im.blankMap.set i o }

/-- An EMPTY entry inside its table. -/
theorem stage_empty (im : Images) {t : TableId} {index : Nat} (h : index < tableSize t) :
    EntryStaged im t index none (im.stage t (index, none)) := by
  unfold Images.stage Images.clearEntry
  cases t with
  | site =>
    by_cases track : index < 2
    · simpa [track] using EntryStaged.siteTrack (im := im) index track none
    · obtain ⟨i, rfl⟩ := Nat.exists_eq_add_of_le' (Nat.not_lt.1 track)
      have camera : i < 4 := Nat.lt_of_add_lt_add_right h
      simpa [camera] using EntryStaged.siteCamera (im := im) i camera none
  | consist =>
    replace h : index < 32 := h
    simpa [h] using EntryStaged.profile (im := im) index h none
  | headClass =>
    replace h : index < 16 := h
    simpa [h] using EntryStaged.headClass (im := im) index h none
  | blankMap =>
    replace h : index < 4 := h
    simpa [h] using EntryStaged.blankMap (im := im) index h none

/-- The table and the index of an entry inside its table, from its kind. -/
theorem entryKind_inside {t : TableId} {index : Nat} (h : index < tableSize t) :
    match entryKind t index with
    | .siteTrack => t = .site ∧ index < 2
    | .siteCamera => t = .site ∧ ∃ i < 4, index = i + 2
    | .profile => t = .consist ∧ index < 32
    | .headClass => t = .headClass ∧ index < 16
    | .blankMap => t = .blankMap ∧ index < 4 := by
  cases t with
  | site =>
    by_cases track : index < 2
    · simp [entryKind, track]
    · obtain ⟨i, rfl⟩ := Nat.exists_eq_add_of_le' (Nat.not_lt.1 track)
      have camera : i < 4 := Nat.lt_of_add_lt_add_right h
      simpa [entryKind] using camera
  | consist | headClass | blankMap => simpa [entryKind, tableSize] using h

/-- An entry of its index's kind. -/
theorem stage_fields (im : Images) {t : TableId} {index : Nat} {e : TableEntry} (inside : index < tableSize t)
    (kind : e.kind = entryKind t index) : EntryStaged im t index (some e) (im.stage t (index, some e)) := by
  unfold Images.stage Images.putEntry
  have place := entryKind_inside inside
  rw [← kind] at place
  cases e <;> dsimp only [TableEntry.kind] at place
  · next x =>
    obtain ⟨rfl, h⟩ := place
    simpa [h] using EntryStaged.siteTrack (im := im) index h (some x)
  · next x =>
    obtain ⟨rfl, i, h, rfl⟩ := place
    simpa [h] using EntryStaged.siteCamera (im := im) i h (some x)
  · next x =>
    obtain ⟨rfl, h⟩ := place
    simpa [h] using EntryStaged.profile (im := im) index h (some x)
  · next x =>
    obtain ⟨rfl, h⟩ := place
    simpa [h] using EntryStaged.headClass (im := im) index h (some x)
  · next x =>
    obtain ⟨rfl, h⟩ := place
    simpa [h] using EntryStaged.blankMap (im := im) index h (some x)

theorem stage_staged (im : Images) {t : TableId} {x : Nat × Option TableEntry} (h : Stageable t x) :
    EntryStaged im t x.1 x.2 (im.stage t x) := by
  obtain ⟨index, content⟩ := x
  cases content with
  | none => exact stage_empty im h.1
  | some e => exact stage_fields im h.1 (h.2 e rfl)

/-- A staged entry stands at its index. -/
theorem EntryStaged.entry_same {im next : Images} {t : TableId} {index : Nat} {content : Option TableEntry}
    (h : EntryStaged im t index content next) : next.entry t index = some content := by
  cases h with
  | siteTrack i h o => simp [Images.entry, h]
  | siteCamera i h o => simp [Images.entry, h]
  | profile i h o => simp [Images.entry, h]
  | headClass i h o => simp [Images.entry, h]
  | blankMap i h o => simp [Images.entry, h]

/-- A staged entry leaves the other entries of its table as they stand. -/
theorem EntryStaged.entry_other {im next : Images} {t : TableId} {index : Nat} {content : Option TableEntry}
    (h : EntryStaged im t index content next) {other : Nat} (ne : other ≠ index) :
    next.entry t other = im.entry t other := by
  cases h with
  | siteTrack i h o => simp [Images.entry, Vector.getElem_set_ne, ne.symm]
  | siteCamera i h o =>
    by_cases track : other < 2
    · simp [Images.entry, track]
    · have inner : i ≠ other - 2 := by omega
      simp [Images.entry, Vector.getElem_set_ne, track, inner]
  | profile i h o => simp [Images.entry, Vector.getElem_set_ne, ne.symm]
  | headClass i h o => simp [Images.entry, Vector.getElem_set_ne, ne.symm]
  | blankMap i h o => simp [Images.entry, Vector.getElem_set_ne, ne.symm]

/-- A staged entry leaves the other tables as they stand. -/
theorem EntryStaged.entry_otherTable {im next : Images} {t u : TableId} {index : Nat} {content : Option TableEntry}
    (h : EntryStaged im t index content next) (ne : u ≠ t) (other : Nat) : next.entry u other = im.entry u other := by
  cases h <;> cases u <;> try contradiction
  all_goals rfl

/-- A list of staged entries leaves every entry it does not name, and every other table, as it stands. -/
theorem entry_stageAll_other {t : TableId} {entries : List (Nat × Option TableEntry)}
    (h : ∀ x ∈ entries, Stageable t x) (im : Images) {u : TableId} {index : Nat}
    (other : u ≠ t ∨ ∀ x ∈ entries, x.1 ≠ index) :
    (entries.foldl (Images.stage t) im).entry u index = im.entry u index := by
  induction entries generalizing im with
  | nil => rfl
  | cons x rest ih =>
    obtain ⟨head, tail⟩ := List.forall_mem_cons.1 h
    rw [List.foldl_cons, ih tail _ (other.imp_right fun ne y hy => ne y (List.mem_cons_of_mem _ hy))]
    have staged := stage_staged im head
    by_cases same : u = t
    · subst same
      exact staged.entry_other ((other.resolve_left fun ne => ne rfl) x List.mem_cons_self).symm
    · exact staged.entry_otherTable same index

/-- Each entry of a list without a repeated index takes the contents given (R12, R13). -/
theorem entry_stageAll_same {t : TableId} {entries : List (Nat × Option TableEntry)}
    (h : ∀ x ∈ entries, Stageable t x) (distinct : (entries.map Prod.fst).Nodup) (im : Images)
    {x : Nat × Option TableEntry} (hx : x ∈ entries) :
    (entries.foldl (Images.stage t) im).entry t x.1 = some x.2 := by
  induction entries generalizing im with
  | nil => cases hx
  | cons y rest ih =>
    obtain ⟨head, tail⟩ := List.forall_mem_cons.1 h
    obtain ⟨fresh, distinct⟩ := List.nodup_cons.1 distinct
    rw [List.foldl_cons]
    rcases List.mem_cons.1 hx with rfl | hx
    · rw [entry_stageAll_other tail _ (.inr fun y hy same => fresh (List.mem_map.2 ⟨y, hy, same⟩))]
      exact (stage_staged im head).entry_same
    · exact ih tail distinct _ hx

end Sys2Proof.Machine
end

section
/-! SUPPORT. The resets (R3, R191, R192, R205): the counters, what the soft reset forgets, and the machine after
power-on. -/

namespace Sys2Proof.Machine

/-! ### The 36 counters (R189, R203) -/

/-- Every counter of the part is 0 when those of every block are. -/
theorem allCounters_zero {s : State} (glitches : s.glitches = Vector.replicate 8 0)
    (unpaired : s.unpaired = Vector.replicate 4 0) (tracks : ∀ i : Fin 2, s.tracks[i].stray = 0)
    (ports : ∀ i : Fin 4, portCounters s.ports[i] = [0, 0, 0, 0])
    (uplink : [s.uplink.alertsLost, s.uplink.summariesLost, s.uplink.commandsLost, s.uplink.foreignFrames,
      s.uplink.receiveErrors, s.uplink.recordsCut] = [0, 0, 0, 0, 0, 0]) : ∀ c ∈ allCounters s, c = 0 := by
  unfold allCounters
  rw [glitches, unpaired, uplink]
  simp only [List.mem_append, List.mem_map, List.mem_flatMap, Vector.mem_toList_iff, Vector.mem_iff_getElem]
  rintro c ((((h | h) | ⟨r, ⟨i, hi, rfl⟩, rfl⟩) | ⟨p, ⟨i, hi, rfl⟩, h⟩) | h)
  · obtain ⟨i, hi, rfl⟩ := h; simp
  · obtain ⟨i, hi, rfl⟩ := h; simp
  · exact tracks ⟨i, hi⟩
  · have zero := ports ⟨i, hi⟩
    dsimp only [Fin.getElem_fin] at zero
    rw [zero] at h
    simpa using h
  · simpa using h

/-! ### What the soft reset forgets -/

theorem softReset_senderTake (s : State) : softReset (senderTake s) = softReset s := by
  unfold senderTake
  repeat' split
  all_goals rfl

theorem softReset_releaseHead (k : Fin 32) (s : State) : softReset (releaseHead k s) = softReset s := by
  unfold releaseHead
  repeat' split
  all_goals rfl

/-- The sender's end touches only what the soft reset takes to its reset value. -/
theorem softReset_senderEnd (kind : TxKind) (s : State) : softReset (senderEnd kind s) = softReset s := by
  unfold senderEnd
  split
  · rfl
  · next k c _ =>
    cases kind with
    | header | reply | alert | summary | note => rfl
    | block rows =>
      dsimp only
      split
      · exact softReset_releaseHead ..
      · rfl
    | captureEnd => exact softReset_senderTake _

theorem softReset_cutRecord (x : Option Transmission) (s : State) : softReset (cutRecord x s) = softReset s := by
  cases x with
  | none => rfl
  | some x => exact softReset_senderEnd ..

/-! ### When the soft reset is performed (R191) -/

/-- One execution of a command that stands at the head (R185): taken, the owner's effect, the reply queued. -/
theorem runCommand_ready {s : State} {c : Command} {rest : List Command} (h : s.Ready c rest) (owner : Owner) :
    runCommand owner c s =
      (owner c.params (s.taken c rest)).1.replied c (owner c.params (s.taken c rest)).2.status
        (owner c.params (s.taken c rest)).2.index (owner c.params (s.taken c rest)).2.body := by
  unfold runCommand
  rw [popCommand_ready h]
  rfl

theorem execReset_ready {s : State} {c : Command} {rest : List Command} (h : s.Ready c rest)
    (code : c.code = 0x0E#8) :
    exec .reset s = .next (resetIfDown { (s.taken c rest).replied c .ok none [] with
      uplink := { ((s.taken c rest).replied c .ok none []).uplink with halted := true } }) := by
  have mine : hasCode 14 c = true := by simp [hasCode, code]
  have run : interpretReset s = resetIfDown (runCommand ownReset c s) := by
    unfold interpretReset
    rw [nextCommand_ready h]
    exact if_pos mine
  rw [show exec .reset s = atOnce interpretReset s from rfl, atOnce_awake _ h.awake, run, runCommand_ready h]
  rfl

theorem recordEnd_of_reset {s : State} {x : Transmission} (sends : s.uplink.transmitter = some x)
    (kind : x.kind = .reply 0x0E#8) (elapsed : recordNs x.frame ≤ x.elapsed) :
    recordEndNow s = softReset { s with uplink := { s.uplink with transmitter := none } } := by
  simp only [recordEndNow, sends, if_pos elapsed, kind, recordEnds]
  rfl

/-- The interpreter's state alone does not change how time passes. -/
theorem pass_halted (s : State) (halted : Bool) (ns : Nat) :
    ({ s with uplink := { s.uplink with halted := halted } } : State).pass ns
      = { s.pass ns with uplink := { (s.pass ns).uplink with halted := halted } } := by
  unfold State.pass
  split <;> rfl

/-- The link change of a part that waits for the end of its RESET reply is that of a READY one, and the soft reset after
it. -/
theorem uplinkDown_halted {s : State} (inReception : Bool) (up : s.uplink.up = true) (halted : s.uplink.halted = true) :
    uplinkDown inReception s
      = softReset (uplinkDown inReception { s with uplink := { s.uplink with halted := false } }) := by
  simp only [uplinkDown, up, halted, if_true, Bool.false_eq_true, if_false, softReset_cutRecord]
  rfl

/-! ### What the soft reset keeps and clears -/

theorem softReset_line (s : State) (l : Fin 8) : (softReset s).lines[l] = s.lines[l].softReset := map_get ..

theorem softReset_channel (s : State) (c : Fin 4) : (softReset s).channels[c] = s.channels[c].softReset := map_get ..

theorem softReset_port (s : State) (c : Fin 4) : (softReset s).ports[c] = s.ports[c].softReset := map_get ..

theorem Line.softReset_active (l : Line) : l.softReset.active = l.active := by
  unfold Line.softReset
  split <;> rfl

theorem Line.softReset_stage (l : Line) (lead : Stamp) (elapsed : Nat) :
    l.softReset.stage ≠ .qualifying lead elapsed := by
  unfold Line.softReset
  split <;> simp_all

theorem softReset_counters (s : State) : ∀ c ∈ allCounters (softReset s), c = 0 :=
  allCounters_zero rfl rfl (fun i => congrArg TrackRec.stray (replicate_get _ i))
    (fun i => congrArg portCounters (softReset_port s i)) rfl

/-! ### Power-on (R3, R192) -/

theorem reset_track (t : Track) : State.reset.track t = { state := .off, stray := 0 } := replicate_get ..

theorem reset_passage (t : Track) : State.reset.passage? t = none := by
  unfold State.passage?
  rw [reset_track]

theorem reset_channel (c : Fin 4) : State.reset.channels[c] = Channel.reset := replicate_get ..

theorem reset_port (c : Fin 4) : State.reset.ports[c] = Port.reset := replicate_get ..

theorem reset_slot (k : Fin 32) : State.reset.slots[k] = none := replicate_get ..

theorem reset_queuesBounded : QueuesBounded State.reset where
  commands := Nat.zero_le _
  replies := Nat.zero_le _
  alerts := Nat.zero_le _
  summaries := Nat.zero_le _
  notes := Nat.zero_le _
  outstanding c := by rw [reset_port]; exact Nat.zero_le _
  passQueues c := by rw [reset_port]; exact Nat.zero_le _

theorem reset_passagesInRange : PassagesInRange State.reset := by
  intro t p h
  cases (reset_passage t).symm.trans h

theorem reset_channelsInRange : ChannelsInRange State.reset := by
  intro c
  rw [reset_channel]
  exact ⟨Nat.zero_le _, Nat.zero_le _, nofun⟩

/-- No track is out of OFF, and every channel is STOPPED with an empty list. -/
theorem reset_tracksSound : TracksSound State.reset where
  entryValid t h := by rw [reset_track] at h; cases h
  running cam t held period off elapsed h := by rw [reset_channel] at h; cases h
  stopped cam _ := by rw [reset_channel]; exact ⟨rfl, rfl⟩
  follows t p h := by cases (reset_passage t).symm.trans h

theorem reset_plansSound : PlansSound State.reset where
  pending t p h := by cases (reset_passage t).symm.trans h
  listed t p h := by cases (reset_passage t).symm.trans h
  distinct cam := by rw [reset_channel]; exact List.nodup_nil
  unplanned t p h := by cases (reset_passage t).symm.trans h
  heads cam w h := by rw [reset_channel] at h; cases h

theorem reset_clockAndLinesSound : ClockAndLinesSound State.reset where
  subUs := by decide
  held := nofun
  heldLines := nofun
  qualifying l lead elapsed h := by
    rw [show State.reset.lines[l] = { active := false, stage := .waitRest } from replicate_get ..] at h
    cases h

theorem reset_storeSound : StoreSound State.reset :=
  .of_empty rfl rfl rfl rfl (fun c => congrArg Port.outstanding (reset_port c))
    (fun c => congrArg Channel.openWindow (reset_channel c)) rfl (by simp only [State.reset])

theorem reset_storeInRange : StoreInRange State.reset where
  store := reset_store_wf
  freeList g h := by simpa only [State.reset, List.mem_range] using h
  chains k c h := by cases (reset_slot k).symm.trans h

theorem reset_slotsSound : SlotsSound State.reset where
  records k c h := by cases (reset_slot k).symm.trans h
  freeRecords k _ := replicate_get none k
  workSets k c w h := by cases (reset_slot k).symm.trans h
  heldSets w x h := by
    cases (show State.reset.workSets[w] = none from replicate_get none w).symm.trans h

end Sys2Proof.Machine

namespace Sys2Proof.Settled

open Sys2Proof.Machine

/-- Settles O6: each moment of the soft reset by its own lemma, then its fields one by one. -/
theorem softReset : Obligations.SoftReset := by
  refine ⟨⟨?_, ?_, ?_⟩, ?_⟩
  · intro s c rest ready code
    refine ⟨_, rfl, ?_⟩
    rw [execReset_ready ready code]
    unfold resetIfDown
    cases up : s.uplink.up <;> simp [State.replied, State.taken, up]
  · rintro s now after x rfl awake sends kind elapsed
    exact (timed_awake after recordEndNow ((pass_rstnLow s after).symm.trans awake)).trans
      (congrArg _ (recordEnd_of_reset sends kind elapsed))
  · rintro s now t after inReception rfl awake up halted ready
    rw [pass_rstnLow] at awake
    have down := timed_awake after (uplinkDown inReception)
      (s := { s with uplink := { s.uplink with halted := false } }) awake
    rw [pass_halted] at down
    obtain rfl := Host.Outcome.next.inj (ready.symm.trans down)
    exact (timed_awake after (uplinkDown inReception) awake).trans
      (congrArg _ (uplinkDown_halted inReception up halted))
  · rintro s t rfl
    refine ⟨⟨rfl, rfl, rfl, rfl, rfl, rfl, rfl, rfl, rfl, rfl, rfl, fun c => ⟨?_, ?_⟩⟩,
      rfl, rfl, fun l => ⟨?_, fun lead e => ?_⟩, fun i => replicate_get none i, fun k => ?_, fun c => ⟨?_, ?_⟩,
      fun k => ⟨replicate_get none k, replicate_get none k⟩, fun w => replicate_get none w,
      rfl, by simp only [Machine.softReset], rfl, rfl, rfl, rfl, rfl, softReset_counters s⟩
    · rw [softReset_channel]; rfl
    · rw [softReset_port]; rfl
    · rw [softReset_line, Line.softReset_active]
    · rw [softReset_line]; exact Line.softReset_stage _ lead e
    · exact congrArg TrackRec.state (replicate_get _ (trackIndex k))
    · exact softReset_channel s c
    · exact softReset_port s c

/-- Settles O4. -/
theorem powerOnResets : Obligations.PowerOnResets := by
  intro s
  refine ⟨_, rfl, rfl, rfl, rfl, fun x index inside => ⟨entry_empty x inside, entry_empty x inside, ?_, ?_⟩,
    fun k => ⟨?_, ?_⟩, rfl, rfl, fun c => ⟨?_, ?_, ?_, ?_⟩, fun k => ⟨replicate_get none k, replicate_get none k⟩,
    fun w => replicate_get none w, by simp only [hardReset, State.reset], rfl, rfl, rfl, rfl, rfl, rfl, rfl, ?_⟩
  · exact replicate_get 0 (tableIndex x)
  · exact replicate_get false (tableIndex x)
  · exact congrArg TrackRec.state (replicate_get _ (trackIndex k))
  · exact congrArg TrackRec.stray (replicate_get _ (trackIndex k))
  · exact congrArg Channel.run (replicate_get Channel.reset c)
  · exact congrArg Channel.sequence (replicate_get Channel.reset c)
  · exact congrArg Port.up (replicate_get Port.reset c)
  · exact congrArg Port.outstanding (replicate_get Port.reset c)
  · exact allCounters_zero rfl rfl (fun i => congrArg TrackRec.stray (replicate_get _ i))
      (fun i => congrArg portCounters (replicate_get Port.reset i)) rfl

/-- Settles O60, each invariant by its own lemma. -/
theorem resetMeetsInvariants : Obligations.ResetMeetsInvariants := by
  obtain ⟨ranges, references⟩ := (tables_sound_iff State.reset).1 .reset
  exact ⟨reset_queuesBounded, ranges, references, reset_passagesInRange, reset_channelsInRange, reset_tracksSound,
    reset_plansSound, reset_clockAndLinesSound, reset_storeSound, reset_storeInRange, reset_slotsSound⟩

end Sys2Proof.Settled
end

section
/-! SUPPORT. The recorder's commands that read and set (R15, R20, R153, R189, R190). -/

namespace Sys2Proof.Machine

/-! ### One execution (R185) -/

/-- A row of the interpreter whose command stands at the head of the queue. -/
theorem atOnce_interpret {s : State} {c : Command} {rest : List Command} (h : s.Ready c rest) {mine : Command → Bool}
    (own : mine c = true) (owner : Owner) :
    atOnce (interpret mine owner) s = .next ((owner c.params (s.taken c rest)).1.replied c
      (owner c.params (s.taken c rest)).2.status (owner c.params (s.taken c rest)).2.index
      (owner c.params (s.taken c rest)).2.body) := by
  rw [atOnce_awake _ h.awake, interpret_ready h, if_pos own]

theorem hasCode_of_eq {c : Command} {code : Byte} (h : c.code = code) : hasCode code.toNat c = true := by
  simp [hasCode, h]

/-! ### The STATUS report (R190, R203) -/

theorem trackReport_length (s : State) (t : Track) : (trackReport s t).length = 14 := by
  unfold trackReport
  split <;> simp

theorem tableReport_length (x : Tables) (t : TableId) : (tableReport x t).length = 3 := by
  simp [tableReport]

theorem allCounters_length (s : State) : (allCounters s).length = 36 := by
  have ports : (s.ports.toList.flatMap portCounters).length = 16 := by
    simp [List.length_flatMap, portCounters]
  simp [allCounters, ports]

theorem statusReport_length (s : State) : (statusReport s).length = 127 := by
  simp [statusReport, trackReport_length, tableReport_length, List.length_flatMap, allCounters_length]

theorem clearCounters_counters (s : State) : ∀ n ∈ allCounters (clearCounters s), n = 0 :=
  allCounters_zero rfl rfl (fun i => by rw [show (clearCounters s).tracks[i] = _ from map_get ..])
    (fun i => by rw [show (clearCounters s).ports[i] = _ from map_get ..]; rfl) rfl

/-! ### TABLE-READ (R20) -/

theorem tableOf_eq_some_iff (b : Byte) (t : TableId) : tableOf b = some t ↔ b.toNat = tableCode t := by
  unfold tableOf
  split <;> cases t <;> simp_all [tableCode]

theorem tableOf_eq_none_iff (b : Byte) : tableOf b = none ↔ ∀ t, b.toNat ≠ tableCode t := by
  simp [Option.eq_none_iff_forall_ne_some, tableOf_eq_some_iff]

theorem imageOf_zero : imageOf 0x00#8 = some true := rfl

theorem imageOf_eq_none_iff (b : Byte) : imageOf b = none ↔ 1 < b.toNat := by
  unfold imageOf
  split
  · simp_all
  · simp_all
  · simp_all; omega

theorem imageOf_one : imageOf 0x01#8 = some false := rfl

/-- An image byte, taken apart: 00h the active image, 01h staging. -/
theorem image_byte {b : Byte} (h : b.toNat ≤ 1) : b = 0x00#8 ∨ b = 0x01#8 := by
  bv_omega

theorem yesNo_byte (b : Bool) : beBytes 1 (yesNo b) = [if b then 0x01#8 else 0x00#8] := by
  cases b <;> rfl

/-- R20: a read of an entry inside its table. -/
theorem readEntry_inside (x : Tables) {t : TableId} {table image index : Byte} {e : Option TableEntry}
    (named : table.toNat = tableCode t) (code : image.toNat ≤ 1)
    (entry : (if image = 0x00#8 then x.active else x.staging).entry t index.toNat = some e) :
    readEntry x table image index
      = { status := .ok, index := none, body := [table, image, index] ++ readBody x t (image = 0x00#8) e } := by
  unfold readEntry
  rw [(tableOf_eq_some_iff ..).2 named]
  rcases image_byte code with rfl | rfl
  · rw [if_pos rfl] at entry
    simp only [imageOf_zero, if_true, entry, decide_true]
  · rw [if_neg (by decide)] at entry
    simp only [imageOf_one, Bool.false_eq_true, if_false, entry]
    rfl

/-- R20: a read that names no table, no image, or no entry of the table. -/
theorem readEntry_outside (x : Tables) {table image index : Byte}
    (outside : ∀ t : TableId, table.toNat = tableCode t → image.toNat ≤ 1 → tableSize t ≤ index.toNat) :
    readEntry x table image index = answer .range := by
  unfold readEntry
  split
  · next t active named code =>
    have held : image.toNat ≤ 1 := by
      by_contra beyond
      cases ((imageOf_eq_none_iff image).2 (Nat.not_le.1 beyond)).symm.trans code
    have none := (entry_eq_none_iff (if active = true then x.active else x.staging) t index.toNat).2
      (outside t ((tableOf_eq_some_iff ..).1 named) held)
    rw [none]
  · rfl

theorem ownTableRead_three (table image index : Byte) (s : State) :
    ownTableRead [table, image, index] s = (s, readEntry s.tables table image index) := rfl

theorem ownTableRead_range {params : List Byte} (s : State)
    (outside : ∀ (t : TableId) (table image index : Byte), params = [table, image, index] → table.toNat = tableCode t →
      image.toNat ≤ 1 → tableSize t ≤ index.toNat) : ownTableRead params s = (s, answer .range) := by
  unfold ownTableRead
  split
  · next table image index => rw [readEntry_outside s.tables fun t => outside t table image index rfl]
  · rfl

end Sys2Proof.Machine

namespace Sys2Proof.Settled

open Sys2Proof.Machine

/-- Settles O44: each owner's effect by one execution; the report's length and the counters by their lemmas. -/
theorem statusLatchAndClears : Obligations.StatusLatchAndClears := by
  refine ⟨fun s c rest ready => ⟨fun code => ⟨?_, statusReport_length s⟩, fun code => ?_, fun code => ?_⟩,
    fun s c rest ready => ⟨fun code => ?_, fun code => ?_⟩⟩
  · exact atOnce_interpret ready (hasCode_of_eq code) ownStatus
  · have run := atOnce_interpret ready (hasCode_of_eq code) ownClearStats
    refine ⟨run, fun t answered => ⟨allCounters_length t, ?_⟩⟩
    obtain rfl := Host.Outcome.next.inj (run.symm.trans answered)
    exact clearCounters_counters (s.taken c rest)
  · exact atOnce_interpret ready (hasCode_of_eq code) ownClearConditions
  · exact atOnce_interpret ready (hasCode_of_eq code) (ownLatch true)
  · exact atOnce_interpret ready (hasCode_of_eq code) (ownLatch false)

/-- Settles O45: the entry read, or none. -/
theorem tableRead : Obligations.TableRead := by
  intro s c rest ready code
  have run := atOnce_interpret ready (hasCode_of_eq code) ownTableRead
  refine ⟨fun t table image index e params named held entry => ?_,
    fun t im index => (entry_isSome_iff im t index).symm, fun outside => ?_⟩
  · rw [params, ownTableRead_three, readEntry_inside (s.taken c rest).tables named held entry] at run
    refine run.trans ?_
    simp only [readBody, yesNo_byte, decide_eq_true_eq, List.append_assoc]
    cases e <;> rfl
  · rw [ownTableRead_range _ outside] at run
    exact run

end Sys2Proof.Settled
end

section
/-! SUPPORT. A staging command (R12 to R14): its entries read one after the other, their range check, and
what is staged. -/

namespace Sys2Proof.Machine

/-! ### Entries read one after the other (R14, steps 1 and 2) -/

/-- One entry that is spelled out, lies inside the table and is not listed before it. -/
theorem readEntries_spelled_cons {t : TableId} {x : Spelled} (sound : x.Sound t) (inside : x.index < tableSize t)
    {seen : List Nat} (fresh : x.index ∉ seen) (n : Nat) (bs : List Byte) :
    readEntries t (n + 1) seen (x.bytes ++ bs)
      = (readEntries t n (x.index :: seen) bs).map ((x.index, x.fields) :: ·) := by
  obtain ⟨index, fields, bytes⟩ := x
  obtain ⟨i, rfl, spelled⟩ := sound
  have accepted : ¬ (tableSize t ≤ i.toNat ∨ i.toNat ∈ seen) := by simp_all
  cases fields with
  | none =>
    obtain rfl : bytes = [i, 0x00#8] := spelled
    simp only [List.cons_append, List.nil_append, readEntries, if_neg accepted]
    cases readEntries t n (i.toNat :: seen) bs <;> rfl
  | some raw =>
    obtain ⟨fields, rfl, reads⟩ := spelled
    simp only [List.cons_append, readEntries, if_neg accepted, show (0x01#8 : Byte) = 1 from rfl, if_true,
      if_neg (show (1 : Byte) ≠ 0 by decide), reads bs]
    cases readEntries t n (i.toNat :: seen) bs <;> rfl

/-- Entries that are spelled out, inside the table and each listed once are read, and reading goes on behind them. -/
theorem readEntries_spelled {t : TableId} {read : List Spelled} (sound : ∀ x ∈ read, x.Sound t)
    (inside : ∀ x ∈ read, x.index < tableSize t) (once : (read.map Spelled.index).Nodup) {seen : List Nat}
    (fresh : ∀ x ∈ read, x.index ∉ seen) (n : Nat) (bs : List Byte) :
    readEntries t (read.length + n) seen (read.flatMap Spelled.bytes ++ bs)
      = (readEntries t n ((read.map Spelled.index).reverse ++ seen) bs).map
          (read.map (fun x => (x.index, x.fields)) ++ ·) := by
  induction read generalizing seen with
  | nil =>
    simp only [List.length_nil, Nat.zero_add, List.flatMap_nil, List.map_nil, List.reverse_nil, List.nil_append]
    cases readEntries t n seen bs <;> rfl
  | cons x rest ih =>
    simp only [List.forall_mem_cons, List.map_cons, List.nodup_cons] at sound inside once fresh
    have later : ∀ y ∈ rest, y.index ∉ x.index :: seen := fun y hy => by
      refine List.not_mem_cons_of_ne_of_not_mem (fun same => once.1 ?_) (fresh.2 y hy)
      exact List.mem_map.2 ⟨y, hy, same⟩
    rw [List.length_cons, List.flatMap_cons, List.append_assoc, Nat.add_right_comm,
      readEntries_spelled_cons sound.1 inside.1 fresh.1, ih sound.2 inside.2 once.2 later]
    simp only [List.map_cons, List.reverse_cons, List.append_assoc, List.singleton_append]
    cases readEntries t n ((rest.map Spelled.index).reverse ++ x.index :: seen) bs <;> rfl

/-- An entry that cannot be read is refused with its index: outside the table, listed before, without a form byte, with
one that is neither 00h nor 01h, or with its bytes run out. -/
theorem readEntries_refused {t : TableId} {seen : List Nat} {i : Byte} {more : List Byte} (n : Nat)
    (fails : tableSize t ≤ i.toNat ∨ i.toNat ∈ seen ∨ more = []
      ∨ (∃ form, more.head? = some form ∧ form ≠ 0x00#8 ∧ form ≠ 0x01#8)
      ∨ (∃ fields, more = 0x01#8 :: fields ∧ takeEntry (entryKind t i.toNat) fields = none)) :
    readEntries t (n + 1) seen (i :: more) = .error (some i.toNat) := by
  unfold readEntries
  dsimp only
  split
  · rfl
  · next accepted =>
    rw [not_or] at accepted
    rcases (fails.resolve_left accepted.1).resolve_left accepted.2 with
      rfl | ⟨form, head, zero, one⟩ | ⟨fields, rfl, runsOut⟩
    · rfl
    · obtain ⟨rest, rfl⟩ := List.head?_eq_some_iff.1 head
      dsimp only
      rw [if_neg (show form ≠ 0 from zero), if_neg (show form ≠ 1 from one)]
    · simp only [show (0x01#8 : Byte) = 1 from rfl, if_true, if_neg (show (1 : Byte) ≠ 0 by decide), runsOut]

/-! ### The range check (R14, step 3) -/

/-- Entries that pass, an entry behind them that does not: the check stops at it. -/
theorem checkEntries_refused {before : List Spelled} (passes : ∀ y ∈ before, y.Passes) {x : Spelled}
    (fails : ¬ x.Passes) (later : List (Nat × Option RawEntry)) :
    checkEntries (before.map (fun y => (y.index, y.fields)) ++ (x.index, x.fields) :: later)
      = .error (some x.index) := by
  induction before with
  | nil =>
    obtain ⟨index, fields, bytes⟩ := x
    cases fields with
    | none => exact absurd nofun fails
    | some raw =>
      have refused : checkEntry index raw = none := by
        by_contra some
        obtain ⟨e, he⟩ := Option.ne_none_iff_exists'.1 some
        refine fails fun r hr => ?_
        cases hr
        exact ⟨e, (checkEntry_eq_some_iff ..).1 he⟩
      simp only [List.map_nil, List.nil_append, checkEntries, refused]
  | cons y rest ih =>
    obtain ⟨head, tail⟩ := List.forall_mem_cons.1 passes
    obtain ⟨index, fields, bytes⟩ := y
    rw [List.map_cons, List.cons_append]
    cases fields with
    | none => simp only [checkEntries, ih tail]
    | some raw =>
      obtain ⟨e, he⟩ := head raw rfl
      simp only [checkEntries, (checkEntry_eq_some_iff ..).2 he, ih tail]

/-! ### What passes the checks -/

/-- The kind of the fields read. -/
def RawEntry.kind : RawEntry → EntryKind
  | .fixed kind _ => kind
  | .profile .. => .profile
  | .blankMap .. => .blankMap

theorem takeEntry_kind {kind : EntryKind} {bs rest : List Byte} {raw : RawEntry}
    (h : takeEntry kind bs = some (raw, rest)) : raw.kind = kind := by
  cases kind <;> simp only [takeEntry, bind, Option.bind_eq_some_iff, pure, Option.some.injEq, Prod.mk.injEq] at h
  · obtain ⟨_, _, rfl, _⟩ := h; rfl
  · obtain ⟨_, _, rfl, _⟩ := h; rfl
  · obtain ⟨_, _, _, _, _, _, _, _, _, _, _, _, _, _, rfl, _⟩ := h; rfl
  · obtain ⟨_, _, rfl, _⟩ := h; rfl
  · obtain ⟨_, _, _, _, _, _, rfl, _⟩ := h; rfl

theorem entryOf_kind {raw : RawEntry} {e : TableEntry} (h : entryOf raw = some e) : e.kind = raw.kind := by
  unfold entryOf at h
  split at h
  all_goals simp only [bind, Option.bind_eq_some_iff, pure, Option.some.injEq, reduceCtorEq] at h
  · obtain ⟨_, _, rfl⟩ := h; rfl
  · obtain ⟨_, _, _, _, rfl⟩ := h; rfl
  · subst h; rfl
  · obtain ⟨_, _, rfl⟩ := h; rfl
  · subst h; rfl

/-- The entries read lie inside the table, are listed once, and have the kind of their index. -/
structure ReadSound (t : TableId) (seen : List Nat) (raws : List (Nat × Option RawEntry)) : Prop where
  inside : ∀ x ∈ raws, x.1 < tableSize t
  fresh : ∀ x ∈ raws, x.1 ∉ seen
  kinds : ∀ x ∈ raws, ∀ raw, x.2 = some raw → raw.kind = entryKind t x.1
  once : (raws.map Prod.fst).Nodup

theorem ReadSound.cons {t : TableId} {index : Nat} {seen : List Nat} {rest : List (Nat × Option RawEntry)}
    (h : ReadSound t (index :: seen) rest) (accepted : ¬ (tableSize t ≤ index ∨ index ∈ seen)) {o : Option RawEntry}
    (kind : ∀ raw, o = some raw → raw.kind = entryKind t index) : ReadSound t seen ((index, o) :: rest) := by
  rw [not_or, Nat.not_le] at accepted
  refine ⟨List.forall_mem_cons.2 ⟨accepted.1, h.inside⟩, List.forall_mem_cons.2 ⟨accepted.2, fun x hx => ?_⟩,
    List.forall_mem_cons.2 ⟨kind, h.kinds⟩, List.nodup_cons.2 ⟨fun again => ?_, h.once⟩⟩
  · exact fun before => h.fresh x hx (List.mem_cons_of_mem _ before)
  · obtain ⟨x, hx, same⟩ := List.mem_map.1 again
    exact h.fresh x hx (same ▸ List.mem_cons_self)

theorem readEntries_sound {t : TableId} {n : Nat} {seen : List Nat} {bs : List Byte}
    {raws : List (Nat × Option RawEntry)} (h : readEntries t n seen bs = .ok raws) : ReadSound t seen raws := by
  fun_induction readEntries t n seen bs generalizing raws <;> cases h
  · exact ⟨nofun, nofun, nofun, List.nodup_nil⟩
  · next accepted _ rest read ih => exact (ih read).cons accepted nofun
  · next accepted _ raw _ taken rest read _ ih =>
    exact (ih read).cons accepted fun r same => Option.some.inj same ▸ takeEntry_kind taken

/-- The range check keeps the indices, and each entry is the one its fields spell. -/
theorem checkEntries_spell {raws : List (Nat × Option RawEntry)} {entries : List (Nat × Option TableEntry)}
    (h : checkEntries raws = .ok entries) : entries.map Prod.fst = raws.map Prod.fst
      ∧ ∀ x ∈ entries, ∀ e, x.2 = some e → ∃ raw, (x.1, some raw) ∈ raws ∧ entryOf raw = some e := by
  fun_induction checkEntries raws generalizing entries <;> cases h
  · exact ⟨rfl, nofun⟩
  · next index rest out checked ih =>
    obtain ⟨indices, spelled⟩ := ih checked
    refine ⟨congrArg _ indices, List.forall_mem_cons.2 ⟨nofun, fun x hx e he => ?_⟩⟩
    obtain ⟨raw, mem, spell⟩ := spelled x hx e he
    exact ⟨raw, List.mem_cons_of_mem _ mem, spell⟩
  · next index raw rest e passed out checked ih =>
    obtain ⟨indices, spelled⟩ := ih checked
    refine ⟨congrArg _ indices, List.forall_mem_cons.2 ⟨fun d same => ?_, fun x hx e he => ?_⟩⟩
    · cases same
      exact ⟨raw, List.mem_cons_self, ((checkEntry_eq_some_iff ..).1 passed).1⟩
    · obtain ⟨raw, mem, spell⟩ := spelled x hx e he
      exact ⟨raw, List.mem_cons_of_mem _ mem, spell⟩

/-- The entries of a staging command that passes its checks can be staged, each index once. -/
theorem stageCheck_stageable {params : List Byte} {t : TableId} {entries : List (Nat × Option TableEntry)}
    (h : stageCheck params = .ok (t, entries)) :
    (∀ x ∈ entries, Stageable t x) ∧ (entries.map Prod.fst).Nodup := by
  obtain ⟨table, count, bs, raws, -, -, read, checked⟩ := (stageCheck_eq_ok_iff ..).1 h
  obtain ⟨inside, -, kinds, once⟩ := readEntries_sound read
  obtain ⟨indices, spelled⟩ := checkEntries_spell checked
  refine ⟨fun x hx => ⟨?_, fun e he => ?_⟩, indices ▸ once⟩
  · obtain ⟨y, hy, same⟩ := List.mem_map.1 (indices ▸ List.mem_map_of_mem hx)
    exact same ▸ inside y hy
  · obtain ⟨raw, mem, spell⟩ := spelled x hx e he
    rw [entryOf_kind spell, kinds _ mem raw rfl]

/-! ### The refusals of a staging command -/

theorem stageCheck_noTable {params : List Byte}
    (h : (∀ (t : TableId) (b : Byte), params.head? = some b → b.toNat ≠ tableCode t) ∨ params.length ≤ 1) :
    stageCheck params = .error none := by
  match params with
  | [] => rfl
  | [table] =>
    unfold stageCheck
    dsimp only
    split <;> rfl
  | table :: count :: bs =>
    have unnamed : tableOf table = none :=
      (tableOf_eq_none_iff table).2 fun t => h.resolve_right (by simp) t table rfl
    simp only [stageCheck, unnamed]

/-- A staging command of a table, by its two checks. -/
theorem stageCheck_named {t : TableId} {b : Byte} (named : b.toNat = tableCode t) (count : Byte) (bs : List Byte) :
    stageCheck (b :: count :: bs)
      = (readEntries t count.toNat [] bs).bind fun raws => (checkEntries raws).map (t, ·) := by
  simp only [stageCheck, (tableOf_eq_some_iff b t).2 named]
  cases readEntries t count.toNat [] bs with
  | error => rfl
  | ok raws =>
    dsimp only [Except.bind]
    cases checkEntries raws <;> rfl

/-! ### What is staged (R12, R13) -/

theorem entry_stageLoaded_same {t : TableId} {entries : List (Nat × Option TableEntry)}
    (h : ∀ x ∈ entries, Stageable t x) (im : Images) {index : Nat} (inside : index < tableSize t)
    (unnamed : ∀ x ∈ entries, x.1 ≠ index) : (stageLoaded t entries im).entry t index = some none := by
  rw [stageLoaded, entry_stageAll_other h _ (.inr unnamed), Images.clear_eq_copy, entry_copy_same, entry_empty t inside]

theorem entry_stageLoaded_otherTable {t : TableId} {entries : List (Nat × Option TableEntry)}
    (h : ∀ x ∈ entries, Stageable t x) (im : Images) {u : TableId} (ne : u ≠ t) (index : Nat) :
    (stageLoaded t entries im).entry u index = im.entry u index := by
  rw [stageLoaded, entry_stageAll_other h _ (.inl ne), Images.clear_eq_copy, entry_copy_other _ _ ne]

/-- What a staging row does with the entries that pass: it loads the table, or patches it. -/
def stagedBy (keep : Bool) : TableId → List (Nat × Option TableEntry) → Images → Images :=
  if keep then stagePatched else stageLoaded

/-- A staging row, at its turn. -/
theorem exec_stage {row : Instr} {code : Byte} {keep : Bool}
    (h : (row, code, keep) ∈ [(Instr.stageLoad, 0x03#8, false), (.stagePatch, 0x04#8, true)]) {s : State} {c : Command}
    {rest : List Command} (ready : s.Ready c rest) (own : c.code = code) :
    exec row s = .next (match stageCheck c.params with
      | .error index => (s.taken c rest).replied c .range index []
      | .ok (t, entries) =>
        ({ s.taken c rest with tables := { s.tables with staging := stagedBy keep t entries s.tables.staging } }
          : State).replied c .ok none []) := by
  have run (apply) := atOnce_interpret ready (hasCode_of_eq own) (ownStage apply)
  simp only [List.mem_cons, Prod.mk.injEq, List.not_mem_nil, or_false] at h
  rcases h with ⟨rfl, rfl, rfl⟩ | ⟨rfl, rfl, rfl⟩
  · refine (run stageLoaded).trans (congrArg _ ?_)
    unfold ownStage
    cases stageCheck c.params <;> rfl
  · refine (run stagePatched).trans (congrArg _ ?_)
    unfold ownStage
    cases stageCheck c.params <;> rfl

end Sys2Proof.Machine

namespace Sys2Proof.Settled

open Sys2Proof.Machine

/-- Settles O46: the refusals are those of reading and of the range check; what is staged stands entry by entry. -/
theorem staging : Obligations.Staging := by
  intro row code keep s c rest isRow ready own
  have run := exec_stage isRow ready own
  have refused : ∀ index, stageCheck c.params = .error index →
      exec row s = .next ((s.taken c rest).replied c .range index []) := by
    intro index failed
    rw [run, failed]
  refine ⟨refused, fun noTable => refused none (stageCheck_noTable noTable), ?_, ?_⟩
  · intro t b count read tail named params sound inside once
    have reading (n : Nat) := readEntries_spelled sound inside once (seen := []) (fun _ _ => List.not_mem_nil) n tail
    have checking := stageCheck_named named count (read.flatMap Spelled.bytes ++ tail)
    rw [← params] at checking
    refine ⟨fun short ends => refused _ ?_, fun whole more => refused _ ?_, fun i more short ends fails => refused _ ?_,
      fun before later x whole ends parts passes fails => refused _ ?_⟩
    · obtain ⟨n, left⟩ := Nat.exists_eq_add_of_lt short
      rw [checking, left, Nat.add_assoc, reading, ends]
      rfl
    · obtain ⟨b, bs, rfl⟩ := List.exists_cons_of_ne_nil more
      rw [checking, ← whole, ← Nat.add_zero read.length, reading]
      rfl
    · obtain ⟨n, left⟩ := Nat.exists_eq_add_of_lt short
      rw [checking, left, Nat.add_assoc, reading, ends, readEntries_refused n (by simpa using fails)]
      rfl
    · rw [checking, ← whole, ← Nat.add_zero read.length, reading, ends]
      simp only [readEntries, Except.map, Except.bind, List.append_nil, parts, List.map_append, List.map_cons,
        checkEntries_refused passes fails]
  · intro t entries passed
    obtain ⟨stageable, once⟩ := stageCheck_stageable passed
    rw [run, passed]
    refine ⟨_, rfl, fun x hx => ⟨(stageable x hx).1, ?_, stageCheck_inRange passed x hx⟩,
      fun index inside unnamed => ?_, fun u index ne => ?_⟩
    · cases keep <;> exact entry_stageAll_same stageable once _ hx
    · cases keep
      · exact entry_stageLoaded_same stageable _ inside unnamed
      · exact entry_stageAll_other stageable _ (.inr unnamed)
    · cases keep
      · exact entry_stageLoaded_otherTable stageable _ ne index
      · exact entry_stageAll_other stageable _ (.inl ne)

end Sys2Proof.Settled
end

section
/-! SUPPORT. COMMIT (R6, R8, R10, R16, R17): when the part is busy, the first failing entry, and each row of R16. -/

namespace Sys2Proof.Machine

/-! ### Busy tracks (R16, rows 3 and 4) -/

theorem Track.exists_iff {P : Track → Prop} : (∃ k, P k) ↔ P .t1 ∨ P .t2 :=
  ⟨fun ⟨k, h⟩ => by cases k; exacts [.inl h, .inr h], fun h => h.elim (⟨_, ·⟩) (⟨_, ·⟩)⟩

theorem TrackState.isOn_iff (x : TrackState) : x.isOn = true ↔ x ≠ .off := by
  cases x <;> simp [TrackState.isOn]

theorem TrackState.isActive_iff (x : TrackState) : x.isActive = true ↔ ∃ p, x = .active p := by
  cases x <;> simp [TrackState.isActive]

theorem commitBusy_iff (t : TableId) (s : State) : commitBusy t s = true ↔
    (t = .site ∧ ∃ k, (s.track k).state ≠ .off)
      ∨ ((t = .consist ∨ t = .headClass) ∧ ∃ k p, (s.track k).state = .active p) := by
  rw [Track.exists_iff, Track.exists_iff]
  cases t <;> simp [commitBusy, TrackState.isOn_iff, TrackState.isActive_iff]

theorem commitBusy_site {s : State} (off : ∀ k, (s.track k).state = .off) : commitBusy .site s = false := by
  rw [← Bool.not_eq_true, commitBusy_iff]
  simp [off]

theorem commitBusy_tracks {t : TableId} {s : State} (h : t = .consist ∨ t = .headClass)
    (inactive : ∀ k p, (s.track k).state ≠ .active p) : commitBusy t s = false := by
  rw [← Bool.not_eq_true, commitBusy_iff]
  rcases h with rfl | rfl <;> simp [inactive]

/-! ### The first failing entry (R16, row 5) -/

theorem cameraFails_eq_false_iff (staging : Images) (c : Fin 4) :
    cameraFails staging c = false ↔ ∀ (e : SiteCamera) (k : Track), staging.siteCameras[c] = some e → e.track = some k →
      ∃ x, staging.siteTracks[trackIndex k] = some x ∧ x.valid = true := by
  rw [← Bool.not_eq_true, cameraFails_iff]
  push Not
  simp only [ne_eq, Bool.not_eq_false]

theorem profileFails_eq_false_iff (staging active : Images) (i : Fin 32) :
    profileFails staging active i = false ↔ ∀ e, staging.consist[i] = some e →
      ∀ p ∈ e.pantos, active.headClasses[p.headClass] ≠ none := by
  rw [← Bool.not_eq_true, profileFails_iff]
  push Not
  rfl

theorem classFails_eq_false_iff (staging active : Images) (k : Fin 16) :
    classFails staging active k = false ↔ (staging.headClasses[k] = none →
      ∀ (i : Fin 32) (e : Profile), active.consist[i] = some e → ∀ p ∈ e.pantos, p.headClass ≠ k) := by
  rw [← Bool.not_eq_true, classFails_iff]
  push Not
  rfl

/-- The first position of all that satisfies a test. -/
theorem find?_finRange_eq_some {n : Nat} {test : Fin n → Bool} {i : Fin n} (found : test i = true)
    (first : ∀ j < i, test j = false) : (List.finRange n).find? test = some i := by
  refine List.find?_eq_some_iff_getElem.2 ⟨found, i.val, by simp, by simp, fun j before => ?_⟩
  simpa using first ⟨j, before.trans i.isLt⟩ before

theorem commitFailure_site {staging : Images} (active : Images) {cam : Fin 4} (fails : cameraFails staging cam = true)
    (first : ∀ i < cam, cameraFails staging i = false) :
    commitFailure .site staging active = some (.invalid, cam.val + 2) :=
  congrArg (Option.map fun c : Fin 4 => (Status.invalid, c.val + 2)) (find?_finRange_eq_some fails first)

theorem commitFailure_consist_empty {staging : Images} (active : Images) (empty : staging.consist[0] = none) :
    commitFailure .consist staging active = some (.invalid, 0) :=
  if_pos (Option.isNone_iff_eq_none.2 empty)

theorem commitFailure_consist {staging active : Images} (held : staging.consist[0] ≠ none) {i : Fin 32}
    (fails : profileFails staging active i = true) (first : ∀ j < i, profileFails staging active j = false) :
    commitFailure .consist staging active = some (.reference, i.val) :=
  (if_neg (Option.isNone_iff_eq_none.not.2 held)).trans
    (congrArg (Option.map fun i : Fin 32 => (Status.reference, i.val)) (find?_finRange_eq_some fails first))

theorem commitFailure_headClass {staging active : Images} {k : Fin 16} (fails : classFails staging active k = true)
    (first : ∀ m < k, classFails staging active m = false) :
    commitFailure .headClass staging active = some (.reference, k.val) :=
  congrArg (Option.map fun k : Fin 16 => (Status.reference, k.val)) (find?_finRange_eq_some fails first)

/-! ### The rows of R16 -/

/-- The tables with the commit latch clear. -/
def Tables.unlatched (x : Tables) : Tables := { x with latch := false }

theorem commitTable_eq_none {params : List Byte}
    (h : ∀ (t : TableId) (b : Byte), b.toNat = tableCode t → params ≠ [b]) : commitTable params = none := by
  unfold commitTable
  split
  · next b => exact (tableOf_eq_none_iff b).2 fun t named => h t b named rfl
  · rfl

theorem ownCommit_malformed {params : List Byte}
    (h : ∀ (t : TableId) (b : Byte), b.toNat = tableCode t → params ≠ [b]) (s : State) :
    ownCommit params s = (s.modTables Tables.unlatched, answer .range) := by
  unfold ownCommit
  rw [commitTable_eq_none h]
  rfl

theorem ownCommit_named {t : TableId} {b : Byte} (named : b.toNat = tableCode t) (s : State) :
    ownCommit [b] s = clearLatch (commitNamed t s) := by
  unfold ownCommit
  rw [show commitTable [b] = some t from (tableOf_eq_some_iff b t).2 named]

theorem commitNamed_unlatched (t : TableId) {s : State} (clear : s.tables.latch = false) :
    commitNamed t s = (s, answer .latch) := if_pos clear

theorem commitNamed_busy {t : TableId} {s : State} (latched : s.tables.latch = true) (busy : commitBusy t s = true) :
    commitNamed t s = (s, answer .busy) := by
  unfold commitNamed
  rw [if_neg (by simp [latched]), if_pos busy]
  rfl

theorem commitNamed_fails {t : TableId} {s : State} (latched : s.tables.latch = true) (ready : commitBusy t s = false)
    {status : Status} {index : Nat} (fails : commitFailure t s.tables.staging s.tables.active = some (status, index)) :
    commitNamed t s = (s, { status := status, index := some index, body := [] }) := by
  unfold commitNamed
  rw [if_neg (by simp [latched]), if_neg (by simp [ready]), fails]

theorem commitNamed_taken {t : TableId} {s : State} (latched : s.tables.latch = true) (ready : commitBusy t s = false)
    (passed : commitFailure t s.tables.staging s.tables.active = none) :
    commitNamed t s = (s.modTables (commitTaken t),
      { status := .ok, index := none, body := beBytes 2 (s.tables.generation[tableIndex t] + 1).toNat }) := by
  unfold commitNamed
  rw [if_neg (by simp [latched]), if_neg (by simp [ready]), passed]
  simp only [State.modTables_tables, commitTaken, upd_get_same]

theorem tableIndex_injective {t u : TableId} (h : u ≠ t) : tableIndex t ≠ tableIndex u := by
  revert h
  cases t <;> cases u <;> decide

end Sys2Proof.Machine

namespace Sys2Proof.Settled

open Sys2Proof.Machine

/-- Settles O47: the rows of R16 in order, then R17. -/
theorem commit : Obligations.Commit := by
  intro s c rest refused ready code isRefused
  have run := atOnce_interpret ready (hasCode_of_eq code) ownCommit
  refine ⟨fun malformed => ?_, fun t b named params => ?_⟩
  · rw [ownCommit_malformed malformed] at run
    rw [isRefused]
    exact run
  rw [params, ownCommit_named named] at run
  have answered {status index} (h : commitNamed t (s.taken c rest)
      = (s.taken c rest, { status := status, index := index, body := [] })) :
      exec .commit s = .next (refused status index) := by
    rw [h] at run
    rw [isRefused]
    exact run
  refine ⟨fun clear => answered (commitNamed_unlatched t clear), fun latched => ?_⟩
  have failed {status index} (idle : commitBusy t s = false)
      (h : commitFailure t s.tables.staging s.tables.active = some (status, index)) :
      exec .commit s = .next (refused status (some index)) :=
    answered (commitNamed_fails (s := s.taken c rest) latched idle h)
  refine ⟨fun busy => ?_, ?_, ?_, ?_, ?_⟩
  · exact answered (commitNamed_busy (s := s.taken c rest) latched ((commitBusy_iff t s).2 busy))
  · rintro rfl off cam e k held names invalid before
    refine failed (commitBusy_site off) (commitFailure_site _ ?_ fun i hi => ?_)
    · exact (cameraFails_iff ..).2 ⟨e, k, held, names, invalid⟩
    · exact (cameraFails_eq_false_iff ..).2 fun d j => before i d j hi
  · rintro rfl inactive
    refine ⟨fun empty => ?_, fun i held names before => ?_⟩
    · exact failed (commitBusy_tracks (.inl rfl) inactive) (commitFailure_consist_empty _ empty)
    · refine failed (commitBusy_tracks (.inl rfl) inactive) (commitFailure_consist held ?_ fun j hj => ?_)
      · exact (profileFails_iff ..).2 names
      · exact (profileFails_eq_false_iff ..).2 (before j hj)
  · rintro rfl inactive i empty named before
    refine failed (commitBusy_tracks (.inr rfl) inactive) (commitFailure_headClass ?_ fun m hm => ?_)
    · exact (classFails_iff ..).2 ⟨empty, named⟩
    · exact (classFails_eq_false_iff ..).2 (before m hm)
  · intro site idle consist headClass
    have passed : commitBusy t s = false ∧ commitFailure t s.tables.staging s.tables.active = none := by
      cases t with
      | site =>
        obtain ⟨off, valid⟩ := site rfl
        exact ⟨commitBusy_site off,
          (commitFailure_site_eq_none_iff ..).2 fun c => (cameraFails_eq_false_iff ..).2 (valid c)⟩
      | consist =>
        obtain ⟨held, valid⟩ := consist rfl
        exact ⟨commitBusy_tracks (.inl rfl) (idle (.inl rfl)),
          (commitFailure_consist_eq_none_iff ..).2 ⟨held, fun i => (profileFails_eq_false_iff ..).2 (valid i)⟩⟩
      | headClass =>
        exact ⟨commitBusy_tracks (.inr rfl) (idle (.inr rfl)),
          (commitFailure_headClass_eq_none_iff ..).2 fun k => (classFails_eq_false_iff ..).2 (headClass rfl k)⟩
      | blankMap => exact ⟨rfl, rfl⟩
    rw [commitNamed_taken (s := s.taken c rest) latched passed.1 passed.2] at run
    refine ⟨(commitTaken t s.tables).unlatched, run, rfl, rfl, upd_get_same .., upd_get_same .., entry_copy_same _ _ t,
      fun u ne => ⟨upd_get_other _ _ (tableIndex_injective ne), upd_get_other _ _ (tableIndex_injective ne),
        entry_copy_other _ _ ne⟩⟩

end Sys2Proof.Settled
end

section
/-! SUPPORT. The start of a passage (R44, R46, R66), a track's site entry and its cameras (R2, R38). -/

namespace Sys2Proof.Machine

/-! ### A track's entry and cameras (R2, R38) -/

theorem siteTrack?_eq_some_iff (s : State) (t : Track) (e : SiteTrack) :
    s.siteTrack? t = some e ↔ s.tables.active.siteTracks[trackIndex t] = some e ∧ e.valid = true :=
  Option.filter_eq_some_iff

theorem passage?_eq_some_iff (s : State) (t : Track) (p : Passage) :
    s.passage? t = some p ↔ (s.track t).state = .active p := by
  unfold State.passage?
  split <;> simp_all

theorem mem_camerasOf_iff (s : State) (t : Track) (cam : Fin 4) :
    cam ∈ s.camerasOf t ↔ ∃ e, s.siteCamera? cam = some e ∧ e.track = some t := by
  have every : cam ∈ cameras := List.mem_finRange cam
  unfold State.camerasOf
  rw [List.mem_filter, and_iff_right every]
  split
  · next e he => simp [he]
  · next none => simp [none]

/-- The cameras of a track stand in ascending number. -/
theorem camerasOf_ascending (s : State) (t : Track) : (s.camerasOf t).Pairwise (fun c d => c < d) :=
  List.Pairwise.filter _ (by decide : cameras.Pairwise (fun c d => c < d))

theorem trackIndex_injective {t k : Track} (h : k ≠ t) : trackIndex t ≠ trackIndex k := by
  revert h
  cases t <;> cases k <;> decide

/-! ### Channels that start (R66) -/

/-- A channel that starts: travel, carry and lists anew, the sequence counter goes on. -/
def Channel.started (t : Track) (pace : Nat) (site : SiteCamera) (c : Channel) : Channel where
  run := .running t false (linePeriod pace site).1 (linePeriod pace site).2 0
  travel := 0
  carry := 0
  sequence := c.sequence
  windows := []
  openWindow := none

theorem startChannel_of_site {s : State} {cam : Fin 4} {site : SiteCamera} (h : s.siteCamera? cam = some site)
    (t : Track) (pace : Nat) : startChannel t pace cam s = s.modChannel cam (Channel.started t pace site) := by
  unfold startChannel
  rw [h]
  rfl

/-- What the start of the channels of some cameras does: their channels start, and nothing else changes. -/
def ChannelsStart (t : Track) (pace : Nat) (cams : List (Fin 4)) (s u : State) : Prop :=
  ∃ channels : Vector Channel 4, u = { s with channels := channels }
    ∧ (∀ cam ∈ cams, ∀ site, s.siteCamera? cam = some site → channels[cam] = s.channels[cam].started t pace site)
    ∧ ∀ cam, cam ∉ cams → channels[cam] = s.channels[cam]

theorem startChannel_starts (t : Track) (pace : Nat) (cam : Fin 4) (s : State) :
    ChannelsStart t pace [cam] s (startChannel t pace cam s) := by
  cases h : s.siteCamera? cam with
  | none =>
    refine ⟨s.channels, by simp only [startChannel, h], fun c mem site held => ?_, fun _ _ => rfl⟩
    obtain rfl := List.mem_singleton.1 mem
    cases h.symm.trans held
  | some site =>
    refine ⟨_, startChannel_of_site h t pace, fun c mem d held => ?_, fun c other => ?_⟩
    · obtain rfl := List.mem_singleton.1 mem
      obtain rfl := Option.some.inj (h.symm.trans held)
      exact upd_get_same ..
    · exact upd_get_other _ _ fun same => other (same ▸ List.mem_singleton_self c)

/-- Cameras given once each start one after the other. -/
theorem foldl_startChannel_starts (t : Track) (pace : Nat) {cams : List (Fin 4)} (once : cams.Nodup) (s : State) :
    ChannelsStart t pace cams s (cams.foldl (fun s cam => startChannel t pace cam s) s) := by
  induction cams generalizing s with
  | nil => exact ⟨s.channels, rfl, nofun, fun _ _ => rfl⟩
  | cons cam rest ih =>
    obtain ⟨fresh, once⟩ := List.nodup_cons.1 once
    obtain ⟨first, started, own, others⟩ := startChannel_starts t pace cam s
    obtain ⟨channels, all, later, unnamed⟩ := ih once { s with channels := first }
    rw [List.foldl_cons, started]
    refine ⟨channels, all, List.forall_mem_cons.2 ⟨fun site held => ?_, fun c mem site held => ?_⟩, fun c other => ?_⟩
    · exact (unnamed cam fresh).trans (own cam List.mem_cons_self site held)
    · have ne : c ∉ [cam] := fun same => fresh (List.mem_singleton.1 same ▸ mem)
      exact (later c mem site held).trans (congrArg (Channel.started t pace site) (others c ne))
    · obtain ⟨ne, absent⟩ := not_or.1 (List.mem_cons.not.1 other)
      exact (unnamed c absent).trans (others c (by simpa using ne))

theorem startChannels_start (t : Track) (pace : Nat) (s : State) :
    ChannelsStart t pace (s.camerasOf t) s (startChannels t pace s) :=
  foldl_startChannel_starts t pace (camerasOf_ascending s t).nodup s

/-! ### The candidates at the start (R44) -/

theorem startCandidates_deviation {im : Images} {c : Candidate} (h : c ∈ startCandidates im) : c.deviation = 0 := by
  obtain ⟨i, -, rfl⟩ := List.mem_map.1 h
  rfl

theorem startCandidates_index (im : Images) (i : Fin 32) :
    (∃ c ∈ startCandidates im, c.index = i) ↔ i ≠ 0 ∧ im.consist[i].isSome = true := by
  simp [startCandidates]

/-! ### The start of a passage (R44, R46) -/

/-- The state in which a new passage has its context and its number. -/
def State.entered (s : State) (t : Track) (p : Passage) : State :=
  { s.setPassage t p with passageNumber := s.passageNumber + 1 }

theorem State.entered_track_same (s : State) (t : Track) (p : Passage) :
    (s.entered t p).track t = { s.track t with state := .active p } := upd_get_same ..

theorem State.entered_track_other (s : State) {t k : Track} (ne : k ≠ t) (p : Passage) :
    (s.entered t p).track k = s.track k := upd_get_other _ _ (trackIndex_injective ne)

theorem takeCrossing_starts {s : State} {t : Track} {x : Crossing} {pace : Nat} {clamped : Bool} {site : SiteTrack}
    (idle : (s.track t).state = .idle) (arrival : x.kind = .arrival pace clamped) (entry : s.siteTrack? t = some site) :
    takeCrossing t x s = startChannels t pace (s.entered t (newPassage s site x pace)) := by
  simp only [takeCrossing, idle, crossIdle, arrival, startPassage, entry, State.entered]

/-- The context of a new passage, from its arrival. -/
theorem newPassage_of_arrival (s : State) (site : SiteTrack) {x : Crossing} {pace : Nat} {clamped : Bool}
    (arrival : x.kind = .arrival pace clamped) : newPassage s site x pace =
      { newPassage s site x pace with
        axles := [{ time := x.time, pace := some pace, spacing := none, unpaired := false, clamped := clamped }]
        paceClamp := clamped } := by
  simp [newPassage, axleOf, Crossing.pace, Crossing.clamped, arrival]

end Sys2Proof.Machine

namespace Sys2Proof.Settled

open Sys2Proof.Machine

/-- Settles O13. -/
theorem passageStarts : Obligations.PassageStarts := by
  refine ⟨?_, fun s => ⟨fun t => rfl, passage?_eq_some_iff s, siteTrack?_eq_some_iff s, fun cam => rfl,
    mem_camerasOf_iff s, camerasOf_ascending s⟩⟩
  rintro s s' t x pace clamped site idle arrival entry rfl
  rw [takeCrossing_starts idle arrival entry]
  obtain ⟨channels, started, own, others⟩ := startChannels_start t pace (s.entered t (newPassage s site x pace))
  have context := s.entered_track_same t (newPassage s site x pace)
  rw [started]
  refine ⟨rfl, fun k ne => s.entered_track_other ne _, (congrArg TrackRec.stray context).trans rfl,
    (congrArg TrackRec.state context).trans ?_, fun c => startCandidates_deviation, startCandidates_index _,
    fun cam e held names => own cam ((mem_camerasOf_iff s t cam).2 ⟨e, held, names⟩) e held, others⟩
  rw [newPassage_of_arrival s site arrival]
  rfl

end Sys2Proof.Settled
end

section
/-! SUPPORT. Blank columns and stored rows (R109, R111, R112, R115), column by column. -/

namespace Sys2Proof.Machine

theorem blankColumns_length (e : BlankEntry) : (blankColumns e).length = 2048 := by
  simp [blankColumns]

/-- A run blanks a column when its cells hold the column's cell and its pattern the column's position (R11). -/
theorem runBlanks_iff {cell position : Nat} (h : position < 8) (r : BlankRun) :
    runBlanks (8 * cell + position) r = true
      ↔ r.firstCell ≤ cell ∧ cell ≤ r.lastCell ∧ r.pattern.getLsbD position = true := by
  have ofCell : (8 * cell + position) / 8 = cell := by omega
  have inCell : (8 * cell + position) % 8 = position := by omega
  simp [runBlanks, ofCell, inCell, and_assoc]

/-- The flag of a column: some run blanks it. -/
theorem blankColumns_get (e : BlankEntry) {column : Nat} (h : column < 2048) :
    (blankColumns e)[column]? = some (e.runs.any (runBlanks column)) := by
  simp [blankColumns, h]

theorem any_runBlanks_iff {cell position : Nat} (h : position < 8) (runs : List BlankRun) :
    runs.any (runBlanks (8 * cell + position)) = true
      ↔ ∃ r ∈ runs, r.firstCell ≤ cell ∧ cell ≤ r.lastCell ∧ r.pattern.getLsbD position = true := by
  simp only [List.any_eq_true, runBlanks_iff h]

theorem storedPixels_get {kept fill : Byte} {blank : List Bool} {pixels : List Byte} {column : Nat} {blanked : Bool}
    {pixel : Byte} (hb : blank[column]? = some blanked) (hp : pixels[column]? = some pixel) :
    (storedPixels kept fill blank pixels)[column]? = some (storedPixel kept fill blanked pixel) := by
  simp [storedPixels, List.getElem?_zipWith, hb, hp]

/-- The stored row of a row of the fill value is the fill row (R115). -/
theorem storedPixels_fill (kept fill : Byte) (blank : List Bool) :
    storedPixels kept fill blank (List.replicate blank.length fill) = fillRow kept fill blank := by
  unfold storedPixels fillRow
  induction blank with
  | nil => rfl
  | cons b rest ih => rw [List.length_cons, List.replicate_succ, List.zipWith_cons_cons, ih, List.map_cons]

end Sys2Proof.Machine

namespace Sys2Proof.Settled

open Sys2Proof.Machine

/-- Settles O33, column by column. -/
theorem storedPixels : Obligations.StoredPixels := by
  refine ⟨?_, fun e cell position hc hp => ⟨_, blankColumns_get e (by omega), any_runBlanks_iff hp e.runs⟩, rfl,
    fun e => rfl⟩
  intro e kept pixels row length isRow
  rw [isRow]
  refine ⟨?_, fun cell position pixel hc hp held => ?_, ?_⟩
  · simp [Machine.storedPixels, blankColumns_length, length]
  · have stored := storedPixels_get (kept := kept) (fill := e.fill) (blankColumns_get e (by omega)) held
    refine ⟨fun covered => ?_, fun clear => ⟨pixel &&& kept, ?_, fun bit _ => BitVec.getLsbD_and⟩⟩
    · rw [stored, (any_runBlanks_iff hp e.runs).2 covered]
      rfl
    · have unblanked : e.runs.any (runBlanks (8 * cell + position)) = false := by
        rw [← Bool.not_eq_true, any_runBlanks_iff hp]
        rintro ⟨r, mem, first, last, set⟩
        rcases clear r mem with before | after | unset
        · exact absurd before (Nat.not_lt.2 first)
        · exact absurd after (Nat.not_lt.2 last)
        · cases set.symm.trans unset
      rw [stored, unblanked]
      rfl
  · rintro rfl
    rw [← blankColumns_length e]
    exact storedPixels_fill ..

end Sys2Proof.Settled
end

section
/-! SUPPORT. Layouts (R199): a run of fields spelled out by their widths and values, where its fields stand in a record,
and how it is read back. -/

namespace Sys2Proof.Machine

/-! ### Runs of fields -/

/-- Fields spelled out one after the other, each given by its width and its value (R199). -/
def spell (fields : List (Nat × Nat)) : List Byte := fields.flatMap fun f => beBytes f.1 f.2

/-- The fields of a run with their offsets, the first at `offset`. -/
def placed (offset : Nat) : List (Nat × Nat) → List (Nat × Nat × Nat)
  | [] => []
  | (width, value) :: rest => (offset, width, value) :: placed (offset + width) rest

@[simp] theorem spell_nil : spell [] = [] := rfl

theorem spell_cons (f : Nat × Nat) (rest : List (Nat × Nat)) : spell (f :: rest) = beBytes f.1 f.2 ++ spell rest := rfl

@[simp] theorem spell_length (fields : List (Nat × Nat)) : (spell fields).length = (fields.map Prod.fst).sum := by
  simp [spell, List.length_flatMap]

/-! ### Bytes from an offset on -/

/-- From an offset on, the bytes are `rest`. -/
def BytesFrom (bytes : List Byte) (offset : Nat) (rest : List Byte) : Prop :=
  ∃ front : List Byte, front.length = offset ∧ bytes = front ++ rest

variable {bytes rest : List Byte} {offset : Nat}

theorem BytesFrom.start (h : bytes = rest) : BytesFrom bytes 0 rest := ⟨[], rfl, h⟩

/-- The bytes behind the next ones. -/
theorem BytesFrom.past {next : List Byte} (h : BytesFrom bytes offset (next ++ rest)) {n : Nat}
    (length : next.length = n) :
    BytesFrom bytes (offset + n) rest := by
  obtain ⟨front, rfl, rfl⟩ := h
  exact ⟨front ++ next, by rw [List.length_append, length], (List.append_assoc ..).symm⟩

/-- Bytes with nothing behind them. -/
theorem BytesFrom.last (h : BytesFrom bytes offset rest) : BytesFrom bytes offset (rest ++ []) := by
  rwa [List.append_nil]

theorem BytesFrom.length (h : BytesFrom bytes offset rest) : bytes.length = offset + rest.length := by
  obtain ⟨front, rfl, rfl⟩ := h
  exact List.length_append

theorem BytesFrom.drop (h : BytesFrom bytes offset rest) : bytes.drop offset = rest := by
  obtain ⟨front, rfl, rfl⟩ := h
  exact List.drop_left

/-- The next bytes, cut out. -/
theorem BytesFrom.slice {next : List Byte} (h : BytesFrom bytes offset (next ++ rest)) {n : Nat}
    (length : next.length = n) :
    (bytes.drop offset).take n = next := by
  rw [h.drop, ← length, List.take_left]

/-- A record holds the fields of a run at their offsets. -/
theorem BytesFrom.holds {fields : List (Nat × Nat)} (h : BytesFrom bytes offset (spell fields ++ rest)) :
    HoldsFields bytes (placed offset fields) := by
  induction fields generalizing offset with
  | nil => exact nofun
  | cons f later ih =>
    obtain ⟨width, value⟩ := f
    rw [spell_cons, List.append_assoc] at h
    refine List.forall_mem_cons.2 ⟨?_, ih (h.past (beBytes_length ..))⟩
    rw [fieldAt, h.slice (beBytes_length ..), beNat_beBytes]

/-- The bytes of the first field of a run, and the run behind it. -/
theorem BytesFrom.firstField {width value : Nat} {later : List (Nat × Nat)}
    (h : BytesFrom bytes offset (spell ((width, value) :: later) ++ rest)) :
    (bytes.drop offset).take width = beBytes width value ∧ BytesFrom bytes (offset + width) (spell later ++ rest) := by
  rw [spell_cons, List.append_assoc] at h
  exact ⟨h.slice (beBytes_length ..), h.past (beBytes_length ..)⟩

/-- `BytesFrom.holds`, with the offsets written in another way. -/
theorem BytesFrom.layout {fields : List (Nat × Nat)} (h : BytesFrom bytes offset (spell fields ++ rest))
    {layout : List (Nat × Nat × Nat)} (same : layout = placed offset fields) : HoldsFields bytes layout :=
  same ▸ h.holds

theorem HoldsFields.append {fs gs : List (Nat × Nat × Nat)} (hf : HoldsFields bytes fs) (hg : HoldsFields bytes gs) :
    HoldsFields bytes (fs ++ gs) :=
  fun f mem => (List.mem_append.1 mem).elim (hf f) (hg f)

/-! ### Lists of items of one width -/

theorem flatMap_length {α : Type} {f : α → List Byte} {width : Nat} {items : List α}
    (hw : ∀ x ∈ items, (f x).length = width) : (items.flatMap f).length = width * items.length := by
  rw [List.length_flatMap, List.map_congr_left hw]
  simp [Nat.mul_comm]

/-- An item of a list stands behind the items before it. -/
theorem BytesFrom.item {α : Type} {f : α → List Byte} {width : Nat} {items : List α}
    (h : BytesFrom bytes offset (items.flatMap f ++ rest)) (hw : ∀ x ∈ items, (f x).length = width) {i : Nat} {x : α}
    (hx : items[i]? = some x) : ∃ behind, BytesFrom bytes (offset + width * i) (f x ++ behind) := by
  obtain ⟨inside, rfl⟩ := List.getElem?_eq_some_iff.1 hx
  have parts : items.flatMap f ++ rest
      = (items.take i).flatMap f ++ (f items[i] ++ ((items.drop (i + 1)).flatMap f ++ rest)) := by
    rw [← List.append_assoc (f _), ← List.flatMap_cons, List.getElem_cons_drop, ← List.append_assoc,
      ← List.flatMap_append, List.take_append_drop]
  rw [parts] at h
  refine ⟨_, h.past ?_⟩
  rw [flatMap_length fun x mem => hw x (List.mem_of_mem_take mem), List.length_take_of_le (Nat.le_of_lt inside)]

/-! ### Fields read back -/

/-- Every value of a run fits its width. -/
def Fit (fields : List (Nat × Nat)) : Prop := ∀ f ∈ fields, f.2 < 256 ^ f.1

theorem fit_nil : Fit [] := nofun

theorem fit_cons {f : Nat × Nat} {rest : List (Nat × Nat)} : Fit (f :: rest) ↔ f.2 < 256 ^ f.1 ∧ Fit rest :=
  List.forall_mem_cons

/-- A run whose values fit their widths is read back. -/
theorem takeNums_spell {fields : List (Nat × Nat)} (fit : Fit fields) (rest : List Byte) :
    takeNums (fields.map Prod.fst) (spell fields ++ rest) = some (fields.map Prod.snd, rest) := by
  induction fields with
  | nil => rfl
  | cons f fields ih =>
    obtain ⟨head, tail⟩ := List.forall_mem_cons.1 fit
    rw [spell_cons, List.append_assoc, List.map_cons, takeNums, takeNum_beBytes _ _ _ head]
    simp only [bind, Option.bind_some, ih tail, pure, List.map_cons]

/-! ### Values of a field -/

theorem byte_toNat {n : Nat} (h : n < 256) : (BitVec.ofNat 8 n).toNat = n := by
  rw [BitVec.toNat_ofNat, Nat.mod_eq_of_lt h]

theorem yesNo_eq_toNat (b : Bool) : yesNo b = b.toNat := by
  cases b <;> rfl

end Sys2Proof.Machine
end

section
/-! SUPPORT. Table entries as bytes and back (R202): the fields of each kind, the entry read from its bytes, and the
whole list of a staging command. -/

namespace Sys2Proof.Machine

/-! ### The bytes of each kind -/

/-- The fields of a site track entry, by width and value. -/
def siteTrackFields (e : SiteTrack) : List (Nat × Nat) :=
  [(1, yesNo e.valid), (2, e.spacingA), (2, e.spacingB), (4, e.defaultPace), (2, e.paceHold), (2, e.quiet),
    (2, e.settle)]

/-- The code of a camera's track field (R199). -/
def cameraTrackCode : Option Track → Nat
  | none => 0
  | some .t1 => 1
  | some .t2 => 2

/-- The fields of a site camera entry, by width and value. -/
def siteCameraFields (e : SiteCamera) : List (Nat × Nat) :=
  [(1, cameraTrackCode e.track), (1, roleCode e.role), (4, e.aDistance), (4, e.bDistance), (2, e.pitch),
    (4, e.periodMin), (4, e.periodMax), (2, e.slope), (1, e.kept.toNat), (2, e.rowLimit), (2, e.rowTimeout),
    (1, e.repairLimit)]

/-- The fields of a head class, by width and value. -/
def headClassFields (e : HeadClass) : List (Nat × Nat) :=
  [(2, e.nominal), (2, e.wearLimit), (2, e.stepLimit), (2, e.windowBefore), (2, e.windowAfter),
    (1, e.referenceThreshold), (1, e.stripThreshold), (1, e.minGap), (1, e.minValid), (1, e.firstCell),
    (1, e.lastCell), (2, e.alertMask.toNat)]

theorem siteTrack_bytes (e : SiteTrack) : entryBytes (.siteTrack e) = spell (siteTrackFields e) := by
  simp [entryBytes, spell, siteTrackFields]

theorem siteCamera_bytes (e : SiteCamera) : entryBytes (.siteCamera e) = spell (siteCameraFields e) := by
  obtain ⟨track, role, _⟩ := e
  rcases track with _ | _ | _ <;> cases role <;> simp [entryBytes, spell, siteCameraFields, cameraTrackCode, roleCode]

theorem headClass_bytes (e : HeadClass) : entryBytes (.headClass e) = spell (headClassFields e) := by
  simp [entryBytes, spell, headClassFields]

/-- A spacing of a signature, a pantograph and a blank run, as an entry holds them (R202). -/
def spacingBytes (d : Nat) : List Byte := spell [(2, d)]

def pantoBytes (p : Panto) : List Byte := spell [(4, p.offset), (1, p.headClass.val)]

def runBytes (r : BlankRun) : List Byte := spell [(1, r.firstCell), (1, r.lastCell), (1, r.pattern.toNat)]

theorem spacingBytes_length (d : Nat) : (spacingBytes d).length = 2 := rfl

theorem pantoBytes_length (p : Panto) : (pantoBytes p).length = 5 := rfl

theorem runBytes_length (r : BlankRun) : (runBytes r).length = 3 := rfl

theorem profile_bytes (e : Profile) : entryBytes (.profile e) =
    spell [(2, e.code.toNat), (1, e.signature.length)] ++ (e.signature.flatMap spacingBytes
      ++ (spell [(2, e.tolerance.getD 0), (2, e.expectedAxles.getD 0), (1, e.pantos.length)]
      ++ e.pantos.flatMap pantoBytes)) := by
  have spacing : spacingBytes = beBytes 2 := funext fun d => by simp [spacingBytes, spell]
  have panto : pantoBytes = fun p => beBytes 4 p.offset ++ beBytes 1 p.headClass.val :=
    funext fun p => by simp [pantoBytes, spell]
  simp [entryBytes, spell, spacing, panto]

theorem blankMap_bytes (e : BlankEntry) : entryBytes (.blankMap e) =
    spell [(1, e.fill.toNat), (1, e.runs.length)] ++ e.runs.flatMap runBytes := by
  have run : runBytes = fun r => beBytes 1 r.firstCell ++ beBytes 1 r.lastCell ++ beBytes 1 r.pattern.toNat :=
    funext fun r => by simp [runBytes, spell]
  simp [entryBytes, spell, run]

/-! ### Layouts (R202) -/

theorem profile_layout (e : Profile) {bytes : List Byte} {n : Nat} (hb : bytes = entryBytes (.profile e))
    (hn : n = 2 * e.signature.length) :
    bytes.length = 8 + n + 5 * e.pantos.length
      ∧ HoldsFields bytes
        [(0, 2, e.code.toNat), (2, 1, e.signature.length), (3 + n, 2, e.tolerance.getD 0),
         (5 + n, 2, e.expectedAxles.getD 0), (7 + n, 1, e.pantos.length)]
      ∧ (∀ (i d : Nat), e.signature[i]? = some d → HoldsFields bytes [(3 + 2 * i, 2, d)])
      ∧ ∀ (i : Nat) (p : Panto), e.pantos[i]? = some p →
          HoldsFields bytes [(8 + n + 5 * i, 4, p.offset), (12 + n + 5 * i, 1, p.headClass.val)] := by
  rw [profile_bytes] at hb
  have head := BytesFrom.start hb
  have spacings : BytesFrom bytes 3 (e.signature.flatMap spacingBytes ++ _) := head.past (spell_length _)
  have counts : BytesFrom bytes (3 + n) (spell _ ++ _) :=
    spacings.past ((flatMap_length fun d _ => spacingBytes_length d).trans hn.symm)
  have pantos : BytesFrom bytes (3 + n + 5) (e.pantos.flatMap pantoBytes ++ []) := (counts.past (spell_length _)).last
  refine ⟨?_, head.holds.append (counts.layout (by grind [placed])), fun i d hd => ?_, fun i p hp => ?_⟩
  · rw [pantos.length, List.append_nil, flatMap_length fun p _ => pantoBytes_length p]
    omega
  · obtain ⟨behind, item⟩ := spacings.item (fun d _ => spacingBytes_length d) hd
    exact item.holds
  · obtain ⟨behind, item⟩ := pantos.item (fun p _ => pantoBytes_length p) hp
    exact item.layout (by grind [placed])

theorem blankMap_layout (e : BlankEntry) {bytes : List Byte} (hb : bytes = entryBytes (.blankMap e)) :
    bytes.length = 2 + 3 * e.runs.length ∧ HoldsFields bytes [(0, 1, e.fill.toNat), (1, 1, e.runs.length)]
      ∧ ∀ (i : Nat) (r : BlankRun), e.runs[i]? = some r → HoldsFields bytes
          [(2 + 3 * i, 1, r.firstCell), (3 + 3 * i, 1, r.lastCell), (4 + 3 * i, 1, r.pattern.toNat)] := by
  rw [blankMap_bytes] at hb
  have head := BytesFrom.start hb
  have runs : BytesFrom bytes 2 (e.runs.flatMap runBytes ++ []) := (head.past (spell_length _)).last
  refine ⟨?_, head.holds, fun i r hr => ?_⟩
  · rw [runs.length, List.append_nil, flatMap_length fun r _ => runBytes_length r]
  · obtain ⟨behind, item⟩ := runs.item (fun r _ => runBytes_length r) hr
    exact item.layout (by grind [placed])

theorem siteTrack_layout (e : SiteTrack) {bytes : List Byte} (hb : bytes = entryBytes (.siteTrack e)) :
    bytes.length = 15 ∧ HoldsFields bytes
      [(0, 1, e.valid.toNat), (1, 2, e.spacingA), (3, 2, e.spacingB), (5, 4, e.defaultPace), (9, 2, e.paceHold),
       (11, 2, e.quiet), (13, 2, e.settle)] := by
  rw [siteTrack_bytes, siteTrackFields, yesNo_eq_toNat] at hb
  exact ⟨by rw [hb]; rfl, (BytesFrom.start hb).last.holds⟩

theorem siteCamera_layout (e : SiteCamera) {bytes : List Byte} (hb : bytes = entryBytes (.siteCamera e)) :
    bytes.length = 28 ∧ HoldsFields bytes
      [(0, 1, cameraTrackCode e.track), (1, 1, roleCode e.role), (2, 4, e.aDistance), (6, 4, e.bDistance),
       (10, 2, e.pitch), (12, 4, e.periodMin), (16, 4, e.periodMax), (20, 2, e.slope), (22, 1, e.kept.toNat),
       (23, 2, e.rowLimit), (25, 2, e.rowTimeout), (27, 1, e.repairLimit)] := by
  rw [siteCamera_bytes] at hb
  exact ⟨by rw [hb]; rfl, (BytesFrom.start hb).last.holds⟩

theorem headClass_layout (e : HeadClass) {bytes : List Byte} (hb : bytes = entryBytes (.headClass e)) :
    bytes.length = 18 ∧ HoldsFields bytes
      [(0, 2, e.nominal), (2, 2, e.wearLimit), (4, 2, e.stepLimit), (6, 2, e.windowBefore), (8, 2, e.windowAfter),
       (10, 1, e.referenceThreshold), (11, 1, e.stripThreshold), (12, 1, e.minGap), (13, 1, e.minValid),
       (14, 1, e.firstCell), (15, 1, e.lastCell), (16, 2, e.alertMask.toNat)] := by
  rw [headClass_bytes] at hb
  exact ⟨by rw [hb]; rfl, (BytesFrom.start hb).last.holds⟩

/-! ### Ranges (R4, R5, R7, R9, R11) -/

theorem profile_inRange_iff (index : Nat) (e : Profile) : (TableEntry.profile e).inRange index = true ↔
    (∀ n, e.expectedAxles = some n → 2 ≤ n ∧ n ≤ 1023) ∧ e.pantos.length ≤ 4
      ∧ (∀ p ∈ e.pantos, p.offset ≤ 400000) ∧ (index = 0 → e.signature = [] ∧ e.tolerance = none)
      ∧ (index ≠ 0 → 2 ≤ e.signature.length ∧ e.signature.length ≤ 8
        ∧ (∀ d ∈ e.signature, 1500 ≤ d ∧ d ≤ 30000) ∧ (∃ tol, e.tolerance = some tol ∧ 10 ≤ tol ∧ tol ≤ 500)
        ∧ 1 ≤ e.pantos.length) := by
  have tolerance : (∃ tol, e.tolerance = some tol ∧ 10 ≤ tol ∧ tol ≤ 500)
      ↔ e.tolerance.isSome = true ∧ ∀ t ∈ e.tolerance, 10 ≤ t ∧ t ≤ 500 := by
    cases e.tolerance <;> simp
  rw [tolerance, TableEntry.inRange, decide_eq_true_eq]
  unfold Profile.InRange Profile.CommonRange
  by_cases zero : index = 0 <;> simp [zero, and_assoc]

/-! ### Entries read back -/

/-- The fields of an entry as numbers (R202). -/
def rawOf : TableEntry → RawEntry
  | .siteTrack e => .fixed .siteTrack ((siteTrackFields e).map Prod.snd)
  | .siteCamera e => .fixed .siteCamera ((siteCameraFields e).map Prod.snd)
  | .profile e =>
    .profile e.code.toNat e.signature (e.tolerance.getD 0) (e.expectedAxles.getD 0)
      (e.pantos.map fun p => (p.offset, p.headClass.val))
  | .headClass e => .fixed .headClass ((headClassFields e).map Prod.snd)
  | .blankMap e => .blankMap e.fill.toNat (e.runs.map fun r => (r.firstCell, r.lastCell, r.pattern.toNat))

theorem flagOf_yesNo (b : Bool) : flagOf (yesNo b) = some b := by
  cases b <;> rfl

theorem cameraTrackOf_code (t : Option Track) : cameraTrackOf (cameraTrackCode t) = some t := by
  rcases t with _ | _ | _ <;> rfl

theorem roleOf_code (r : Role) : roleOf (roleCode r) = some r := by
  cases r <;> rfl

/-- A value that is not 0 when it is present is read back (R199). -/
theorem optionalOf_getD {o : Option Nat} (h : o ≠ some 0) : optionalOf (o.getD 0) = o := by
  cases o with
  | none => rfl
  | some n => exact if_neg fun zero => h (congrArg some zero)

theorem pantos_read (pantos : List Panto) :
    (pantos.map fun p => (p.offset, p.headClass.val)).mapM pantoOf = some pantos := by
  induction pantos with
  | nil => rfl
  | cons p rest ih =>
    have head : pantoOf (p.offset, p.headClass.val) = some p := dif_pos p.headClass.isLt
    simp [List.mapM_cons, head, ih]

/-- The fields of an entry in range spell the entry. -/
theorem entryOf_rawOf {index : Nat} {e : TableEntry} (range : e.inRange index = true) : entryOf (rawOf e) = some e := by
  cases e with
  | siteTrack e => simp [rawOf, siteTrackFields, entryOf, flagOf_yesNo]
  | siteCamera e => simp [rawOf, siteCameraFields, entryOf, cameraTrackOf_code, roleOf_code]
  | profile e =>
    obtain ⟨axles, -, -, zero, others⟩ := (profile_inRange_iff index e).1 range
    have tolerance : e.tolerance ≠ some 0 := by
      intro held
      by_cases at0 : index = 0
      · cases held.symm.trans (zero at0).2
      · obtain ⟨-, -, -, ⟨tol, some, low, -⟩, -⟩ := others at0
        cases held.symm.trans some
        cases low
    have expected : e.expectedAxles ≠ some 0 := fun held => absurd (axles 0 held).1 (by decide)
    simp only [rawOf, entryOf, pantos_read, optionalOf_getD tolerance, optionalOf_getD expected]
    simp
  | headClass e => simp [rawOf, headClassFields, entryOf]
  | blankMap e => simp [rawOf, entryOf, Function.comp_def]

theorem checkEntry_rawOf {index : Nat} {e : TableEntry} (range : e.inRange index = true) :
    checkEntry index (rawOf e) = some e := (checkEntry_eq_some_iff ..).2 ⟨entryOf_rawOf range, range⟩

theorem takePantos_bytes {pantos : List Panto} (fit : ∀ p ∈ pantos, p.offset < 256 ^ 4) (rest : List Byte) :
    takePantos pantos.length (pantos.flatMap pantoBytes ++ rest)
      = some (pantos.map fun p => (p.offset, p.headClass.val), rest) := by
  induction pantos with
  | nil => rfl
  | cons p later ih =>
    obtain ⟨head, tail⟩ := List.forall_mem_cons.1 fit
    have cls : p.headClass.val < 256 ^ 1 := by omega
    simp [takePantos, pantoBytes, spell_cons, takeNum_beBytes _ _ _ head, takeNum_beBytes _ _ _ cls, ih tail]

theorem takeRuns_bytes {runs : List BlankRun} (fit : ∀ r ∈ runs, r.firstCell < 256 ^ 1 ∧ r.lastCell < 256 ^ 1)
    (rest : List Byte) :
    takeRuns runs.length (runs.flatMap runBytes ++ rest)
      = some (runs.map fun r => (r.firstCell, r.lastCell, r.pattern.toNat), rest) := by
  induction runs with
  | nil => rfl
  | cons r later ih =>
    obtain ⟨⟨first, last⟩, tail⟩ := List.forall_mem_cons.1 fit
    have pattern : r.pattern.toNat < 256 ^ 1 := r.pattern.isLt
    simp [takeRuns, runBytes, spell_cons, takeNum_beBytes _ _ _ first, takeNum_beBytes _ _ _ last,
      takeNum_beBytes _ _ _ pattern, ih tail]

theorem siteTrack_fit {e : SiteTrack} (h : e.InRange) : Fit (siteTrackFields e) := by
  have flag : yesNo e.valid ≤ 1 := by cases e.valid <;> decide
  simp only [siteTrackFields, fit_cons, fit_nil, and_true]
  omega

theorem siteCamera_fit {e : SiteCamera} (h : e.InRange) : Fit (siteCameraFields e) := by
  have track : cameraTrackCode e.track ≤ 2 := by rcases e.track with _ | _ | _ <;> decide
  have role : roleCode e.role ≤ 1 := by cases e.role <;> decide
  have kept := e.kept.isLt
  simp only [siteCameraFields, fit_cons, fit_nil, and_true]
  omega

theorem headClass_fit {e : HeadClass} (h : e.InRange) : Fit (headClassFields e) := by
  have mask := e.alertMask.isLt
  simp only [headClassFields, fit_cons, fit_nil, and_true]
  omega

/-- The values of a profile in range fit their fields. -/
theorem profile_fit {index : Nat} {e : Profile} (range : (TableEntry.profile e).inRange index = true) :
    (e.signature.length < 256 ^ 1 ∧ ∀ d ∈ e.signature, d < 256 ^ 2) ∧ e.tolerance.getD 0 < 256 ^ 2
      ∧ e.expectedAxles.getD 0 < 256 ^ 2 ∧ e.pantos.length < 256 ^ 1 ∧ ∀ p ∈ e.pantos, p.offset < 256 ^ 4 := by
  obtain ⟨axles, count, offsets, zero, others⟩ := (profile_inRange_iff index e).1 range
  have expected : e.expectedAxles.getD 0 < 256 ^ 2 := by
    cases held : e.expectedAxles with
    | none => decide
    | some n => exact Nat.lt_of_le_of_lt (axles n held).2 (by decide)
  have offset : ∀ p ∈ e.pantos, p.offset < 256 ^ 4 := fun p mem => Nat.lt_of_le_of_lt (offsets p mem) (by decide)
  by_cases at0 : index = 0
  · obtain ⟨signature, tolerance⟩ := zero at0
    rw [signature, tolerance]
    exact ⟨⟨by decide, nofun⟩, by decide, expected, by omega, offset⟩
  · obtain ⟨-, length, spacings, ⟨tol, held, -, high⟩, -⟩ := others at0
    rw [held]
    exact ⟨⟨by omega, fun d mem => Nat.lt_of_le_of_lt (spacings d mem).2 (by decide)⟩,
      Nat.lt_of_le_of_lt high (by decide), expected, by omega, offset⟩

theorem takeSignature_bytes {signature : List Nat} (fit : ∀ d ∈ signature, d < 256 ^ 2) (rest : List Byte) :
    takeNums (List.replicate signature.length 2) (signature.flatMap spacingBytes ++ rest) = some (signature, rest) := by
  have read := takeNums_spell (fields := signature.map fun d => (2, d)) (by simpa [Fit] using fit) rest
  have bytes : spell (signature.map fun d => (2, d)) = signature.flatMap spacingBytes := by
    simp [spell, List.flatMap_map, show spacingBytes = beBytes 2 from funext fun d => List.append_nil _]
  rw [bytes] at read
  simpa [Function.comp_def] using read

/-- The bytes of an entry in range are read as its fields, whatever follows. -/
theorem takeEntry_entryBytes {index : Nat} {e : TableEntry} (range : e.inRange index = true) (rest : List Byte) :
    takeEntry e.kind (entryBytes e ++ rest) = some (rawOf e, rest) := by
  cases e with
  | siteTrack e =>
    have read := takeNums_spell (siteTrack_fit (of_decide_eq_true range)) rest
    rw [siteTrack_bytes]
    simp only [TableEntry.kind, takeEntry, show siteTrackWidths = (siteTrackFields e).map Prod.fst from rfl, read]
    rfl
  | siteCamera e =>
    have read := takeNums_spell (siteCamera_fit (of_decide_eq_true range)) rest
    rw [siteCamera_bytes]
    simp only [TableEntry.kind, takeEntry, show siteCameraWidths = (siteCameraFields e).map Prod.fst from rfl, read]
    rfl
  | headClass e =>
    have read := takeNums_spell (headClass_fit (of_decide_eq_true range)) rest
    rw [headClass_bytes]
    simp only [TableEntry.kind, takeEntry, show headClassWidths = (headClassFields e).map Prod.fst from rfl, read]
    rfl
  | profile e =>
    obtain ⟨⟨count, spacings⟩, tolerance, expected, pantoCount, offsets⟩ := profile_fit range
    have code : e.code.toNat < 256 ^ 2 := e.code.isLt
    rw [profile_bytes]
    simp [TableEntry.kind, takeEntry, spell_cons, takeNum_beBytes _ _ _ code, takeNum_beBytes _ _ _ count,
      takeSignature_bytes spacings, takeNum_beBytes _ _ _ tolerance, takeNum_beBytes _ _ _ expected,
      takeNum_beBytes _ _ _ pantoCount, takePantos_bytes offsets, rawOf]
  | blankMap e =>
    obtain ⟨count, runs⟩ : e.InRange := of_decide_eq_true range
    have fill : e.fill.toNat < 256 ^ 1 := e.fill.isLt
    have length : e.runs.length < 256 ^ 1 := by omega
    have read := takeRuns_bytes (fun r mem => by obtain ⟨_, _, _⟩ := runs r mem; omega) rest
    rw [blankMap_bytes]
    simp [TableEntry.kind, takeEntry, spell_cons, takeNum_beBytes _ _ _ fill, takeNum_beBytes _ _ _ length, read, rawOf]

/-! ### The whole list of a staging command (R14, R202) -/

/-- A staged entry as a staging command spells it. -/
def spelledOf (x : Nat × Option TableEntry) : Spelled where
  index := x.1
  fields := x.2.map rawOf
  bytes := BitVec.ofNat 8 x.1 :: formBytes x.2

theorem spelledOf_sound {t : TableId} {x : Nat × Option TableEntry} (h : Stageable t x)
    (range : ∀ e, x.2 = some e → e.inRange x.1 = true) : (spelledOf x).Sound t := by
  obtain ⟨index, content⟩ := x
  obtain ⟨inside, kind⟩ := h
  have small : tableSize t ≤ 32 := by cases t <;> decide
  refine ⟨BitVec.ofNat 8 index, byte_toNat (inside.trans_le (small.trans (by decide))), ?_⟩
  cases content with
  | none => rfl
  | some e =>
    refine ⟨entryBytes e, rfl, fun rest => ?_⟩
    show takeEntry (entryKind t index) _ = _
    rw [← kind e rfl]
    exact takeEntry_entryBytes (range e rfl) rest

theorem checkEntries_spelledOf {entries : List (Nat × Option TableEntry)}
    (range : ∀ x ∈ entries, ∀ e, x.2 = some e → e.inRange x.1 = true) :
    checkEntries (entries.map fun x => (x.1, x.2.map rawOf)) = .ok entries := by
  induction entries with
  | nil => rfl
  | cons x rest ih =>
    obtain ⟨head, tail⟩ := List.forall_mem_cons.1 range
    obtain ⟨index, content⟩ := x
    cases content with
    | none => simp [checkEntries, ih tail]
    | some e => simp [checkEntries, ih tail, checkEntry_rawOf (head e rfl)]

/-- The entries that an image's entry can hold at an index are those of the index's kind. -/
theorem kind_of_putEntry {t : TableId} {index : Nat} {e : TableEntry}
    (h : ∃ im : Images, (im.putEntry index e).entry t index = some (some e)) : e.kind = entryKind t index :=
  h.elim fun _ => kind_of_entry

theorem stageCheck_encoded {t : TableId} {entries : List (Nat × Option TableEntry)} (count : entries.length ≤ 255)
    (once : (entries.map Prod.fst).Nodup) (stageable : ∀ x ∈ entries, Stageable t x)
    (range : ∀ x ∈ entries, ∀ e, x.2 = some e → e.inRange x.1 = true) :
    stageCheck (BitVec.ofNat 8 (tableCode t) :: BitVec.ofNat 8 entries.length ::
      entries.flatMap (fun x => BitVec.ofNat 8 x.1 :: formBytes x.2)) = .ok (t, entries) := by
  have named : (BitVec.ofNat 8 (tableCode t)).toNat = tableCode t := by cases t <;> rfl
  have length : (BitVec.ofNat 8 entries.length).toNat = entries.length := byte_toNat (by omega)
  have read := readEntries_spelled (t := t) (read := entries.map spelledOf) (seen := [])
    (List.forall_mem_map.2 fun x mem => spelledOf_sound (stageable x mem) (range x mem))
    (List.forall_mem_map.2 fun x mem => (stageable x mem).1) (by simpa [Function.comp_def, spelledOf] using once)
    (fun _ _ => List.not_mem_nil) 0 []
  simp only [List.length_map, List.flatMap_map, List.append_nil, Nat.add_zero, List.map_map, readEntries, Except.map,
    Function.comp_def, spelledOf] at read
  rw [stageCheck_named named, length, read]
  simp only [Except.bind, checkEntries_spelledOf range, Except.map]

end Sys2Proof.Machine

namespace Sys2Proof.Settled

open Sys2Proof.Machine

/-- Settles O50: each entry and the whole list read back, then the layouts and ranges kind by kind. -/
theorem tableEntryRoundTrip : Obligations.TableEntryRoundTrip := by
  refine ⟨fun t index e rest inside range fits => ?_, fun t entries count once inside entriesFit => ?_,
    fun im => ⟨entry_siteTrack im, entry_siteCamera im, entry_consist im, entry_headClass im, entry_blankMap im,
      fun t index => (entry_eq_none_iff im t index).2⟩,
    ⟨rfl, fun e => rfl⟩, fun e bytes => siteTrack_layout e, fun e bytes hb => ?_, fun e bytes n => profile_layout e,
    fun e bytes => headClass_layout e, fun e bytes => blankMap_layout e, fun index => ⟨fun e => ?_, fun e => ?_,
      profile_inRange_iff index, fun e => ?_, fun e => ?_⟩⟩
  · rw [← kind_of_putEntry fits]
    exact ⟨rawOf e, takeEntry_entryBytes range rest, checkEntry_rawOf range⟩
  · refine stageCheck_encoded count once (fun x mem => ⟨inside x mem, fun e held => ?_⟩) fun x mem e held => ?_
    · exact kind_of_putEntry (entriesFit x mem e held).2
    · exact (entriesFit x mem e held).1
  · exact siteCamera_layout e hb
  · simp only [TableEntry.inRange, decide_eq_true_eq, and_assoc]
  · simp only [TableEntry.inRange, decide_eq_true_eq, and_assoc]
  · simp only [TableEntry.inRange, decide_eq_true_eq, and_assoc]
  · simp only [TableEntry.inRange, decide_eq_true_eq]

end Sys2Proof.Settled
end

section
/-! SUPPORT. The records the part sends (R199, R202 to R204): the uplink frame, the codes, and each body's layout. -/

namespace Sys2Proof.Machine

/-! ### The uplink frame (R202) -/

/-- The fields in front of a record's body. -/
def frameFields (partner : Mac) (kind : Nat) (number : Half) (length : Nat) : List (Nat × Nat) :=
  [(6, partner.toNat), (6, ownAddress.toNat), (2, protocolType), (1, kind), (2, number.toNat), (2, length)]

/-- What a frame's check covers: the fields, the body, and the padding up to 46 bytes of payload. -/
def coveredBytes (partner : Mac) (kind : Nat) (number : Half) (body : List Byte) : List Byte :=
  spell (frameFields partner kind number body.length) ++ (body ++ List.replicate (41 - body.length) 0)

theorem uplinkFrame_eq (partner : Mac) (kind : Nat) (number : Half) (body : List Byte) :
    uplinkFrame partner kind number body
      = coveredBytes partner kind number body ++ frameCheck (coveredBytes partner kind number body) := by
  have covered : (beBytes 6 partner.toNat ++ beBytes 6 ownAddress.toNat ++ beBytes 2 protocolType)
      ++ padPayload (beBytes 1 kind ++ beBytes 2 number.toNat ++ beBytes 2 body.length ++ body)
      = coveredBytes partner kind number body := by
    have padding : 46 - (1 + 2 + 2 + body.length) = 41 - body.length := by omega
    simp [padPayload, coveredBytes, frameFields, spell, padding, ← Nat.add_assoc]
  simp only [uplinkFrame, covered]

theorem frameCheck_length (bytes : List Byte) : (frameCheck bytes).length = 4 := by
  simp [frameCheck]

theorem coveredBytes_length (partner : Mac) (kind : Nat) (number : Half) (body : List Byte) :
    (coveredBytes partner kind number body).length = max 60 (19 + body.length) := by
  simp [coveredBytes, frameFields]
  omega

theorem coveredBytes_append (partner : Mac) (kind : Nat) (number : Half) (body tail : List Byte) :
    coveredBytes partner kind number body ++ tail = spell (frameFields partner kind number body.length)
      ++ (body ++ (List.replicate (41 - body.length) 0 ++ tail)) := by
  simp only [coveredBytes, List.append_assoc]

theorem uplinkFrame_layout (partner : Mac) {kind : Nat} (number : Half) {body frame : List Byte} (hk : kind < 256)
    (hb : body.length < 65536) (h : frame = uplinkFrame partner kind number body) :
    frame.length = max 64 (23 + body.length)
      ∧ beNat (frame.take 6) = partner.toNat ∧ (frame.drop 6).take 6 = [0x02#8, 0, 0, 0, 0x04#8, 0x18#8]
      ∧ (frame.drop 12).take 2 = [0x88#8, 0xB6#8] ∧ beNat ((frame.drop 14).take 1) = kind
      ∧ beNat ((frame.drop 15).take 2) = number.toNat ∧ beNat ((frame.drop 17).take 2) = body.length
      ∧ (frame.drop 19).take body.length = body
      ∧ frame.drop (frame.length - 4) = frameCheck (frame.take (frame.length - 4)) := by
  rw [uplinkFrame_eq] at h
  have length : frame.length = max 64 (23 + body.length) := by
    rw [h, List.length_append, coveredBytes_length, frameCheck_length]
    omega
  have whole : frame.length - 4 = (coveredBytes partner kind number body).length := by
    rw [length, coveredBytes_length]
    omega
  have head := BytesFrom.start (h.trans (coveredBytes_append ..))
  have fields := head.holds
  simp only [HoldsFields, frameFields, placed, List.forall_mem_cons] at fields
  obtain ⟨destination, -, -, kindAt, numberAt, lengthAt, -⟩ := fields
  obtain ⟨source, type⟩ := head.firstField.2.firstField
  refine ⟨length, ?_, source, type.firstField.1, ?_, ?_, ?_, (head.past (spell_length _)).slice rfl, ?_⟩
  · exact destination.trans (Nat.mod_eq_of_lt partner.isLt)
  · exact kindAt.trans (Nat.mod_eq_of_lt hk)
  · exact numberAt.trans (Nat.mod_eq_of_lt number.isLt)
  · exact lengthAt.trans (Nat.mod_eq_of_lt hb)
  · rw [whole, h, List.drop_left, List.take_left]

/-! ### Codes and sets (R199) -/

theorem condBit_ne_zero (c : Cond) : condBit c ≠ 0 := by
  cases c <;> decide

theorem condHas_iff (set : Half) (c : Cond) : condHas set c = true ↔ set &&& condBit c ≠ 0 := by
  have nonzero := condBit_ne_zero c
  unfold condHas
  unfold condBit at *
  rw [BitVec.and_twoPow]
  split <;> simp_all

/-! ### REPLY and STATUS (R203) -/

theorem reply_layout (r : Reply) : HoldsFields (replyBody r)
      [(0, 2, r.tag.toNat), (2, 1, r.code.toNat), (3, 1, statusCode r.status), (4, 1, r.index.getD 255)]
    ∧ (replyBody r).drop 5 = r.body := by
  have head : BytesFrom (replyBody r) 0 (spell [(2, r.tag.toNat), (1, r.code.toNat), (1, statusCode r.status),
      (1, r.index.getD 255)] ++ r.body) := .start (by simp [replyBody, spell])
  exact ⟨head.holds, (head.past (spell_length _)).drop⟩

/-- The fields of a track in STATUS behind its state. -/
def trackFields : Option Passage → List (Nat × Nat)
  | none => List.replicate 13 (1, 0)
  | some p =>
    [(2, p.number.toNat), (1, directionCode p.direction), (2, p.inCount), (2, p.outCount), (1, matchCode p.matching),
      (4, p.pace), (1, p.stale.toNat)]

theorem trackReport_eq (s : State) (t : Track) :
    trackReport s t = spell ((1, trackStateCode (s.track t).state) :: trackFields (s.passage? t)) := by
  unfold trackReport
  rw [spell_cons]
  split
  · next none => rw [none]; rfl
  · next p active => simp [active, trackFields, spell, yesNo_eq_toNat]

/-- The fields of STATUS between its tracks and its counters. -/
def statusFields (s : State) : List (Nat × Nat) :=
  [(1, s.tables.loaded[0].toNat), (2, s.tables.generation[0].toNat), (1, s.tables.loaded[1].toNat),
    (2, s.tables.generation[1].toNat), (1, s.tables.loaded[2].toNat), (2, s.tables.generation[2].toNat),
    (1, s.tables.loaded[3].toNat), (2, s.tables.generation[3].toNat), (1, s.tables.latch.toNat),
    (1, s.uplink.drain.toNat),
    (1, s.uplink.up.toNat + 2 * s.ports[0].up.toNat + 4 * s.ports[1].up.toNat + 8 * s.ports[2].up.toNat
      + 16 * s.ports[3].up.toNat),
    (2, s.freeList.length), (1, s.delivery.length), (1, s.uplink.alerts.length), (1, s.uplink.summaries.length),
    (1, s.uplink.notes.length), (2, s.uplink.cumulative.toNat)]

/-- A counter of a block, and the four of a port, as STATUS holds them. -/
def counterBytes (c : Half) : List Byte := spell [(2, c.toNat)]

def portBytes (p : Port) : List Byte :=
  spell [(2, p.strayRows.toNat), (2, p.failedFrames.toNat), (2, p.missingRows.toNat), (2, p.noteDrops.toNat)]

theorem counterBytes_length (c : Half) : (counterBytes c).length = 2 := rfl

theorem portBytes_length (p : Port) : (portBytes p).length = 8 := rfl

/-- The counters of the uplink, which close STATUS. -/
def uplinkFields (u : Uplink) : List (Nat × Nat) :=
  [(2, u.alertsLost.toNat), (2, u.summariesLost.toNat), (2, u.commandsLost.toNat), (2, u.foreignFrames.toNat),
    (2, u.receiveErrors.toNat), (2, u.recordsCut.toNat)]

theorem statusReport_eq (s : State) : statusReport s = spell [(4, s.time.toNat)] ++ (trackReport s .t1
    ++ (trackReport s .t2 ++ (spell (statusFields s) ++ (s.glitches.toList.flatMap counterBytes
    ++ (s.unpaired.toList.flatMap counterBytes ++ ((s.tracks.toList.map TrackRec.stray).flatMap counterBytes
    ++ (s.ports.toList.flatMap portBytes ++ (spell (uplinkFields s.uplink) ++ [])))))))) := by
  have counter : counterBytes = fun c => beBytes 2 c.toNat := funext fun c => List.append_nil _
  have port : portBytes = fun p => (portCounters p).flatMap fun c => beBytes 2 c.toNat :=
    funext fun p => by simp [portBytes, portCounters, spell]
  have report (t) : tableReport s.tables t
      = beBytes 1 s.tables.loaded[tableIndex t].toNat ++ beBytes 2 s.tables.generation[tableIndex t].toNat := by
    simp only [tableReport, yesNo_eq_toNat]
  simp only [statusReport, report, linkReport, yesNo_eq_toNat, allCounters, List.flatMap_append, List.append_assoc,
    statusFields, uplinkFields, spell, List.flatMap_cons, List.flatMap_nil, counter, port, List.flatMap_assoc]
  rfl

/-- A track of STATUS: its state, and 00h or the fields of its passage behind it. -/
theorem trackReport_layout {s : State} {t : Track} {body rest : List Byte} {offset : Nat}
    (h : BytesFrom body offset (trackReport s t ++ rest)) :
    fieldAt body offset 1 = trackStateCode (s.track t).state
      ∧ (s.passage? t = none → (body.drop (offset + 1)).take 13 = List.replicate 13 0x00#8)
      ∧ ∀ p, s.passage? t = some p → HoldsFields body
          [(offset + 1, 2, p.number.toNat), (offset + 3, 1, directionCode p.direction), (offset + 4, 2, p.inCount),
           (offset + 6, 2, p.outCount), (offset + 8, 1, matchCode p.matching), (offset + 9, 4, p.pace),
           (offset + 13, 1, p.stale.toNat)] := by
  rw [trackReport_eq] at h
  have small : trackStateCode (s.track t).state < 256 ^ 1 := by cases (s.track t).state <;> simp [trackStateCode]
  have behind := h.firstField.2
  refine ⟨?_, fun idle => ?_, fun p active => ?_⟩
  · exact (h.holds _ List.mem_cons_self).trans (Nat.mod_eq_of_lt small)
  · rw [idle] at behind
    exact behind.slice rfl
  · rw [active] at behind
    exact behind.holds

/-- One counter of 16 bits. -/
theorem BytesFrom.counter {body rest : List Byte} {offset : Nat} {c : Half}
    (h : BytesFrom body offset (counterBytes c ++ rest)) : fieldAt body offset 2 = c.toNat :=
  (h.holds _ List.mem_cons_self).trans (Nat.mod_eq_of_lt c.isLt)

theorem toList_item {α : Type} {n : Nat} (v : Vector α n) (i : Fin n) : v.toList[i.val]? = some v[i] := by
  simp

/-- A counter of a list of them. -/
theorem BytesFrom.counters {body rest : List Byte} {offset : Nat} {counters : List Half}
    (h : BytesFrom body offset (counters.flatMap counterBytes ++ rest)) {i : Nat} {c : Half}
    (hc : counters[i]? = some c) : fieldAt body (offset + 2 * i) 2 = c.toNat := by
  obtain ⟨behind, item⟩ := h.item (fun c _ => counterBytes_length c) hc
  exact item.counter

theorem status_layout {s : State} {body : List Byte} (hb : body = statusReport s) :
    body.length = 127
      ∧ HoldsFields body
        [(0, 4, s.time.toNat),
         (32, 1, s.tables.loaded[0].toNat), (33, 2, s.tables.generation[0].toNat),
         (35, 1, s.tables.loaded[1].toNat), (36, 2, s.tables.generation[1].toNat),
         (38, 1, s.tables.loaded[2].toNat), (39, 2, s.tables.generation[2].toNat),
         (41, 1, s.tables.loaded[3].toNat), (42, 2, s.tables.generation[3].toNat),
         (44, 1, s.tables.latch.toNat), (45, 1, s.uplink.drain.toNat),
         (46, 1, s.uplink.up.toNat + 2 * s.ports[0].up.toNat + 4 * s.ports[1].up.toNat + 8 * s.ports[2].up.toNat
           + 16 * s.ports[3].up.toNat),
         (47, 2, s.freeList.length), (49, 1, s.delivery.length), (50, 1, s.uplink.alerts.length),
         (51, 1, s.uplink.summaries.length), (52, 1, s.uplink.notes.length), (53, 2, s.uplink.cumulative.toNat),
         (115, 2, s.uplink.alertsLost.toNat), (117, 2, s.uplink.summariesLost.toNat),
         (119, 2, s.uplink.commandsLost.toNat), (121, 2, s.uplink.foreignFrames.toNat),
         (123, 2, s.uplink.receiveErrors.toNat), (125, 2, s.uplink.recordsCut.toNat)]
      ∧ (∀ (t : Track) (offset : Nat), (t, offset) ∈ [(Track.t1, 4), (.t2, 18)] →
          fieldAt body offset 1 = trackStateCode (s.track t).state
          ∧ (s.passage? t = none → (body.drop (offset + 1)).take 13 = List.replicate 13 0x00#8)
          ∧ ∀ p, s.passage? t = some p → HoldsFields body
              [(offset + 1, 2, p.number.toNat), (offset + 3, 1, directionCode p.direction),
               (offset + 4, 2, p.inCount), (offset + 6, 2, p.outCount), (offset + 8, 1, matchCode p.matching),
               (offset + 9, 4, p.pace), (offset + 13, 1, p.stale.toNat)])
      ∧ (∀ l : Fin 8, fieldAt body (55 + 2 * l.val) 2 = s.glitches[l].toNat)
      ∧ (∀ i : Fin 4, fieldAt body (71 + 2 * i.val) 2 = s.unpaired[i].toNat)
      ∧ (∀ i : Fin 2, fieldAt body (79 + 2 * i.val) 2 = s.tracks[i].stray.toNat)
      ∧ (∀ cam : Fin 4, HoldsFields body
          [(83 + 8 * cam.val, 2, s.ports[cam].strayRows.toNat), (85 + 8 * cam.val, 2, s.ports[cam].failedFrames.toNat),
           (87 + 8 * cam.val, 2, s.ports[cam].missingRows.toNat),
           (89 + 8 * cam.val, 2, s.ports[cam].noteDrops.toNat)]) := by
  have time := BytesFrom.start (hb.trans (statusReport_eq s))
  have track1 : BytesFrom body 4 (trackReport s .t1 ++ _) := time.past (n := 4) rfl
  have track2 : BytesFrom body 18 (trackReport s .t2 ++ _) := track1.past (n := 14) (trackReport_length s .t1)
  have fields : BytesFrom body 32 (spell _ ++ _) := track2.past (n := 14) (trackReport_length s .t2)
  have glitches : BytesFrom body 55 (s.glitches.toList.flatMap counterBytes ++ _) := fields.past (n := 23) rfl
  have counters {n} (v : Vector Half n) : (v.toList.flatMap counterBytes).length = 2 * n := by
    rw [flatMap_length fun c _ => counterBytes_length c, Vector.length_toList]
  have unpaired : BytesFrom body 71 (s.unpaired.toList.flatMap counterBytes ++ _) :=
    glitches.past (n := 16) (counters _)
  have strays : BytesFrom body 79 ((s.tracks.toList.map TrackRec.stray).flatMap counterBytes ++ _) :=
    unpaired.past (n := 8) (counters _)
  have ports : BytesFrom body 83 (s.ports.toList.flatMap portBytes ++ _) :=
    strays.past (n := 4) ((flatMap_length fun c _ => counterBytes_length c).trans (by simp))
  have uplink : BytesFrom body 115 (spell (uplinkFields s.uplink) ++ _) :=
    ports.past (n := 32) ((flatMap_length fun p _ => portBytes_length p).trans (by simp))
  refine ⟨hb ▸ statusReport_length s, time.holds.append (fields.holds.append uplink.holds), ?_,
    fun l => glitches.counters (toList_item ..), fun i => unpaired.counters (toList_item ..),
    fun i => strays.counters (by rw [List.getElem?_map, toList_item]; rfl), fun cam => ?_⟩
  · intro t offset named
    simp only [List.mem_cons, Prod.mk.injEq, List.not_mem_nil, or_false] at named
    rcases named with ⟨rfl, rfl⟩ | ⟨rfl, rfl⟩
    · exact trackReport_layout track1
    · exact trackReport_layout track2
  · obtain ⟨behind, port⟩ := ports.item (fun p _ => portBytes_length p) (toList_item s.ports cam)
    exact port.layout (by grind [placed])

/-! ### ALERT, PASSAGE-SUMMARY, CAMERA-NOTE (R203) -/

/-- The fields of a result, by width and value. -/
def resultRun : Option WearResult → List (Nat × Nat)
  | none => [(1, 0), (2, 0), (1, 0), (2, 0), (2, 0), (1, 0)]
  | some r => [(1, 1), (2, r.minimum), (1, r.cell), (2, r.mean), (2, r.wear), (1, r.steps)]

theorem resultBytes_eq (r : Option WearResult) : resultBytes r = spell (resultRun r) := by
  cases r with
  | none => rfl
  | some r => simp [resultBytes, resultRun, spell]

theorem resultFields_eq (offset : Nat) (r : Option WearResult) :
    resultFields offset r = placed offset (resultRun r) := by
  cases r <;> rfl

theorem alert_layout (a : Alert) : (alertBody a).length = 29 ∧ HoldsFields (alertBody a)
    ([(0, 1, a.capture.toNat), (1, 1, a.camera.val), (2, 1, trackNumber a.track), (3, 2, a.passage.toNat),
      (5, 1, a.panto), (6, 1, a.profile.val), (7, 2, a.code.toNat), (9, 1, a.headClass.val),
      (10, 2, a.headGen.toNat), (12, 2, a.conditions.toNat), (14, 2, a.alerted.toNat), (16, 4, a.doneTime.toNat)]
      ++ resultFields 20 a.result) := by
  have head : BytesFrom (alertBody a) 0 (spell [(1, a.capture.toNat), (1, a.camera.val), (1, trackNumber a.track),
      (2, a.passage.toNat), (1, a.panto), (1, a.profile.val), (2, a.code.toNat), (1, a.headClass.val),
      (2, a.headGen.toNat), (2, a.conditions.toNat), (2, a.alerted.toNat), (4, a.doneTime.toNat)]
      ++ (spell (resultRun a.result) ++ [])) := .start (by simp [alertBody, resultBytes_eq, spell])
  have result : BytesFrom (alertBody a) 20 (spell (resultRun a.result) ++ _) := head.past (spell_length _)
  refine ⟨?_, head.holds.append (result.layout (resultFields_eq ..))⟩
  rw [result.length]
  cases a.result <;> rfl

theorem note_layout (n : Note) : (noteBody n).length = 6 + n.bytes.length
    ∧ HoldsFields (noteBody n) [(0, 1, n.camera.val), (1, 4, n.time.toNat), (5, 1, n.bytes.length)]
    ∧ (noteBody n).drop 6 = n.bytes := by
  have head : BytesFrom (noteBody n) 0 (spell [(1, n.camera.val), (4, n.time.toNat), (1, n.bytes.length)] ++ n.bytes) :=
    .start (by simp [noteBody, spell])
  have bytes : BytesFrom (noteBody n) 6 n.bytes := head.past (spell_length _)
  exact ⟨bytes.length, head.holds, bytes.drop⟩

/-- The fields of a summary in front of its plan. -/
def summaryFields (x : Summary) : List (Nat × Nat) :=
  [(2, x.number.toNat), (1, trackNumber x.track), (1, directionCode x.direction), (4, x.start.toNat),
    (4, x.finish.toNat), (2, x.inCount), (2, x.outCount), (1, matchCode x.matching), (1, x.profile.isSome.toNat),
    (1, match x.profile with | none => 0 | some (i, _) => i.val),
    (2, match x.profile with | none => 0 | some (_, code) => code.toNat), (2, x.consistGen.toNat),
    (1, endCode x.reason),
    (1, x.reversed.toNat + 2 * x.unpairedSeen.toNat + 4 * x.paceClamp.toNat + 8 * x.axleOverflow.toNat
      + 16 * x.axleMismatch.toNat), (1, x.plan.length)]

/-- The code and the capture id byte of a window outcome. -/
def outcomeRun : PlanOutcome → List (Nat × Nat)
  | .opened id => [(1, 0), (1, id.toNat)]
  | .dropped .missed => [(1, 1), (1, 0)]
  | .dropped .noSlot => [(1, 2), (1, 0)]
  | .dropped .reversal => [(1, 3), (1, 0)]
  | .dropped .ended => [(1, 4), (1, 0)]
  | .pending => [(1, 4), (1, 0)]

/-- The fields of an axle list entry. -/
def axleRun (a : Axle) : List (Nat × Nat) :=
  [(4, a.time.toNat), (4, a.pace.getD 0), (4, a.spacing.getD 0),
    (1, a.unpaired.toNat + 2 * a.clamped.toNat + 4 * a.pace.isSome.toNat + 8 * a.spacing.isSome.toNat)]

theorem outcomeBytes_eq (o : PlanOutcome) : outcomeBytes o = spell (outcomeRun o) := by
  cases o with
  | pending => rfl
  | opened id => rfl
  | dropped reason => cases reason <;> rfl

theorem planBytes_eq (e : PlanEntry) :
    planBytes e = spell [(1, e.camera.val), (1, e.panto)] ++ spell (outcomeRun e.outcome) := by
  simp [planBytes, spell_cons, outcomeBytes_eq]

theorem axleBytes_eq (a : Axle) : axleBytes a = spell (axleRun a) := by
  simp [axleBytes, axleRun, spell, yesNo_eq_toNat]

theorem planBytes_length (e : PlanEntry) : (planBytes e).length = 4 := by
  rw [planBytes_eq, List.length_append]
  unfold outcomeRun
  split <;> rfl

theorem axleBytes_length (a : Axle) : (axleBytes a).length = 13 := by
  rw [axleBytes_eq]
  rfl

theorem summaryBody_eq (x : Summary) : summaryBody x = spell (summaryFields x) ++ (x.plan.flatMap planBytes
    ++ (spell [(1, x.axles.length)] ++ (x.axles.flatMap axleBytes ++ []))) := by
  cases h : x.profile with
  | none => simp [summaryBody, summaryFields, summaryFlags, profileBytes, spell, yesNo_eq_toNat, h]; rfl
  | some p => simp [summaryBody, summaryFields, summaryFlags, profileBytes, spell, yesNo_eq_toNat, h]

/-- One window outcome of a summary. -/
theorem plan_layout {e : PlanEntry} {body rest : List Byte} {offset : Nat}
    (h : BytesFrom body offset (planBytes e ++ rest)) :
    HoldsFields body [(offset, 1, e.camera.val), (offset + 1, 1, e.panto)]
      ∧ (∀ id, e.outcome = .opened id → HoldsFields body [(offset + 2, 1, 0), (offset + 3, 1, id.toNat)])
      ∧ ∀ reason n, (reason, n) ∈ [(DropReason.missed, 1), (.noSlot, 2), (.reversal, 3), (.ended, 4)] →
          e.outcome = .dropped reason → HoldsFields body [(offset + 2, 1, n), (offset + 3, 1, 0)] := by
  rw [planBytes_eq, List.append_assoc] at h
  have outcome : BytesFrom body (offset + 2) (spell (outcomeRun e.outcome) ++ rest) := h.past rfl
  refine ⟨h.holds, fun id opened => ?_, fun reason n named dropped => ?_⟩
  · rw [opened] at outcome
    exact outcome.holds
  · rw [dropped] at outcome
    simp only [List.mem_cons, Prod.mk.injEq, List.not_mem_nil, or_false] at named
    rcases named with ⟨rfl, rfl⟩ | ⟨rfl, rfl⟩ | ⟨rfl, rfl⟩ | ⟨rfl, rfl⟩ <;> exact outcome.holds

theorem summary_layout {x : Summary} {body : List Byte} (hb : body = summaryBody x) :
    body.length = 27 + 4 * x.plan.length + 13 * x.axles.length
      ∧ HoldsFields body (placed 0 (summaryFields x) ++ [(26 + 4 * x.plan.length, 1, x.axles.length)])
      ∧ (∀ (i : Nat) (e : PlanEntry), x.plan[i]? = some e →
          ∃ rest, BytesFrom body (26 + 4 * i) (planBytes e ++ rest))
      ∧ ∀ (i : Nat) (a : Axle), x.axles[i]? = some a →
          HoldsFields body (placed (27 + 4 * x.plan.length + 13 * i) (axleRun a)) := by
  have head := BytesFrom.start (hb.trans (summaryBody_eq x))
  have plan : BytesFrom body 26 (x.plan.flatMap planBytes ++ _) := head.past (n := 26) (spell_length _)
  have count : BytesFrom body (26 + 4 * x.plan.length) (spell _ ++ _) :=
    plan.past (flatMap_length fun e _ => planBytes_length e)
  have axles : BytesFrom body (26 + 4 * x.plan.length + 1) (x.axles.flatMap axleBytes ++ []) := count.past rfl
  refine ⟨?_, head.holds.append count.holds, fun i e he => plan.item (fun e _ => planBytes_length e) he,
    fun i a ha => ?_⟩
  · rw [axles.length, List.append_nil, flatMap_length fun a _ => axleBytes_length a]
    omega
  · obtain ⟨behind, axle⟩ := axles.item (fun a _ => axleBytes_length a) ha
    rw [axleBytes_eq] at axle
    exact axle.layout (by grind [placed])

/-! ### The capture records (R204) -/

/-- The fields of a header in front of its done time. -/
def headerFields (k : Fin 32) (c : Capture) : List (Nat × Nat) :=
  [(1, c.id.toNat), (1, k.val), (1, c.camera.val), (1, trackNumber c.track), (2, c.passage.toNat), (1, c.panto),
    (1, c.headClass.val), (1, c.profile.val), (2, c.code.toNat), (2, c.consistGen.toNat), (2, c.headGen.toNat),
    (2, c.blankGen.toNat), (4, c.openPoint), (4, c.closePoint), (2, c.firstSequence.toNat), (2, c.tagged),
    (2, c.received), (2, c.stored), (2, c.repaired), (2, c.omitted), (1, closeCode c.close), (2, c.conditions.toNat),
    (4, c.openTime.toNat)]

/-- The fields of a header between its done time and its head class. -/
def cameraRun (c : Capture) : List (Nat × Nat) :=
  [(1, roleCode c.role), (2, c.slope), (1, c.kept.toNat), (2, c.rowLimit), (1, c.repairLimit)]

theorem headerBody_eq (k : Fin 32) (c : Capture) : headerBody k c = spell (headerFields k c)
    ++ (spell [(4, (c.doneTime.map BitVec.toNat).getD 0)] ++ (spell (cameraRun c)
    ++ (spell (headClassFields c.head ++ [(2, blockCount c.stored), (1, c.blank.fill.toNat), (1, c.blank.runs.length)])
    ++ (c.blank.runs.flatMap runBytes ++ [])))) := by
  unfold headerBody
  simp [headClass_bytes, blankMap_bytes, headerFields, cameraRun, spell]

theorem headerFields_length (k : Fin 32) (c : Capture) : (spell (headerFields k c)).length = 44 := by
  simp [headerFields]

theorem header_layout {k : Fin 32} {c : Capture} {body : List Byte} (hb : body = headerBody k c) :
    body.length = 77 + 3 * c.blank.runs.length
      ∧ HoldsFields body (placed 0 (headerFields k c) ++ placed 48 (cameraRun c))
      ∧ HoldsFields body (placed 55 (headClassFields c.head
          ++ [(2, blockCount c.stored), (1, c.blank.fill.toNat), (1, c.blank.runs.length)]))
      ∧ (∀ done, c.doneTime = some done → fieldAt body 44 4 = done.toNat)
      ∧ (∀ (i : Nat) (r : BlankRun), c.blank.runs[i]? = some r → HoldsFields body
          [(77 + 3 * i, 1, r.firstCell), (78 + 3 * i, 1, r.lastCell), (79 + 3 * i, 1, r.pattern.toNat)]) := by
  have head := BytesFrom.start (hb.trans (headerBody_eq k c))
  have done : BytesFrom body 44 (spell _ ++ _) := head.past (headerFields_length k c)
  have camera : BytesFrom body 48 (spell (cameraRun c) ++ _) := done.past (n := 4) rfl
  have copies : BytesFrom body 55 (spell _ ++ _) := camera.past (n := 7) (by simp [cameraRun])
  have runs : BytesFrom body 77 (c.blank.runs.flatMap runBytes ++ []) :=
    copies.past (n := 22) (by simp [headClassFields])
  refine ⟨?_, head.holds.append camera.holds, copies.holds, fun time held => ?_, fun i r hr => ?_⟩
  · rw [runs.length, List.append_nil, flatMap_length fun r _ => runBytes_length r]
  · rw [held] at done
    exact (done.holds _ List.mem_cons_self).trans (Nat.mod_eq_of_lt time.isLt)
  · obtain ⟨behind, run⟩ := runs.item (fun r _ => runBytes_length r) hr
    exact run.layout (by grind [placed])

/-- The tag of a row in a ROW-BLOCK. -/
def rowTag (r : StoredRow) : List Byte := spell [(2, r.sequence.toNat), (1, r.repaired.toNat)]

theorem rowTag_length (r : StoredRow) : (rowTag r).length = 3 := rfl

theorem blockBody_eq (c : Capture) (b : Nat) (rows : List StoredRow) :
    blockBody c b rows = spell [(1, c.id.toNat), (2, b), (1, blockRows c.stored b)] ++ (rows.flatMap rowTag
      ++ (rows.flatMap StoredRow.pixels ++ [])) := by
  have tag : rowTag = fun r => beBytes 2 r.sequence.toNat ++ beBytes 1 (yesNo r.repaired) :=
    funext fun r => by simp [rowTag, spell, yesNo_eq_toNat]
  simp [blockBody, spell, tag]

theorem block_layout {c : Capture} {b : Nat} {rows : List StoredRow} {body : List Byte}
    (whole : ∀ r ∈ rows, r.pixels.length = 2048) (hb : body = blockBody c b rows) :
    body.length = 4 + 2051 * rows.length
      ∧ HoldsFields body [(0, 1, c.id.toNat), (1, 2, b), (3, 1, blockRows c.stored b)]
      ∧ ∀ (i : Nat) (r : StoredRow), rows[i]? = some r →
          HoldsFields body [(4 + 3 * i, 2, r.sequence.toNat), (6 + 3 * i, 1, r.repaired.toNat)]
          ∧ (body.drop (4 + 3 * rows.length + 2048 * i)).take 2048 = r.pixels := by
  have head := BytesFrom.start (hb.trans (blockBody_eq c b rows))
  have tags : BytesFrom body 4 (rows.flatMap rowTag ++ _) := head.past (n := 4) rfl
  have pixels : BytesFrom body (4 + 3 * rows.length) (rows.flatMap StoredRow.pixels ++ []) :=
    tags.past (flatMap_length fun r _ => rowTag_length r)
  refine ⟨?_, head.holds, fun i r hr => ⟨?_, ?_⟩⟩
  · rw [pixels.length, List.append_nil, flatMap_length whole]
    omega
  · obtain ⟨behind, tag⟩ := tags.item (fun r _ => rowTag_length r) hr
    exact tag.layout (by grind [placed])
  · obtain ⟨behind, row⟩ := pixels.item whole hr
    exact row.slice (whole r (List.mem_of_getElem? hr))

/-- A cell item and its value. -/
def cellRun : Cell → List (Nat × Nat)
  | .present v => [(1, 0), (2, v)]
  | .blanked => [(1, 1), (2, 0)]
  | .sparse => [(1, 2), (2, 0)]
  | .saturated => [(1, 3), (2, 65535)]

theorem cellBytes_eq (x : Cell) : cellBytes x = spell (cellRun x) := by
  cases x <;> simp [cellBytes, cellRun, spell]

theorem cellBytes_length (x : Cell) : (cellBytes x).length = 3 := by
  cases x <;> rfl

/-- The count and the first cell of a cell list: 00h when there is none. -/
def cellHead (c : Capture) : List (Nat × Nat) :=
  match c.cells with
  | none => [(2, 0), (1, 0)]
  | some cells => [(2, cells.length), (1, c.head.firstCell)]

theorem endBody_eq (c : Capture) (sent : Nat) : endBody c sent = spell [(1, c.id.toNat), (2, sent)]
    ++ (spell (resultRun c.result) ++ (spell (cellHead c) ++ ((c.cells.getD []).flatMap cellBytes ++ []))) := by
  cases h : c.cells <;> simp [endBody, cellListBytes, cellHead, resultBytes_eq, spell, h]

theorem end_layout {c : Capture} {sent : Nat} {body : List Byte} (hb : body = endBody c sent) :
    body.length = 15 + 3 * (c.cells.getD []).length
      ∧ HoldsFields body ([(0, 1, c.id.toNat), (1, 2, sent)] ++ resultFields 3 c.result)
      ∧ HoldsFields body (placed 12 (cellHead c))
      ∧ ∀ (i : Nat) (x : Cell), (c.cells.getD [])[i]? = some x →
          HoldsFields body (placed (15 + 3 * i) (cellRun x)) := by
  have head := BytesFrom.start (hb.trans (endBody_eq c sent))
  have result : BytesFrom body 3 (spell (resultRun c.result) ++ _) := head.past (n := 3) rfl
  have list : BytesFrom body 12 (spell (cellHead c) ++ _) := result.past (n := 9) (by cases c.result <;> rfl)
  have cells : BytesFrom body 15 ((c.cells.getD []).flatMap cellBytes ++ []) :=
    list.past (n := 3) (by unfold cellHead; split <;> rfl)
  refine ⟨?_, head.holds.append (result.layout (resultFields_eq ..)), list.holds, fun i x hx => ?_⟩
  · rw [cells.length, List.append_nil, flatMap_length fun x _ => cellBytes_length x]
  · obtain ⟨behind, item⟩ := cells.item (fun x _ => cellBytes_length x) hx
    rw [cellBytes_eq] at item
    exact item.holds

end Sys2Proof.Machine

namespace Sys2Proof.Settled

open Sys2Proof.Machine

/-- Settles O52, record by record. -/
theorem recordLayouts : Obligations.RecordLayouts := by
  refine ⟨fun partner kind number body hk hb frame => uplinkFrame_layout partner number hk hb,
    ⟨rfl, rfl, rfl, rfl, rfl, rfl, rfl, rfl, rfl, rfl, rfl, rfl, tableOf_eq_some_iff, by decide,
      fun set c => ⟨rfl, condHas_iff set c, rfl, rfl⟩⟩,
    ⟨fun n v => ⟨beBytes_length n v, beNat_beBytes n v⟩, rfl, beNat_cons⟩, reply_layout, fun s body hb => ?_,
    alert_layout, fun x body hb => ?_, note_layout, fun k c body hb => header_layout hb,
    fun c b rows body whole hb => block_layout whole hb, fun c sent body hb => ?_⟩
  · exact status_layout hb
  · obtain ⟨length, fields, plans, axles⟩ := summary_layout hb
    refine ⟨length, fields, fun i e he => ?_, fun i offset a ha ho => ho ▸ axles i a ha⟩
    obtain ⟨rest, entry⟩ := plans i e he
    rw [show 27 + 4 * i = 26 + 4 * i + 1 by omega, show 28 + 4 * i = 26 + 4 * i + 2 by omega,
      show 29 + 4 * i = 26 + 4 * i + 3 by omega]
    exact plan_layout entry
  · obtain ⟨length, fields, head, cells⟩ := end_layout hb
    refine ⟨length, fields, fun absent => ?_, fun list held => ⟨?_, fun i x hx => ?_⟩⟩
    · rwa [cellHead, absent] at head
    · rwa [cellHead, held] at head
    · rw [held] at cells
      have item := cells i x hx
      grind [placed, cellRun]

end Sys2Proof.Settled
end

section
/-! SUPPORT. Paces and periods (R31, R50, R67): quotients rounded to nearest, clamps, and the pace history with its
mean. -/

namespace Sys2Proof.Machine

/-! ### Quotients rounded to nearest (R31, R67) -/

/-- The axle pace before the clamp is the quotient rounded to nearest, halves going up (R31). -/
theorem rawPace_nearest (us : Nat) {d : Nat} (pos : 0 < d) :
    2 * d * rawPace us d ≤ 2 * (us * 1000) + d ∧ 2 * (us * 1000) < 2 * d * rawPace us d + d := by
  have whole := Nat.div_add_mod (us * 1000 + d / 2) d
  have rest := Nat.mod_lt (us * 1000 + d / 2) pos
  rw [show 2 * d * rawPace us d = 2 * (d * ((us * 1000 + d / 2) / d)) by unfold rawPace; ring]
  omega

/-- Within a pair timeout the axle pace needs no upper clamp (R25, R31). -/
theorem rawPace_le {us d : Nat} (pos : 0 < d) (h : us ≤ d * 1000) : rawPace us d ≤ 1000000 := by
  unfold rawPace
  rw [Nat.div_le_iff_le_mul_add_pred pos]
  omega

/-- The line period before the clamp is the quotient rounded to nearest, halves going up (R67). -/
theorem rawPeriod_nearest (pace pitch : Nat) :
    1000 * rawPeriod pace pitch ≤ pace * pitch + 500 ∧ pace * pitch + 500 < 1000 * rawPeriod pace pitch + 1000 := by
  unfold rawPeriod
  omega

/-! ### Clamps (R31, R67) -/

theorem axlePace_eq (us d : Nat) :
    axlePace us d = (max 8333 (min (rawPace us d) 1000000), decide (rawPace us d < 8333 ∨ 1000000 < rawPace us d)) := by
  unfold axlePace
  dsimp only
  split
  · next low => simp [low]; omega
  · next high =>
    split
    · next above => simp [above]; omega
    · next inside => simp [high, inside]; omega

theorem linePeriod_eq (pace : Nat) {cam : SiteCamera} (h : cam.periodMin ≤ cam.periodMax) :
    linePeriod pace cam
      = (max cam.periodMin (min (rawPeriod pace cam.pitch) cam.periodMax),
        decide (rawPeriod pace cam.pitch < cam.periodMin ∨ cam.periodMax < rawPeriod pace cam.pitch)) := by
  unfold linePeriod
  dsimp only
  split
  · next low => simp [low]; omega
  · next high =>
    split
    · next above => simp [above]; omega
    · next inside => simp [high, inside]; omega

theorem axlePace_inRange (us d : Nat) : PaceInRange (axlePace us d).1 := by
  rw [axlePace_eq]
  exact ⟨le_max_left .., max_le (by decide) (min_le_right ..)⟩

/-! ### The pace history (R50) -/

theorem pushPace_eq (pace : Nat) {paces : List Nat} (h : paces.length ≤ 4) :
    pushPace pace paces = (paces ++ [pace]).drop (paces.length - 3) := by
  rw [List.drop_append_of_le_length (Nat.sub_le ..)]
  unfold pushPace
  split
  · next room => rw [Nat.sub_eq_zero_of_le (by omega : paces.length ≤ 3), List.drop_zero]
  · rfl

theorem pushPace_length_pos (pace : Nat) (paces : List Nat) : 1 ≤ (pushPace pace paces).length := by
  simp [pushPace]

theorem pushPace_length_le (pace : Nat) (paces : List Nat) : (pushPace pace paces).length ≤ 4 := by
  unfold pushPace
  split
  · rw [List.length_append]; exact Nat.succ_le_of_lt ‹_›
  · simp; omega

/-- A pace of the new history is the new one or one of the old history. -/
theorem mem_pushPace {x pace : Nat} {paces : List Nat} (h : x ∈ pushPace pace paces) : x ∈ paces ∨ x = pace := by
  unfold pushPace at h
  rw [List.mem_append, List.mem_singleton] at h
  refine h.imp_left fun old => ?_
  split at old
  · exact old
  · exact List.mem_of_mem_drop old

/-- The mean, rounded down, of some paces in range is in range. -/
theorem mean_inRange {paces : List Nat} (some : 1 ≤ paces.length) (h : ∀ x ∈ paces, PaceInRange x) :
    PaceInRange (paces.sum / paces.length) := by
  have low := List.card_nsmul_le_sum paces 8333 fun x hx => (h x hx).1
  have high := List.sum_le_card_nsmul paces 1000000 fun x hx => (h x hx).2
  rw [smul_eq_mul] at low high
  exact ⟨(Nat.le_div_iff_mul_le some).2 (by rwa [Nat.mul_comm]), Nat.div_le_of_le_mul high⟩

theorem pushPace_inRange {pace : Nat} {paces : List Nat} (old : ∀ x ∈ paces, PaceInRange x) (new : PaceInRange pace) :
    ∀ x ∈ pushPace pace paces, PaceInRange x :=
  fun x hx => (mem_pushPace hx).elim (old x) (· ▸ new)

end Sys2Proof.Machine

namespace Sys2Proof.Settled

open Sys2Proof.Machine

/-- Settles O11: the rounding and the clamp of each quotient, then the pace history and its mean. -/
theorem paceArithmetic : Obligations.PaceArithmetic := by
  refine ⟨⟨fun us d pos => ?_, fun pace cam ordered => ?_⟩, ?_⟩
  · obtain ⟨below, above⟩ := rawPace_nearest us pos
    exact ⟨rawPace us d, below, above, axlePace_eq us d, rawPace_le pos⟩
  · obtain ⟨below, above⟩ := rawPeriod_nearest pace cam.pitch
    exact ⟨rawPeriod pace cam.pitch, below, above, linePeriod_eq pace ordered, rfl, rfl⟩
  · rintro p q now hold pace four rfl
    have pos := pushPace_length_pos pace p.paces
    refine ⟨pushPace_eq pace four, rfl, pos, pushPace_length_le .., Nat.div_mul_le_self .., ?_, rfl, rfl, fun old new =>
      mean_inRange pos (pushPace_inRange old new)⟩
    exact Nat.lt_mul_of_div_lt (Nat.lt_succ_self _) pos

end Sys2Proof.Settled
end

section
/-! SUPPORT. What the commands leave alone of the clock, the detector lines, the passages and the channels: most of them
change none of these (`MotionKeep`) but by the passing of time, the resets and the end of a passage. -/

namespace Sys2Proof.Machine

/-! ### Tracks and passages -/

theorem track_modTrack_same (s : State) (t : Track) (f : TrackRec → TrackRec) :
    (s.modTrack t f).track t = f (s.track t) := upd_get_same ..

theorem track_modTrack_other (s : State) {t k : Track} (ne : k ≠ t) (f : TrackRec → TrackRec) :
    (s.modTrack t f).track k = s.track k := upd_get_other _ _ (trackIndex_injective ne)

/-- The passage of a track is told by the track's state. -/
theorem passage?_congr {s u : State} {k : Track} (h : (u.track k).state = (s.track k).state) :
    u.passage? k = s.passage? k := by
  unfold State.passage?
  rw [h]

theorem passage?_eq_none {s : State} {t : Track} (h : (s.track t).state.isActive = false) : s.passage? t = none := by
  unfold State.passage?
  split
  · next p held => rw [held] at h; cases h
  all_goals rfl

theorem passage?_modTrack_other (s : State) {t k : Track} (ne : k ≠ t) (f : TrackRec → TrackRec) :
    (s.modTrack t f).passage? k = s.passage? k := passage?_congr (by rw [track_modTrack_other s ne])

theorem passage?_setPassage_same (s : State) (t : Track) (p : Passage) : (s.setPassage t p).passage? t = some p :=
  (passage?_eq_some_iff ..).2 (by rw [State.setPassage, track_modTrack_same])

theorem passage?_setPassage_other (s : State) {t k : Track} (ne : k ≠ t) (p : Passage) :
    (s.setPassage t p).passage? k = s.passage? k := passage?_modTrack_other s ne _

/-! ### The frame -/

/-- The clock, the detector lines, the passages and the channels stand as they stood. -/
structure MotionKeep (s t : State) : Prop where
  rstnLow : t.rstnLow = s.rstnLow
  time : t.time = s.time
  subUs : t.subUs = s.subUs
  lines : t.lines = s.lines
  passages : ∀ k, t.passage? k = s.passage? k
  channels : t.channels = s.channels

theorem MotionKeep.refl (s : State) : MotionKeep s s := ⟨rfl, rfl, rfl, rfl, fun _ => rfl, rfl⟩

theorem MotionKeep.trans {s t u : State} (a : MotionKeep s t) (b : MotionKeep t u) : MotionKeep s u where
  rstnLow := b.rstnLow.trans a.rstnLow
  time := b.time.trans a.time
  subUs := b.subUs.trans a.subUs
  lines := b.lines.trans a.lines
  passages k := (b.passages k).trans (a.passages k)
  channels := b.channels.trans a.channels

theorem FrameKeeps.motion {s t : State} (h : FrameKeeps s t) : MotionKeep s t :=
  ⟨h.rstnLow, h.time, h.subUs, h.lines, fun k => passage?_congr (by unfold State.track; rw [h.tracks]), h.channels⟩

theorem RowsKeep.motion {s t : State} (h : RowsKeep s t) : MotionKeep s t := h.frame.motion

theorem CapturesKeep.motion {s t : State} (h : CapturesKeep s t) : MotionKeep s t := h.toRowsKeep.motion

theorem setTables_motion (s : State) (x : Tables) : MotionKeep s { s with tables := x } :=
  ⟨rfl, rfl, rfl, rfl, fun _ => rfl, rfl⟩

theorem setUplink_motion (s : State) (u : Uplink) : MotionKeep s { s with uplink := u } :=
  ⟨rfl, rfl, rfl, rfl, fun _ => rfl, rfl⟩

/-- A change of a track that neither starts, changes nor ends a passage. -/
theorem modTrack_motion {s : State} {t : Track} {f : TrackRec → TrackRec}
    (h : (s.modTrack t f).passage? t = s.passage? t) : MotionKeep s (s.modTrack t f) := by
  refine ⟨rfl, rfl, rfl, rfl, fun k => ?_, rfl⟩
  by_cases same : k = t
  · exact same ▸ h
  · exact passage?_modTrack_other s same f

theorem strayAxle_motion (t : Track) (s : State) : MotionKeep s (strayAxle t s) :=
  modTrack_motion (passage?_congr (by rw [track_modTrack_same]))

/-- A track that is not ACTIVE goes to a state that is not ACTIVE. -/
theorem modTrack_motion_inactive {s : State} {t : Track} {f : TrackRec → TrackRec}
    (before : (s.track t).state.isActive = false) (after : (f (s.track t)).state.isActive = false) :
    MotionKeep s (s.modTrack t f) :=
  modTrack_motion (by rw [passage?_eq_none before, passage?_eq_none (by rwa [track_modTrack_same])])

/-! ### Events of the links and the uplink -/

theorem cameraUp_motion (cam : Fin 4) (heldNs : Nat) (s : State) : MotionKeep s (cameraUp cam heldNs s) := by
  unfold cameraUp
  split
  · exact .refl s
  · exact (modPort_keeps ..).motion

theorem cameraDown_motion (cam : Fin 4) (inReception : Bool) (s : State) :
    MotionKeep s (cameraDown cam inReception s) := by
  unfold cameraDown
  split
  · exact (modPort_keeps ..).motion
  · exact .refl s

theorem uplinkUp_motion (heldNs : Nat) (s : State) : MotionKeep s (uplinkUp heldNs s) := by
  unfold uplinkUp
  split
  · exact .refl s
  · exact setUplink_motion ..

theorem frameArrives_motion (fresh : Bool) (frame : List Byte) (s : State) :
    MotionKeep s (frameArrives fresh frame s) := by
  unfold frameArrives
  split
  · exact setUplink_motion ..
  · exact .refl s

theorem settleNow_motion (t : Track) (s : State) : MotionKeep s (settleNow t s) := by
  unfold settleNow
  split
  · next deadline held =>
    split
    · exact modTrack_motion_inactive (by rw [held]; rfl) rfl
    · exact .refl s
  all_goals exact .refl s

theorem grantCapture_motion (s : State) : MotionKeep s (grantCapture s) := by
  unfold grantCapture
  split
  · exact .refl s
  · split
    · exact ⟨rfl, rfl, rfl, rfl, fun _ => rfl, rfl⟩
    · exact .refl s

theorem grantClass_motion (c : TxClass) (s : State) : MotionKeep s (grantClass c s) := by
  cases c with
  | capture => exact grantCapture_motion s
  | reply | alert | summary | note =>
    unfold grantClass
    dsimp only
    split
    · exact .refl s
    · exact setUplink_motion ..

theorem chosen_motion (s : State) (n : Nat) : MotionKeep s (s.chosen n) := ⟨rfl, rfl, rfl, rfl, fun _ => rfl, rfl⟩

theorem grant_motion (s : State) : MotionKeep s (grant s) := by
  unfold grant
  split
  · unfold grantNext
    split
    · exact .refl s
    · exact (chosen_motion ..).trans (grantClass_motion ..)
  · exact .refl s

theorem releaseHead_motion (k : Fin 32) (s : State) : MotionKeep s (releaseHead k s) := by
  unfold releaseHead
  split
  · exact .refl s
  · split
    · exact .refl s
    · exact ⟨rfl, rfl, rfl, rfl, fun _ => rfl, rfl⟩

theorem freeSlotOf_motion (k : Fin 32) (s : State) : MotionKeep s (freeSlotOf k s) :=
  ⟨rfl, rfl, rfl, rfl, fun _ => rfl, rfl⟩

theorem setSender_motion (s : State) (x : Sender) : MotionKeep s { s with sender := x } :=
  ⟨rfl, rfl, rfl, rfl, fun _ => rfl, rfl⟩

theorem senderEnd_motion (kind : TxKind) (s : State) : MotionKeep s (senderEnd kind s) := by
  unfold senderEnd
  split
  · exact .refl s
  · cases kind with
    | reply | alert | summary | note => exact .refl s
    | header => exact setSender_motion ..
    | block rows =>
      dsimp only
      split
      · exact (setSender_motion ..).trans (releaseHead_motion ..)
      · exact setSender_motion ..
    | captureEnd => exact (freeSlotOf_motion ..).trans (senderTake_keeps _).motion

theorem cutRecord_motion (x : Option Transmission) (s : State) : MotionKeep s (cutRecord x s) := by
  cases x with
  | none => exact .refl s
  | some x => exact senderEnd_motion ..

/-! ### The recorder's commands -/

theorem refuse_motion (status : Status) (s : State) : MotionKeep s (refuse status s).1 := .refl s

theorem ownTableRead_motion (params : List Byte) (s : State) : MotionKeep s (ownTableRead params s).1 := by
  unfold ownTableRead
  split
  · exact .refl s
  · exact refuse_motion ..

theorem ownStage_motion (apply : TableId → List (Nat × Option TableEntry) → Images → Images) (params : List Byte)
    (s : State) : MotionKeep s (ownStage apply params s).1 := by
  unfold ownStage
  split
  · exact .refl s
  · exact setTables_motion ..

theorem ownLatch_motion (value : Bool) (params : List Byte) (s : State) : MotionKeep s (ownLatch value params s).1 :=
  setTables_motion ..

theorem commitNamed_motion (t : TableId) (s : State) : MotionKeep s (commitNamed t s).1 := by
  unfold commitNamed
  split
  · exact refuse_motion ..
  · split
    · exact refuse_motion ..
    · split
      · exact .refl s
      · exact setTables_motion ..

theorem ownCommit_motion (params : List Byte) (s : State) : MotionKeep s (ownCommit params s).1 := by
  unfold ownCommit clearLatch
  split
  · exact setTables_motion ..
  · exact (commitNamed_motion ..).trans (setTables_motion ..)

theorem enableTrack_motion (t : Track) (s : State) : MotionKeep s (enableTrack t s).1 := by
  unfold enableTrack
  split
  · next off =>
    split
    · exact modTrack_motion_inactive (by rw [off]; rfl) rfl
    · exact refuse_motion ..
  all_goals exact refuse_motion ..

theorem ownEnable_motion (params : List Byte) (s : State) : MotionKeep s (ownEnable params s).1 := by
  unfold ownEnable
  split
  · split
    · exact refuse_motion ..
    · split
      · exact enableTrack_motion ..
      · exact refuse_motion ..
  · exact refuse_motion ..

theorem setDrain_motion (value : Bool) (s : State) : MotionKeep s (setDrain value s) :=
  (setUplink_motion ..).trans (senderTake_keeps _).motion

theorem ownDrainOn_motion (params : List Byte) (s : State) : MotionKeep s (ownDrainOn params s).1 := by
  unfold ownDrainOn
  split
  · exact setDrain_motion ..
  · exact refuse_motion ..

theorem ownDrainOff_motion (params : List Byte) (s : State) : MotionKeep s (ownDrainOff params s).1 := by
  unfold ownDrainOff
  split
  · exact setDrain_motion ..
  · exact refuse_motion ..

theorem clearCounters_track (s : State) (k : Track) :
    (clearCounters s).track k = { s.track k with stray := 0 } := map_get ..

theorem clearCounters_motion (s : State) : MotionKeep s (clearCounters s) :=
  ⟨rfl, rfl, rfl, rfl, fun k => passage?_congr (clearCounters_track s k ▸ rfl), rfl⟩

theorem ownCameraPass_motion (params : List Byte) (s : State) : MotionKeep s (ownCameraPass params s).1 := by
  unfold ownCameraPass
  split
  · exact refuse_motion ..
  · split
    · exact refuse_motion ..
    · split
      · exact (modPort_keeps ..).motion
      · exact refuse_motion ..

/-! ### Properties that most commands keep -/

/-- A property of the clock, the lines, the passages and the channels that time, the resets and the end of a passage
keep. -/
structure MotionClosed (P : State → Prop) : Prop where
  keep : ∀ {s t}, MotionKeep s t → P s → P t
  pass : ∀ {s} ns, P s → P (s.pass ns)
  softReset : ∀ {s}, P s → P (softReset s)
  hardReset : ∀ low s, P (hardReset low s)
  rises : ∀ {s}, P s → P (rstnRises s)
  ends : ∀ {s} t r d, P s → P (endPassage t r d s)

theorem atOnce_closed {P : State → Prop} {f : State → State} {s t : State} (hf : P s → P (f s))
    (e : atOnce f s = .next t) (h : P s) : P t := atOnce_keeps h hf e

section
variable {P : State → Prop} (hP : MotionClosed P)
include hP

theorem MotionClosed.timed {after : Nat} {f : State → State} {s t : State} (hf : ∀ u, P u → P (f u))
    (e : timed after f s = .next t) (h : P s) : P t := atOnce_keeps (hP.pass after h) (hf _) e

theorem MotionClosed.interpret {owner : Owner} (h : ∀ params u, P u → P (owner params u).1) (mine : Command → Bool)
    {s : State} (hs : P s) : P (interpret mine owner s) := by
  unfold Machine.interpret
  split
  · exact hs
  · split
    · exact hP.keep (setUplink_motion ..) (h _ _ (hP.keep (setUplink_motion ..) hs))
    · exact hs

theorem MotionClosed.interpretTogether {owner : Owner} (h : ∀ params u, P u → P (owner params u).1)
    (mine : Command → Bool) {s : State} (hs : P s) : P (interpretTogether mine owner s) :=
  hP.keep (together_keeps ..).motion (hP.interpret h mine hs)

/-- A recorder's command whose owner leaves the clock, the lines, the passages and the channels alone. -/
theorem MotionClosed.interpretQuiet {owner : Owner} (h : ∀ params u, MotionKeep u (owner params u).1)
    (mine : Command → Bool) {s : State} (hs : P s) : P (Machine.interpret mine owner s) :=
  hP.interpret (fun params u => hP.keep (h params u)) mine hs

theorem MotionClosed.interpretReset {s : State} (hs : P s) : P (interpretReset s) := by
  unfold Machine.interpretReset
  split
  · exact hs
  · next c _ =>
    split
    · have run : P (runCommand ownReset c s) := hP.keep (setUplink_motion s _) hs
      unfold resetIfDown
      split
      · exact hP.softReset run
      · exact run
    · exact hs

theorem MotionClosed.recordEndNow {s : State} (hs : P s) : P (recordEndNow s) := by
  unfold Machine.recordEndNow
  split
  · exact hs
  · next x _ =>
    split
    · have sent := hP.keep (setUplink_motion s { s.uplink with transmitter := none }) hs
      unfold recordEnds
      cases x.kind with
      | reply code =>
        dsimp only
        split
        · exact hP.softReset sent
        · exact sent
      | alert | summary | note => exact sent
      | header | block | captureEnd => exact hP.keep (senderEnd_motion ..) sent
    · exact hs

theorem MotionClosed.uplinkDown (inReception : Bool) {s : State} (hs : P s) : P (uplinkDown inReception s) := by
  unfold Machine.uplinkDown
  split
  · have down := hP.keep ((setUplink_motion s (s.uplink.goDown inReception)).trans
      (cutRecord_motion s.uplink.transmitter _)) hs
    dsimp only
    split
    · exact hP.softReset down
    · exact down
  · exact hs

theorem MotionClosed.rstnFalls (lowNs : Nat) {s : State} (hs : P s) : P (rstnFalls lowNs s) := by
  unfold Machine.rstnFalls
  split
  · exact hP.hardReset ..
  · split
    · exact hs
    · unfold shortPulse
      dsimp only
      split
      · exact hP.hardReset ..
      · exact hP.keep (s := s) ⟨rfl, rfl, rfl, rfl, fun _ => rfl, rfl⟩ hs

theorem MotionClosed.quietNow (t : Track) {s : State} (hs : P s) : P (quietNow t s) := by
  unfold Machine.quietNow
  split
  · exact hs
  · split
    · exact hP.ends _ _ _ hs
    · exact hs

theorem MotionClosed.disableTrack (t : Track) {s : State} (hs : P s) : P (disableTrack t s).1 := by
  unfold Machine.disableTrack
  split
  · exact hP.ends _ _ _ hs
  · exact hs
  · next idle => exact hP.keep (modTrack_motion_inactive (by rw [idle]; rfl) rfl) hs
  · next deadline settling => exact hP.keep (modTrack_motion_inactive (by rw [settling]; rfl) rfl) hs

theorem MotionClosed.abandonTrack (t : Track) {s : State} (hs : P s) : P (abandonTrack t s).1 := by
  unfold Machine.abandonTrack
  split
  · exact hP.ends _ _ _ hs
  all_goals exact hs

theorem MotionClosed.ownDisable (params : List Byte) {s : State} (hs : P s) : P (ownDisable params s).1 := by
  unfold Machine.ownDisable
  split
  · split
    · exact hs
    · split
      · exact hP.disableTrack _ hs
      · exact hs
  · exact hs

theorem MotionClosed.ownAbandon (params : List Byte) {s : State} (hs : P s) : P (ownAbandon params s).1 := by
  unfold Machine.ownAbandon
  split
  · split
    · exact hs
    · exact hP.abandonTrack _ hs
  · exact hs

end

/-- The commands that change lines, passages or channels in ways of their own: edges and pulses, the ends of waits,
stale expiries and triggers. -/
def movesAxles : Instr → Bool
  | .leadingEdge .. | .trailingEdge .. | .pulseAccepted .. | .pairTimeout .. | .staleExpiry .. | .trigger .. => true
  | _ => false

/-- Every other command keeps what time, the resets, the end of a passage and `MotionKeep` keep. -/
theorem MotionClosed.exec {P : State → Prop} (hP : MotionClosed P) {c : Instr} (quiet : movesAxles c = false)
    {s t : State} (e : exec c s = .next t) (h : P s) : P t := by
  cases c with
  | powerOn => cases e; exact hP.hardReset ..
  | rstnReset after lowNs => cases e; exact hP.rstnFalls lowNs (hP.pass after h)
  | rstnRelease after => cases e; exact hP.rises (hP.pass after h)
  | quietDeadline after t => exact hP.timed (fun u => hP.quietNow t) e h
  | settleExpiry after t => exact hP.timed (fun u => hP.keep (settleNow_motion t u)) e h
  | rowTimeout after cam => exact hP.timed (fun u => hP.keep (resolveHeads_frame ..).motion) e h
  | rowFrame after cam fresh frame =>
    exact hP.timed (fun u => hP.keep (forwardFrame_keeps cam fresh frame u).motion) e h
  | cameraNote after cam fresh frame =>
    exact hP.timed (fun u => hP.keep (forwardFrame_keeps cam fresh frame u).motion) e h
  | cameraLinkUp after cam heldNs => exact hP.timed (fun u => hP.keep (cameraUp_motion cam heldNs u)) e h
  | cameraLinkDown after cam inReception => exact hP.timed (fun u => hP.keep (cameraDown_motion cam inReception u)) e h
  | passThroughSend cam =>
    exact atOnce_closed (f := fun u => u.modPort cam Port.sendMessage) (hP.keep (modPort_keeps ..).motion) e h
  | messageSent after cam =>
    exact hP.timed (f := fun u => u.modPort cam fun p => { p with lane := p.lane.finishMessage })
      (fun u => hP.keep (modPort_keeps ..).motion) e h
  | uplinkLinkUp after heldNs => exact hP.timed (fun u => hP.keep (uplinkUp_motion heldNs u)) e h
  | uplinkLinkDown after inReception => exact hP.timed (fun u => hP.uplinkDown inReception) e h
  | frameReceived after fresh frame => exact hP.timed (fun u => hP.keep (frameArrives_motion fresh frame u)) e h
  | recordGrant => exact atOnce_closed (hP.keep (grant_motion s)) e h
  | recordEnd after => exact hP.timed (fun u => hP.recordEndNow) e h
  | status => exact atOnce_closed (hP.interpretQuiet (fun _ u => .refl u) _) e h
  | tableRead => exact atOnce_closed (hP.interpretQuiet ownTableRead_motion _) e h
  | stageLoad => exact atOnce_closed (hP.interpretQuiet (ownStage_motion _) _) e h
  | stagePatch => exact atOnce_closed (hP.interpretQuiet (ownStage_motion _) _) e h
  | commitEnable => exact atOnce_closed (hP.interpretQuiet (ownLatch_motion true) _) e h
  | commitDisable => exact atOnce_closed (hP.interpretQuiet (ownLatch_motion false) _) e h
  | commit => exact atOnce_closed (hP.interpretQuiet ownCommit_motion _) e h
  | trackControlEnable => exact atOnce_closed (hP.interpretQuiet ownEnable_motion _) e h
  | trackControlDisable => exact atOnce_closed (hP.interpretTogether (fun params u => hP.ownDisable params) _) e h
  | abandon => exact atOnce_closed (hP.interpretTogether (fun params u => hP.ownAbandon params) _) e h
  | drainOn => exact atOnce_closed (hP.interpretTogether (fun params u => hP.keep (ownDrainOn_motion params u)) _) e h
  | drainOff => exact atOnce_closed (hP.interpretQuiet ownDrainOff_motion _) e h
  | clearStats => exact atOnce_closed (hP.interpretQuiet (fun _ u => clearCounters_motion u) _) e h
  | clearConditions => exact atOnce_closed (hP.interpretQuiet (fun _ u => setUplink_motion u _) _) e h
  | cameraPass => exact atOnce_closed (hP.interpretQuiet ownCameraPass_motion _) e h
  | reset => exact atOnce_closed hP.interpretReset e h
  | unknownCommand => exact atOnce_closed (hP.interpretQuiet (fun _ u => refuse_motion _ u) _) e h
  | leadingEdge | trailingEdge | pulseAccepted | pairTimeout | staleExpiry | trigger => cases quiet

end Sys2Proof.Machine
end

section
/-! SUPPORT. Passages and channels in range (R31, R45, R47, R50, R64, R67, R74), operation by operation. What an
operation reads from the tables is in range because the active tables are. -/

namespace Sys2Proof.Machine

/-! ### Passage contexts -/

/-- A crossing carries a pace in range, if it carries one (R31, R32). -/
def Crossing.InRange (x : Crossing) : Prop := ∀ pace, x.pace = some pace → PaceInRange pace

theorem unpairedCrossing_inRange (st : Station) (w : Wait) : (unpairedCrossing st w).InRange := nofun

theorem pairCrossing_inRange (st : Station) (w : Wait) (time : Stamp) : (pairCrossing st w time).InRange := by
  unfold pairCrossing
  rintro pace carried
  cases h : w.seen <;> rw [h] at carried <;> exact Option.some.inj carried ▸ axlePace_inRange ..

/-- Fields that no range of R45 speaks of can change. -/
theorem Passage.InRange.congr {p q : Passage} (h : p.InRange) (inCount : q.inCount = p.inCount)
    (outCount : q.outCount = p.outCount) (axles : q.axles = p.axles) (paces : q.paces = p.paces)
    (pace : q.pace = p.pace) (spacings : q.spacingsTaken = p.spacingsTaken) : q.InRange := by
  obtain ⟨outCount', inCount', nonempty, places, axlePaces, historyLength, history, mean, taken⟩ := h
  constructor <;> simpa only [inCount, outCount, axles, paces, pace, spacings]

theorem Passage.InRange.touch {p : Passage} (h : p.InRange) (now : Stamp) (quiet : Nat) (x : Crossing) :
    (p.touch now quiet x).InRange := h.congr rfl rfl rfl rfl rfl rfl

theorem Passage.InRange.takePace {p : Passage} (h : p.InRange) (now : Stamp) (hold : Nat) {pace : Nat}
    (new : PaceInRange pace) : (p.takePace now hold pace).InRange := by
  have entered := pushPace_inRange h.history new
  exact { h with
    historyLength := pushPace_length_le ..
    history := entered
    pace := mean_inRange (pushPace_length_pos ..) entered }

theorem takeCrossingPace_inCount (now : Stamp) (hold : Nat) (x : Crossing) (p : Passage) :
    (p.takeCrossingPace now hold x).inCount = p.inCount := by
  unfold Passage.takeCrossingPace
  split <;> rfl

theorem Passage.InRange.takeCrossingPace {p : Passage} (h : p.InRange) (now : Stamp) (hold : Nat) {x : Crossing}
    (hx : x.InRange) : (p.takeCrossingPace now hold x).InRange := by
  unfold Passage.takeCrossingPace
  split
  · exact h
  · next pace carried => exact h.takePace now hold (hx pace carried)

/-- The default pace of a site entry in range replaces the mean of an emptied history (R4, R51). -/
theorem Passage.InRange.goStale {p : Passage} (h : p.InRange) {site : SiteTrack} (hs : site.InRange) :
    (p.goStale site).InRange := by
  obtain ⟨-, -, -, -, low, high, -⟩ := hs
  exact { h with historyLength := Nat.zero_le _, history := nofun, pace := ⟨low, high⟩ }

theorem Passage.InRange.countIn {p : Passage} (h : p.InRange) : p.countIn.InRange := by
  unfold Passage.countIn
  split
  · next room => exact { h with outCount := Nat.le_succ_of_le h.outCount, inCount := Nat.succ_le_of_lt room }
  · exact h.congr rfl rfl rfl rfl rfl rfl

theorem Passage.InRange.uncountIn {p : Passage} (h : p.InRange) (room : p.outCount < p.inCount) :
    ({ p with inCount := p.inCount - 1 } : Passage).InRange :=
  { h with outCount := Nat.le_sub_one_of_lt room, inCount := (Nat.sub_le ..).trans h.inCount }

theorem Passage.InRange.uncountOut {p : Passage} (h : p.InRange) :
    ({ p with outCount := p.outCount - 1 } : Passage).InRange := { h with outCount := (Nat.sub_le ..).trans h.outCount }

theorem Passage.InRange.append {p : Passage} (h : p.InRange) (room : p.axles.length < axlePlaces) {x : Crossing}
    (hx : x.InRange) (spacing : Option Nat) :
    ({ p with axles := p.axles ++ [axleOf x spacing] } : Passage).InRange := by
  refine { h with axlesNonempty := by simp, axles := by simpa [axlePlaces] using room, axlePaces := fun a ha => ?_ }
  rcases List.mem_append.1 ha with old | new
  · exact h.axlePaces a old
  · exact List.mem_singleton.1 new ▸ hx

theorem Passage.InRange.spacingTaken {p : Passage} (h : p.InRange) {k : Nat} (le : k ≤ 8) (left : List Candidate) :
    ({ p with spacingsTaken := k, candidates := left } : Passage).InRange := { h with spacingsTaken := le }

theorem newPassage_inRange (s : State) (site : SiteTrack) {x : Crossing} (hx : x.InRange) {pace : Nat}
    (new : PaceInRange pace) : (newPassage s site x pace).InRange where
  outCount := Nat.zero_le _
  inCount := (by decide : 1 ≤ 1023)
  axlesNonempty := Nat.le_refl 1
  axles := (by decide : 1 ≤ 128)
  axlePaces a ha := List.mem_singleton.1 ha ▸ hx
  historyLength := (by decide : 1 ≤ 4)
  history y hy := List.mem_singleton.1 hy ▸ new
  pace := new
  spacingsTaken := Nat.zero_le _

/-! ### Channel records -/

/-- R67: a clamped period lies in the range of a site entry in range. -/
theorem linePeriod_inRange (pace : Nat) {site : SiteCamera} (h : site.InRange) :
    5000 ≤ (linePeriod pace site).1 ∧ (linePeriod pace site).1 ≤ 2000000 := by
  obtain ⟨-, -, -, -, -, -, low, -, ordered, high, -⟩ := h
  rw [linePeriod_eq pace ordered]
  exact ⟨low.trans (le_max_left ..), max_le (ordered.trans high) ((min_le_right ..).trans high)⟩

theorem nextPeriod_inRange (held : Bool) (pace : Nat) {site : SiteCamera} (h : site.InRange) :
    5000 ≤ (nextPeriod held pace site).1 ∧ (nextPeriod held pace site).1 ≤ 2000000 := by
  cases held
  · exact linePeriod_inRange pace h
  · obtain ⟨-, -, -, -, -, -, low, -, ordered, high, -⟩ := h
    exact ⟨low.trans ordered, high⟩

/-- R69, R74: travel holds at its largest value, and the carry is a rest of a division by a pace. -/
theorem travelAfter_inRange (held : Bool) (interval : Nat) {pace travel carry : Nat} (hp : PaceInRange pace)
    (ht : travel ≤ 4294967295) (hc : carry ≤ 999999) :
    (travelAfter held interval pace travel carry).1 ≤ 4294967295
      ∧ (travelAfter held interval pace travel carry).2 ≤ 999999 := by
  obtain ⟨low, high⟩ := hp
  unfold travelAfter
  split
  · exact ⟨ht, hc⟩
  · have rest : (interval * 1000 + carry) % pace < pace := Nat.mod_lt _ (by omega)
    exact ⟨min_le_right .., (Nat.le_sub_one_of_lt rest).trans (by omega)⟩

/-- Fields that no range of R64 speaks of can change. -/
theorem Channel.InRange.congr {c d : Channel} (h : c.InRange) (travel : d.travel = c.travel) (carry : d.carry = c.carry)
    (run : d.run = c.run) : d.InRange := by
  obtain ⟨travel', carry', period⟩ := h
  constructor <;> simpa only [travel, carry, run]

theorem Channel.InRange.stop {c : Channel} (h : c.InRange) : ({ c with run := .stopped } : Channel).InRange :=
  { h with period := nofun }

/-- A channel that has a period in range in force. -/
theorem Channel.InRange.running {c : Channel} (travel : c.travel ≤ 4294967295) (carry : c.carry ≤ 999999) {t : Track}
    {held off : Bool} {period elapsed : Nat} (run : c.run = .running t held period off elapsed)
    (range : 5000 ≤ period ∧ period ≤ 2000000) : c.InRange := by
  refine ⟨travel, carry, fun t' held' period' off' elapsed' same => ?_⟩
  cases run.symm.trans same
  exact range

theorem Channel.InRange.pass {c : Channel} (h : c.InRange) (ns : Nat) : (c.pass ns).InRange := by
  unfold Channel.pass
  split
  · exact h
  · next t held period off elapsed run => exact .running h.travel h.carry rfl (h.period _ _ _ _ _ run)

/-! ### Updates -/

/-- Every passage and every channel is in range. -/
structure MotionInRange (s : State) : Prop where
  passages : PassagesInRange s
  channels : ChannelsInRange s

variable {s : State}

theorem MotionInRange.keep {t : State} (h : MotionInRange s) (k : MotionKeep s t) : MotionInRange t where
  passages track p held := h.passages track p (by rwa [← k.passages])
  channels c := by rw [k.channels]; exact h.channels c

theorem MotionInRange.setPassage (h : MotionInRange s) {p : Passage} (hp : p.InRange) (t : Track) :
    MotionInRange (s.setPassage t p) := by
  refine ⟨fun k q held => ?_, h.channels⟩
  by_cases same : k = t
  · subst same
    obtain rfl := Option.some.inj ((passage?_setPassage_same ..).symm.trans held)
    exact hp
  · exact h.passages k q ((passage?_setPassage_other s same p).symm.trans held)

/-- A track that holds no passage afterwards. -/
theorem MotionInRange.modTrack (h : MotionInRange s) {t : Track} {f : TrackRec → TrackRec}
    (after : (f (s.track t)).state.isActive = false) : MotionInRange (s.modTrack t f) := by
  refine ⟨fun k q held => ?_, h.channels⟩
  by_cases same : k = t
  · subst same
    rw [passage?_eq_none (by rwa [track_modTrack_same])] at held
    cases held
  · exact h.passages k q ((passage?_modTrack_other s same f).symm.trans held)

theorem MotionInRange.modChannel (h : MotionInRange s) (c : Fin 4) {f : Channel → Channel}
    (hf : ∀ x : Channel, x.InRange → (f x).InRange) : MotionInRange (s.modChannel c f) := by
  refine ⟨h.passages, fun d => ?_⟩
  rw [State.modChannel_channels, upd_get]
  split
  · exact hf _ (h.channels d)
  · exact h.channels d

theorem MotionInRange.foldl (h : MotionInRange s) {f : State → Fin 4 → State}
    (hf : ∀ u c, MotionInRange u → MotionInRange (f u c)) (cams : List (Fin 4)) : MotionInRange (cams.foldl f s) := by
  induction cams generalizing s with
  | nil => exact h
  | cons c rest ih => exact ih (hf s c h)

/-! ### Windows and the stop of channels -/

theorem MotionInRange.reportWindow (h : MotionInRange s) (t : Track) (cam : Fin 4) (panto : Nat) (o : PlanOutcome) :
    MotionInRange (reportWindow t cam panto o s) := by
  unfold Machine.reportWindow
  split
  · exact h
  · next p held =>
    refine h.setPassage ?_ t
    exact (h.passages t p held).congr rfl rfl rfl rfl rfl rfl

theorem MotionInRange.closeWindow (h : MotionInRange s) (cam : Fin 4) (r : CloseReason) :
    MotionInRange (closeWindow cam r s) := by
  unfold Machine.closeWindow
  split
  · exact h
  · refine .keep (h.modChannel cam ?_) (closeCapture_keeps ..).motion
    exact fun x hx => hx.congr rfl rfl rfl

theorem MotionInRange.dropWindows (h : MotionInRange s) (t : Track) (cam : Fin 4) (r : DropReason) (ws : List Window) :
    MotionInRange (dropWindows t cam r ws s) := by
  induction ws generalizing s with
  | nil => exact h.modChannel cam fun x hx => hx.congr rfl rfl rfl
  | cons w rest ih => exact ih (h.reportWindow ..)

theorem MotionInRange.stopChannel (h : MotionInRange s) (t : Track) (r : DropReason) (cam : Fin 4) :
    MotionInRange (stopChannel t r cam s) := by
  unfold Machine.stopChannel
  split
  · exact h
  · exact ((h.modChannel cam fun x hx => hx.stop).closeWindow ..).dropWindows ..

theorem MotionInRange.stopChannels (h : MotionInRange s) (t : Track) (r : DropReason) :
    MotionInRange (stopChannels t r s) :=
  (inFreeOrder_induct (P := MotionInRange) (h.keep (chosen_motion ..)) fun _ _ hu => hu.stopChannel ..).keep
    (together_keeps ..).motion

/-! ### The trigger (R70) -/

theorem MotionInRange.createCapture (h : MotionInRange s) (k : Fin 32) (o : Opening) :
    MotionInRange (createCapture k o s) := by
  have opened := h.modChannel o.camera (f := fun c => { c with openWindow := some (newOpenWindow o) })
    fun x hx => hx.congr rfl rfl rfl
  unfold Machine.createCapture
  refine MotionInRange.reportWindow ⟨?_, ?_⟩ ..
  · exact h.passages
  · exact opened.channels

theorem MotionInRange.takeSlot (h : MotionInRange s) (t : Track) (cam : Fin 4) (site : SiteCamera) (p : Passage)
    (head : HeadClass) (w : Window) : MotionInRange (takeSlot t cam site p head w s) := by
  unfold Machine.takeSlot
  split
  · exact h.reportWindow ..
  · exact h.createCapture ..

theorem MotionInRange.openWindow (h : MotionInRange s) (t : Track) (cam : Fin 4) (site : SiteCamera) (p : Passage)
    (w : Window) : MotionInRange (openWindow t cam site p w s) := by
  unfold Machine.openWindow
  split
  · exact h
  · exact (h.closeWindow ..).takeSlot ..

theorem MotionInRange.examineWindows (h : MotionInRange s) (t : Track) (cam : Fin 4) (site : SiteCamera) (p : Passage)
    (travel : Nat) (ws : List Window) : MotionInRange (examineWindows t cam site p travel ws s) := by
  induction ws generalizing s with
  | nil => exact h.modChannel cam fun x hx => hx.congr rfl rfl rfl
  | cons w rest ih =>
    unfold Machine.examineWindows
    split
    · exact ih (h.reportWindow ..)
    · split
      · refine MotionInRange.openWindow (h.modChannel cam ?_) ..
        exact fun x hx => hx.congr rfl rfl rfl
      · exact h.modChannel cam fun x hx => hx.congr rfl rfl rfl

theorem MotionInRange.closeReached (h : MotionInRange s) (cam : Fin 4) (travel : Nat) :
    MotionInRange (closeReached cam travel s) := by
  unfold Machine.closeReached
  split
  · exact h
  · split
    · exact h.closeWindow ..
    · split
      · exact h.closeWindow ..
      · exact h

theorem MotionInRange.tagTrigger (h : MotionInRange s) (cam : Fin 4) (pitch : Bool) :
    MotionInRange (tagTrigger cam pitch s) := by
  unfold Machine.tagTrigger
  split
  · exact h
  · next w _ =>
    have counted := h.modChannel cam (f := fun c => { c with openWindow := some { w with tagged := w.tagged + 1 } })
      fun x hx => hx.congr rfl rfl rfl
    dsimp only
    split
    · exact counted
    · exact counted.keep (modSlot_keeps ..).motion

theorem MotionInRange.issueTrigger (h : MotionInRange s) (cam : Fin 4) (site : SiteCamera) (travel : Nat) :
    MotionInRange (issueTrigger cam site travel s) := by
  unfold Machine.issueTrigger
  refine .keep (h.modChannel cam ?_) (portTrigger_keeps ..).motion
  exact fun x hx => hx.congr rfl rfl rfl

/-- A trigger writes travel, carry and the next period of its channel, each in range; the steps after it leave them. -/
theorem MotionInRange.takeTrigger (h : MotionInRange s) (cam : Fin 4) (t : Track) {site : SiteCamera}
    (hs : site.InRange) {p : Passage} (hp : p.InRange) (period : Nat) (off : Bool) (elapsed : Nat) :
    MotionInRange (takeTrigger cam t site p period off elapsed s) := by
  obtain ⟨travel, carry⟩ :=
    travelAfter_inRange p.stale period hp.pace (h.channels cam).travel (h.channels cam).carry
  unfold Machine.takeTrigger
  refine MotionInRange.issueTrigger (.tagTrigger (.examineWindows (.closeReached (h.modChannel cam ?_) ..) ..) ..) ..
  exact fun x hx => .running travel carry rfl (nextPeriod_inRange p.stale p.pace hs)

/-- The site entry of a camera is in range because the active tables are. -/
theorem siteCamera?_inRange {s : State} (ht : s.tables.active.InRange) {cam : Fin 4} {site : SiteCamera}
    (h : s.siteCamera? cam = some site) : site.InRange := ht.siteCameras cam site h

theorem siteTrack?_inRange {s : State} (ht : s.tables.active.InRange) {t : Track} {site : SiteTrack}
    (h : s.siteTrack? t = some site) : site.InRange := ht.siteTracks _ site ((siteTrack?_eq_some_iff ..).1 h).1

theorem MotionInRange.triggerNow (h : MotionInRange s) (ht : s.tables.active.InRange) (cam : Fin 4) :
    MotionInRange (triggerNow cam s) := by
  unfold Machine.triggerNow
  split
  · exact h
  · split
    · split
      · next entry held => exact h.takeTrigger cam _ (siteCamera?_inRange ht entry) (h.passages _ _ held) ..
      · exact h
    · exact h

/-! ### Passages -/

theorem MotionInRange.startChannels (h : MotionInRange s) (ht : s.tables.active.InRange) (t : Track) (pace : Nat) :
    MotionInRange (startChannels t pace s) := by
  obtain ⟨channels, all, started, others⟩ := startChannels_start t pace s
  rw [all]
  refine ⟨h.passages, fun cam => ?_⟩
  show channels[cam].InRange
  by_cases mem : cam ∈ s.camerasOf t
  · obtain ⟨site, entry, -⟩ := (mem_camerasOf_iff ..).1 mem
    rw [started cam mem site entry]
    exact .running (Nat.zero_le _) (Nat.zero_le _) rfl (linePeriod_inRange pace (siteCamera?_inRange ht entry))
  · rw [others cam mem]
    exact h.channels cam

theorem MotionInRange.startPassage (h : MotionInRange s) (ht : s.tables.active.InRange) (t : Track) {x : Crossing}
    (hx : x.InRange) {pace : Nat} (new : PaceInRange pace) : MotionInRange (startPassage t x pace s) := by
  unfold Machine.startPassage
  split
  · exact h
  · next site _ =>
    have entered := h.setPassage (newPassage_inRange s site hx new) t
    exact MotionInRange.startChannels (s := s.entered t (newPassage s site x pace)) ⟨entered.passages, entered.channels⟩
      ht t pace

theorem MotionInRange.endPassage (h : MotionInRange s) (t : Track) (r : EndReason) (d : EndTo) :
    MotionInRange (endPassage t r d s) := by
  unfold Machine.endPassage
  dsimp only
  split
  · exact h.stopChannels ..
  · refine .keep (.keep (.modTrack (h.stopChannels ..) ?_) (setUplink_motion ..)) (together_keeps ..).motion
    cases d <;> rfl

theorem MotionInRange.planPassage (h : MotionInRange s) (t : Track) (i : Fin 32) (m : MatchState) {p : Passage}
    (hp : p.InRange) : MotionInRange (planPassage t i m p s) := by
  unfold Machine.planPassage
  refine MotionInRange.foldl (h.setPassage ?_ t) (fun u cam hu => ?_) _
  · exact hp.congr rfl rfl rfl rfl rfl rfl
  · refine hu.modChannel cam ?_
    exact fun x hx => hx.congr rfl rfl rfl

theorem MotionInRange.applyDecision (h : MotionInRange s) (t : Track) (d : Decision) {p : Passage} (hp : p.InRange) :
    MotionInRange (applyDecision t d p s) := by
  cases d with
  | seeking => exact h.setPassage hp t
  | matched i => exact h.planPassage t i .matched hp
  | fallback => exact h.planPassage t 0 .fallback hp

theorem MotionInRange.matchSpacing (h : MotionInRange s) (t : Track) {k : Nat} (le : k ≤ 8) (spacing : Option Nat)
    {p : Passage} (hp : p.InRange) : MotionInRange (matchSpacing t k spacing p s) := by
  unfold Machine.matchSpacing
  split
  · exact h.applyDecision t _ (hp.spacingTaken le p.candidates)
  · exact h.applyDecision t _ (hp.spacingTaken le _)

/-- The spacings that go to matching are the first eight (R48, R52). -/
theorem takesSpacing_iff (p : Passage) (k : Nat) :
    takesSpacing p k = true ↔ 1 ≤ k ∧ k ≤ 8 ∧ p.matching = .seeking ∧ p.reversed = false := by
  simp [takesSpacing, and_assoc]

theorem MotionInRange.appendAxle (h : MotionInRange s) (t : Track) {x : Crossing} (hx : x.InRange) {p : Passage}
    (hp : p.InRange) : MotionInRange (appendAxle t x p s) := by
  unfold Machine.appendAxle
  split
  · next room =>
    have grown := hp.append room hx
    dsimp only
    split
    · next takes =>
      obtain ⟨-, le, -⟩ := (takesSpacing_iff ..).1 takes
      exact h.matchSpacing t le _ (grown _)
    · exact h.setPassage (grown _) t
  · exact h.setPassage hp t

theorem MotionInRange.axleOut (h : MotionInRange s) (t : Track) (site : SiteTrack) {x : Crossing} (hx : x.InRange)
    {p : Passage} (hp : p.InRange) : MotionInRange (axleOut t site x p s) := by
  have paced := hp.takeCrossingPace s.time site.paceHold hx
  unfold Machine.axleOut
  dsimp only
  split
  · next room =>
    have counted : MotionInRange (s.setPassage t { p.takeCrossingPace s.time site.paceHold x with
        outCount := p.outCount + 1 }) := by
      refine h.setPassage ?_ t
      exact { paced with outCount := by rw [takeCrossingPace_inCount]; exact room }
    split
    · exact counted.endPassage ..
    · exact counted
  · exact (h.setPassage paced t).keep (strayAxle_motion ..)

theorem MotionInRange.markReversed (h : MotionInRange s) (t : Track) : MotionInRange (markReversed t s) := by
  unfold Machine.markReversed
  split
  · exact h
  · next p held =>
    split
    · exact h
    · refine MotionInRange.stopChannels (h.setPassage ?_ t) ..
      exact (h.passages t p held).congr rfl rfl rfl rfl rfl rfl

theorem MotionInRange.backOut (h : MotionInRange s) (t : Track) {p : Passage} (hp : p.InRange) :
    MotionInRange (backOut t p s) := by
  unfold Machine.backOut
  split
  · next room => exact (h.setPassage (hp.uncountIn room) t).markReversed t
  · exact ((h.setPassage hp t).keep (strayAxle_motion ..)).markReversed t

theorem MotionInRange.backIn (h : MotionInRange s) (t : Track) {p : Passage} (hp : p.InRange) :
    MotionInRange (backIn t p s) := by
  unfold Machine.backIn
  split
  · exact (h.setPassage hp.uncountOut t).markReversed t
  · exact ((h.setPassage hp t).keep (strayAxle_motion ..)).markReversed t

theorem MotionInRange.crossActive (h : MotionInRange s) (t : Track) (site : SiteTrack) {x : Crossing} (hx : x.InRange)
    {p : Passage} (hp : p.InRange) : MotionInRange (crossActive t site x p s) := by
  have touched := hp.touch s.time site.quiet x
  unfold Machine.crossActive
  dsimp only
  split
  · exact h.appendAxle t hx (touched.countIn.takeCrossingPace _ _ hx)
  · exact h.axleOut t site hx touched
  · exact h.backOut t touched
  · exact h.backIn t touched

theorem MotionInRange.crossIdle (h : MotionInRange s) (ht : s.tables.active.InRange) (t : Track) {x : Crossing}
    (hx : x.InRange) : MotionInRange (crossIdle t x s) := by
  unfold Machine.crossIdle
  split
  · next pace clamped arrival => exact h.startPassage ht t hx (hx pace (by rw [Crossing.pace, arrival]))
  · exact h.keep (strayAxle_motion ..)
  · exact h.keep (strayAxle_motion ..)

theorem MotionInRange.takeCrossing (h : MotionInRange s) (ht : s.tables.active.InRange) (t : Track) {x : Crossing}
    (hx : x.InRange) : MotionInRange (takeCrossing t x s) := by
  unfold Machine.takeCrossing
  split
  · exact h.keep (strayAxle_motion ..)
  · exact h.keep (strayAxle_motion ..)
  · exact h.crossIdle ht t hx
  · next p active =>
    split
    · exact h
    · exact h.crossActive t _ hx (h.passages t p ((passage?_eq_some_iff ..).2 active))

theorem MotionInRange.staleNow (h : MotionInRange s) (ht : s.tables.active.InRange) (t : Track) :
    MotionInRange (staleNow t s) := by
  unfold Machine.staleNow
  split
  · next p site held entry =>
    split
    · exact h.setPassage ((h.passages t p held).goStale (siteTrack?_inRange ht entry)) t
    · exact h
  · exact h

/-! ### Lines, pulses and waits -/

theorem MotionInRange.modLine (h : MotionInRange s) (l : Fin 8) (f : Line → Line) : MotionInRange (s.modLine l f) :=
  ⟨h.passages, h.channels⟩

theorem MotionInRange.setStation (h : MotionInRange s) (i : Fin 4) (w : Option Wait) :
    MotionInRange (s.setStation i w) := ⟨h.passages, h.channels⟩

theorem MotionInRange.bumpUnpaired (h : MotionInRange s) (i : Fin 4) : MotionInRange (s.bumpUnpaired i) :=
  ⟨h.passages, h.channels⟩

theorem MotionInRange.bumpGlitch (h : MotionInRange s) (i : Fin 8) : MotionInRange (s.bumpGlitch i) :=
  ⟨h.passages, h.channels⟩

theorem MotionInRange.takePulse (h : MotionInRange s) (ht : s.tables.active.InRange) (t : Track) (st : Station)
    (d : Detector) (time : Stamp) : MotionInRange (takePulse t st d time s) := by
  unfold Machine.takePulse
  split
  · exact h.setStation ..
  · split
    · exact MotionInRange.takeCrossing ((h.setStation ..).bumpUnpaired _) ht t (unpairedCrossing_inRange st _)
    · exact MotionInRange.takeCrossing (h.setStation ..) ht t (pairCrossing_inRange st _ time)

theorem MotionInRange.expireWait (h : MotionInRange s) (ht : s.tables.active.InRange) (t : Track) (st : Station) :
    MotionInRange (expireWait t st s) := by
  unfold Machine.expireWait
  split
  · exact h
  · split
    · exact MotionInRange.takeCrossing ((h.setStation ..).bumpUnpaired _) ht t (unpairedCrossing_inRange st _)
    · exact h

theorem MotionInRange.acceptPulse (h : MotionInRange s) (ht : s.tables.active.InRange) (l : Fin 8) :
    MotionInRange (acceptPulse l s) := by
  unfold Machine.acceptPulse
  split
  · exact h
  · exact (h.modLine ..).takePulse ht ..

theorem MotionInRange.trailingEdge (h : MotionInRange s) (ht : s.tables.active.InRange) (l : Fin 8) :
    MotionInRange (trailingEdge l s) := by
  unfold Machine.trailingEdge
  split
  · exact (h.modLine ..).bumpGlitch l
  · exact (h.acceptPulse ht l).modLine ..

theorem MotionInRange.lineEvent (h : MotionInRange s) (l : Fin 8) (inReset : Line → Line) {live : State → State}
    (hl : MotionInRange (live s)) : MotionInRange (lineEvent l inReset live s) := by
  unfold Machine.lineEvent
  split
  · exact h.modLine ..
  · exact hl

/-! ### Every step -/

theorem pass_passage (s : State) (ns : Nat) (t : Track) : (s.pass ns).passage? t = s.passage? t := by
  unfold State.pass
  split <;> rfl

theorem MotionInRange.pass (h : MotionInRange s) (ns : Nat) : MotionInRange (s.pass ns) := by
  refine ⟨fun t p held => h.passages t p ((pass_passage s ns t).symm.trans held), fun c => ?_⟩
  unfold State.pass
  split
  · exact h.channels c
  · rw [map_get]
    exact (h.channels c).pass ns

theorem softReset_track (s : State) (t : Track) : (softReset s).track t = { state := .off, stray := 0 } :=
  replicate_get ..

theorem softReset_passage (s : State) (t : Track) : (softReset s).passage? t = none :=
  passage?_eq_none (by rw [softReset_track]; rfl)

theorem MotionInRange.softReset (s : State) : MotionInRange (softReset s) := by
  refine ⟨fun t p held => ?_, fun c => ?_⟩
  · cases (softReset_passage s t).symm.trans held
  · rw [softReset_channel]
    exact ⟨Nat.zero_le _, Nat.zero_le _, nofun⟩

theorem motionInRange_closed : MotionClosed MotionInRange where
  keep k h := h.keep k
  pass ns h := h.pass ns
  softReset {s} _ := .softReset s
  hardReset _ _ := ⟨reset_passagesInRange, reset_channelsInRange⟩
  rises h := ⟨h.passages, h.channels⟩
  ends t r d h := h.endPassage t r d

/-- Every command keeps passages and channels in range while the active tables are. -/
theorem MotionInRange.exec (h : MotionInRange s) (ht : s.tables.active.InRange) (c : Instr) {t : State}
    (e : exec c s = .next t) : MotionInRange t := by
  have later (ns : Nat) : (s.pass ns).tables.active.InRange := by rwa [pass_tables]
  cases kind : movesAxles c with
  | false => exact motionInRange_closed.exec kind e h
  | true =>
    cases c with
    | leadingEdge after l => cases e; exact (h.pass after).lineEvent l _ ((h.pass after).modLine ..)
    | trailingEdge after l => cases e; exact (h.pass after).lineEvent l _ ((h.pass after).trailingEdge (later after) l)
    | pulseAccepted after l => exact atOnce_closed (fun u => u.acceptPulse (later after) l) e (h.pass after)
    | pairTimeout after k st => exact atOnce_closed (fun u => u.expireWait (later after) k st) e (h.pass after)
    | staleExpiry after k => exact atOnce_closed (fun u => u.staleNow (later after) k) e (h.pass after)
    | trigger after cam => exact atOnce_closed (fun u => u.triggerNow (later after) cam) e (h.pass after)
    | _ => cases kind

end Sys2Proof.Machine

namespace Sys2Proof.Settled

open Sys2Proof.Machine

/-- Settles O55: time and every command keep the ranges, operation by operation. -/
theorem stepsKeepMotionInRange : Obligations.StepsKeepMotionInRange := by
  intro s t tables passages channels stepped
  have h : MotionInRange s := ⟨passages, channels⟩
  have after : MotionInRange t := by
    unfold step at stepped
    split at stepped
    · cases stepped; exact h.pass _
    · next c rest _ =>
      have taken : MotionInRange { s with pending := rest } := ⟨passages, channels⟩
      exact taken.exec tables.active c stepped
  exact ⟨after.passages, after.channels⟩

end Sys2Proof.Settled
end

section
/-! SUPPORT. The passing of time (R22, R23, R68, R193): a span in two parts is the span in one, and what goes on with
it. -/

namespace Sys2Proof.Machine

/-! ### Stamps (R22) -/

theorem later_toNat (time : Stamp) (us : Nat) : (later time us).toNat = (time.toNat + us) % 4294967296 := by
  simp [later]

theorem later_later (time : Stamp) (a b : Nat) : later (later time a) b = later time (a + b) := by
  unfold later
  rw [BitVec.ofNat_add, BitVec.add_assoc]

/-! ### Spans of time -/

theorem pass_awake {s : State} (ns : Nat) (h : s.rstnLow = false) :
    s.pass ns = { s with
      time := later s.time ((s.subUs + ns) / 1000)
      subUs := (s.subUs + ns) % 1000
      lines := s.lines.map (Line.pass ns)
      channels := s.channels.map (Channel.pass ns)
      ports := s.ports.map fun p => { p with lane := p.lane.pass ns }
      uplink := s.uplink.pass ns } := by
  unfold State.pass
  rw [if_neg (by simp [h])]

theorem Line.pass_pass (a b : Nat) (l : Line) : (l.pass a).pass b = l.pass (a + b) := by
  obtain ⟨active, stage⟩ := l
  cases stage with
  | qualifying lead elapsed => simp only [Line.pass, Nat.add_assoc]
  | waitRest | ready | accepted => rfl

theorem Channel.pass_pass (a b : Nat) (c : Channel) : (c.pass a).pass b = c.pass (a + b) := by
  obtain ⟨run, travel, carry, sequence, windows, openWindow⟩ := c
  cases run with
  | stopped => rfl
  | running t held period off elapsed => simp only [Channel.pass, Nat.add_assoc]

theorem Uplink.pass_pass (a b : Nat) (u : Uplink) : (u.pass a).pass b = u.pass (a + b) := by
  unfold Uplink.pass
  congr 1
  · cases u.transmitter with
    | none => rfl
    | some x => simp only [Option.map_some, Nat.add_assoc]
  · by_cases hb : b = 0
    · simp [hb]
    · simp [hb]

theorem pass_pass (s : State) (a b : Nat) : (s.pass a).pass b = s.pass (a + b) := by
  cases low : s.rstnLow with
  | true => rw [pass_held a low, pass_held b low, pass_held (a + b) low]
  | false =>
    rw [pass_awake b (by rw [pass_rstnLow, low]), pass_awake a low, pass_awake (a + b) low]
    simp only [Vector.map_map, State.mk.injEq, true_and, and_true]
    refine ⟨?_, by omega, ?_, ?_, ?_, Uplink.pass_pass ..⟩
    · rw [later_later]
      congr 1
      omega
    · exact congrArg (s.lines.map ·) (funext (Line.pass_pass a b))
    · exact congrArg (s.channels.map ·) (funext (Channel.pass_pass a b))
    · exact congrArg (s.ports.map ·) (funext fun p => by simp only [Function.comp_apply, ReturnLane.pass_pass])

/-- The time in nanoseconds goes on by the span, rolling with the Timestamp Counter. -/
theorem pass_clock {s : State} (ns : Nat) (h : s.rstnLow = false) :
    (1000 * (s.pass ns).time.toNat + (s.pass ns).subUs) % (1000 * 4294967296)
        = (1000 * s.time.toNat + s.subUs + ns) % (1000 * 4294967296)
      ∧ (s.pass ns).subUs < 1000 := by
  rw [pass_awake ns h]
  dsimp only
  rw [later_toNat]
  omega

theorem pass_line {s : State} (ns : Nat) (h : s.rstnLow = false) (l : Fin 8) :
    (s.pass ns).lines[l] = s.lines[l].pass ns := by
  rw [pass_awake ns h]
  exact map_get ..

theorem pass_channel {s : State} (ns : Nat) (h : s.rstnLow = false) (c : Fin 4) :
    (s.pass ns).channels[c] = s.channels[c].pass ns := by
  rw [pass_awake ns h]
  exact map_get ..

theorem pass_port {s : State} (ns : Nat) (h : s.rstnLow = false) (c : Fin 4) :
    (s.pass ns).ports[c] = { s.ports[c] with lane := s.ports[c].lane.pass ns } := by
  rw [pass_awake ns h]
  exact map_get ..

theorem pass_uplink {s : State} (ns : Nat) (h : s.rstnLow = false) : (s.pass ns).uplink = s.uplink.pass ns := by
  rw [pass_awake ns h]

/-- A pulse being qualified goes on by the span, on the level its line has. -/
theorem Line.pass_qualifying (ns : Nat) {l : Line} {lead : Stamp} {elapsed : Nat}
    (h : l.stage = .qualifying lead elapsed) :
    l.pass ns = { active := l.active, stage := .qualifying lead (elapsed + ns) } := by
  unfold Line.pass
  rw [h]

theorem Line.pass_other (ns : Nat) {l : Line} (h : ∀ lead elapsed, l.stage ≠ .qualifying lead elapsed) :
    l.pass ns = l := by
  unfold Line.pass
  split
  · next lead elapsed held => exact absurd held (h lead elapsed)
  all_goals rfl

theorem Channel.pass_stopped (ns : Nat) {c : Channel} (h : c.run = .stopped) : c.pass ns = c := by
  unfold Channel.pass
  rw [h]

theorem Channel.pass_running (ns : Nat) {c : Channel} {t : Track} {held off : Bool} {period elapsed : Nat}
    (h : c.run = .running t held period off elapsed) :
    c.pass ns = { c with run := .running t held period off (elapsed + ns) } := by
  unfold Channel.pass
  rw [h]

end Sys2Proof.Machine

namespace Sys2Proof.Settled

open Sys2Proof.Machine

/-- Settles O3: the counter, spans in two parts, RSTN low, rolling stamps, and what goes on with the time. -/
theorem timePasses : Obligations.TimePasses := by
  refine ⟨fun s ns awake => pass_clock ns awake, pass_pass, fun s ns low => pass_held ns low, later_toNat, ?_,
    fun s empty => by unfold step; rw [empty]; rfl⟩
  rintro s t ns awake rfl
  refine ⟨fun l => ?_, fun c => ?_, fun c => pass_port ns awake c, ?_, ?_⟩
  · rw [pass_line ns awake]
    exact ⟨fun lead elapsed held => Line.pass_qualifying ns held, Line.pass_other ns⟩
  · rw [pass_channel ns awake]
    exact ⟨Channel.pass_stopped ns, fun t held period off elapsed run => Channel.pass_running ns run⟩
  · rw [pass_uplink ns awake]
    refine ⟨rfl, fun free => ?_, fun x busy => ?_, fun zero => if_pos zero, fun pos => if_neg (by omega)⟩
    · rw [Uplink.pass, free]; rfl
    · rw [Uplink.pass, busy]; rfl
  · rw [pass_awake ns awake]

end Sys2Proof.Settled
end

section
/-! SUPPORT. RSTN (R22, R24, R205): the reset, the part held in reset, short pulses and the release. -/

namespace Sys2Proof.Machine

/-! ### The pins through a reset (R24) -/

/-- A reset forgets how far a pulse being qualified had come. -/
theorem Line.hardReset_pass (ns : Nat) (l : Line) : (l.pass ns).hardReset = l.hardReset := by
  unfold Line.pass
  split <;> rfl

/-- A reset after some time is the reset now: it keeps what time does not change. -/
theorem hardReset_pass (low : Bool) (s : State) (ns : Nat) : hardReset low (s.pass ns) = hardReset low s := by
  cases held : s.rstnLow with
  | true => rw [pass_held ns held]
  | false =>
    rw [pass_awake ns held]
    unfold hardReset
    dsimp only
    rw [Vector.map_map]
    exact congrArg (fun f : Line → Line => { State.reset with
      rstnLow := low, lines := s.lines.map f, store := s.store, freeIndex := s.freeIndex, pending := s.pending })
      (funext (Line.hardReset_pass ns))

/-! ### Held in reset (R205) -/

theorem modLine_get (s : State) (l j : Fin 8) (f : Line → Line) :
    (s.modLine l f).lines[j] = if l = j then f s.lines[j] else s.lines[j] := upd_get ..

theorem lineEvent_held (l : Fin 8) (inReset : Line → Line) (live : State → State) {s : State} (h : s.rstnLow = true) :
    lineEvent l inReset live s = s.modLine l inReset := if_pos h

theorem lineEvent_awake (l : Fin 8) (inReset : Line → Line) (live : State → State) {s : State}
    (h : s.rstnLow = false) : lineEvent l inReset live s = live s := if_neg (by simp [h])

/-- The pins are levels that an event may change while the stages wait. -/
theorem modLine_pins (s : State) (l : Fin 8) {f : Line → Line} (hf : ∀ x : Line, (f x).stage = x.stage) :
    ∃ lines : Vector Line 8, s.modLine l f = { s with lines := lines }
      ∧ ∀ j : Fin 8, lines[j].stage = s.lines[j].stage := by
  refine ⟨_, rfl, fun j => ?_⟩
  rw [upd_get]
  split
  · exact hf _
  · rfl

/-- While RSTN is low an event other than those of the reset itself changes at most the levels of the pins. -/
theorem exec_held {c : Instr} {s : State} (low : s.rstnLow = true) (power : c ≠ .powerOn)
    (falls : ∀ a n, c ≠ .rstnReset a n) (rises : ∀ a, c ≠ .rstnRelease a) :
    ∃ lines : Vector Line 8, exec c s = .next { s with lines := lines }
      ∧ ∀ l : Fin 8, lines[l].stage = s.lines[l].stage := by
  cases c with
  | powerOn => exact absurd rfl power
  | rstnReset a n => exact absurd rfl (falls a n)
  | rstnRelease a => exact absurd rfl (rises a)
  | leadingEdge after l =>
    obtain ⟨lines, changed, stages⟩ := modLine_pins s l (f := Line.riseInReset) fun x => rfl
    refine ⟨lines, ?_, stages⟩
    rw [← changed, exec, execLeadingEdge, pass_held after low, lineEvent_held _ _ _ low]
  | trailingEdge after l =>
    obtain ⟨lines, changed, stages⟩ := modLine_pins s l (f := Line.fallInReset) fun x => rfl
    refine ⟨lines, ?_, stages⟩
    rw [← changed, exec, execTrailingEdge, pass_held after low, lineEvent_held _ _ _ low]
  | passThroughSend cam => exact ⟨s.lines, atOnce_held (fun u => u.modPort cam Port.sendMessage) low, fun l => rfl⟩
  | messageSent after cam =>
    exact ⟨s.lines, timed_held after (fun u => u.modPort cam fun p => { p with lane := p.lane.finishMessage }) low,
      fun l => rfl⟩
  | recordGrant | status | tableRead | stageLoad | stagePatch | commitEnable | commitDisable | commit
  | trackControlEnable | trackControlDisable | abandon | drainOn | drainOff | clearStats | clearConditions | cameraPass
  | reset | unknownCommand => exact ⟨s.lines, atOnce_held _ low, fun l => rfl⟩
  | pulseAccepted | pairTimeout | staleExpiry | quietDeadline | settleExpiry | trigger | rowTimeout | rowFrame
  | cameraNote | cameraLinkUp | cameraLinkDown | uplinkLinkUp | uplinkLinkDown | frameReceived | recordEnd =>
    exact ⟨s.lines, timed_held _ _ low, fun l => rfl⟩

/-! ### RSTN pulses and the release (R205) -/

theorem rstnFalls_long {lowNs : Nat} (h : 1000 ≤ lowNs) (s : State) : rstnFalls lowNs s = hardReset true s := if_pos h

theorem rstnFalls_short_held {lowNs : Nat} (h : lowNs < 1000) {s : State} (low : s.rstnLow = true) :
    rstnFalls lowNs s = s := by
  unfold rstnFalls rstnNs
  rw [if_neg (Nat.not_le.2 h), if_pos low]

theorem rstnFalls_short_awake {lowNs : Nat} (h : lowNs < 1000) {s : State} (high : s.rstnLow = false) :
    rstnFalls lowNs s = shortPulse s := by
  unfold rstnFalls rstnNs
  rw [if_neg (Nat.not_le.2 h), if_neg (by simp [high])]

/-- Which of the two a short pulse does is a free value (log entry 3). -/
theorem shortPulse_cases (s : State) : shortPulse s = { s with freeIndex := s.freeIndex + 1 }
    ∨ shortPulse s = hardReset false { s with freeIndex := s.freeIndex + 1 } := by
  unfold shortPulse
  dsimp only
  split
  · exact .inr rfl
  · exact .inl rfl

theorem rstnRises_high {s : State} (h : s.rstnLow = false) : rstnRises s = s := by
  unfold rstnRises
  rw [← h]

end Sys2Proof.Machine

namespace Sys2Proof.Settled

open Sys2Proof.Machine

/-- Settles O5: the reset, the part held in it, a short pulse while high and while low, and the release. -/
theorem rstnResets : Obligations.RstnResets := by
  refine ⟨⟨fun s after lowNs long => ?_, fun c s low => exec_held low, ?_, fun s after lowNs low short => ?_⟩,
    fun s after low => ?_, fun s after high => ?_⟩
  · rw [exec, execRstnReset, rstnFalls_long long, hardReset_pass]
    rfl
  · rintro s now after lowNs rfl short high
    rw [exec, execRstnReset, rstnFalls_short_awake short high]
    exact (shortPulse_cases (s.pass after)).imp (congrArg Host.Outcome.next) (congrArg Host.Outcome.next)
  · rw [exec, execRstnReset, pass_held after low, rstnFalls_short_held short low]
  · rw [exec, execRstnRelease, pass_held after low]
    rfl
  · rw [exec, execRstnRelease, rstnRises_high (by rw [pass_rstnLow, high])]

end Sys2Proof.Settled
end

section
/-! SUPPORT. The Axle Detection Unit (R21 to R29): edges, accepted pulses, pairing records and the ends of waits, each
said once. -/

namespace Sys2Proof.Machine

/-! ### One line, one station -/

/-- A change that leaves an item as it stands leaves the vector as it stands. -/
theorem upd_of_fixed {α : Type} {n : Nat} {v : Vector α n} {i : Fin n} {f : α → α} (h : f v[i] = v[i]) :
    upd v i f = v := by
  unfold upd
  rw [h]
  exact Vector.set_getElem_self i.isLt

theorem modLine_fixed {s : State} {l : Fin 8} {f : Line → Line} (h : f s.lines[l] = s.lines[l]) :
    s.modLine l f = s := by
  unfold State.modLine
  rw [upd_of_fixed h]

/-- Two changes that do the same to a line are one change of the state. -/
theorem modLine_congr {s : State} {l : Fin 8} {f g : Line → Line} (h : f s.lines[l] = g s.lines[l]) :
    s.modLine l f = s.modLine l g := by
  unfold State.modLine upd
  rw [h]

theorem setStation_fixed {s : State} {i : Fin 4} {w : Option Wait} (h : s.stations[i] = w) : s.setStation i w = s := by
  unfold State.setStation
  rw [upd_of_fixed h.symm]

/-- The lines in order, each with its track, its station and its detector (R21). -/
theorem lineTable_eq :
    [(0, Track.t1, Station.a, Detector.outer), (1, .t1, .a, .inner), (2, .t1, .b, .inner), (3, .t1, .b, .outer),
      (4, .t2, .a, .outer), (5, .t2, .a, .inner), (6, .t2, .b, .inner), (7, .t2, .b, .outer)]
      = (List.finRange 8).map fun l => (l, lineTrack l, lineStation l, lineDetector l) := by decide

/-! ### Edges (R23, R24) -/

theorem Line.rise_rest (now : Stamp) {l : Line} (h : l.active = false) :
    l.rise now = { active := true, stage := .qualifying now 0 } := if_neg (by simp [h])

theorem Line.rise_active (now : Stamp) {l : Line} (h : l.active = true) : l.rise now = l := if_pos h

theorem Line.fall_active {l : Line} (h : l.active = true) : l.fall = { active := false, stage := .ready } := if_pos h

theorem Line.fall_rest {l : Line} (h : l.active = false) : l.fall = l := if_neg (by simp [h])

theorem Line.glitches_iff (l : Line) : l.glitches = true ↔
    l.active = true ∧ ∃ lead elapsed, l.stage = .qualifying lead elapsed ∧ elapsed ≤ 40000 := by
  obtain ⟨active, stage⟩ := l
  cases stage with
  | qualifying lead elapsed =>
    show (active && decide (elapsed ≤ 40000)) = true ↔ _
    simp
  | waitRest | ready | accepted => simp [Line.glitches]

theorem Line.glitches_eq_false {l : Line}
    (h : ∀ lead elapsed, l.active = true → l.stage = .qualifying lead elapsed → 40000 < elapsed) :
    l.glitches = false := by
  rw [← Bool.not_eq_true, Line.glitches_iff]
  rintro ⟨active, lead, elapsed, stage, short⟩
  exact absurd (h lead elapsed active stage) (Nat.not_lt.2 short)

theorem Line.accepts_eq_some {l : Line} {lead : Stamp} {elapsed : Nat} (stage : l.stage = .qualifying lead elapsed)
    (active : l.active = true) (long : 40000 ≤ elapsed) : l.accepts = some lead := by
  unfold Line.accepts
  rw [stage]
  exact if_pos ⟨active, long⟩

theorem Line.accepts_eq_none {l : Line}
    (h : ∀ lead elapsed, l.stage = .qualifying lead elapsed → l.active = false ∨ elapsed < 40000) :
    l.accepts = none := by
  unfold Line.accepts
  split
  · next lead elapsed stage =>
    refine if_neg fun ⟨active, long⟩ => ?_
    rcases h lead elapsed stage with rest | short
    · simp [rest] at active
    · exact absurd long (Nat.not_le.2 short)
  all_goals rfl

theorem trailingEdge_glitch {s : State} {l : Fin 8} (h : s.lines[l].glitches = true) :
    trailingEdge l s = (s.modLine l Line.fall).bumpGlitch l := if_pos h

theorem trailingEdge_other {s : State} {l : Fin 8} (h : s.lines[l].glitches = false) :
    trailingEdge l s = (acceptPulse l s).modLine l Line.fall := if_neg (by rw [h]; exact Bool.false_ne_true)

theorem acceptPulse_none {s : State} {l : Fin 8} (h : s.lines[l].accepts = none) : acceptPulse l s = s := by
  unfold acceptPulse
  rw [h]

/-- A pulse whose 40 µs have passed goes to its station, and its stage waits for the trailing edge (R23). -/
theorem acceptPulse_some {s : State} {l : Fin 8} {lead : Stamp} {elapsed : Nat} (active : s.lines[l].active = true)
    (stage : s.lines[l].stage = .qualifying lead elapsed) (long : 40000 ≤ elapsed) :
    acceptPulse l s = takePulse (lineTrack l) (lineStation l) (lineDetector l) lead
      (s.modLine l fun _ => { active := true, stage := .accepted }) := by
  unfold acceptPulse
  rw [Line.accepts_eq_some stage active long]
  dsimp only
  rw [modLine_congr (g := fun _ => { active := true, stage := .accepted }) (by rw [active])]

/-! ### The clock and the lines -/

/-- The clock and the detector lines stand as they stood. -/
structure ClockKeep (s t : State) : Prop where
  rstnLow : t.rstnLow = s.rstnLow
  time : t.time = s.time
  subUs : t.subUs = s.subUs
  lines : t.lines = s.lines

theorem ClockKeep.refl (s : State) : ClockKeep s s := ⟨rfl, rfl, rfl, rfl⟩

theorem ClockKeep.trans {s t u : State} (a : ClockKeep s t) (b : ClockKeep t u) : ClockKeep s u :=
  ⟨b.rstnLow.trans a.rstnLow, b.time.trans a.time, b.subUs.trans a.subUs, b.lines.trans a.lines⟩

theorem PassagesKeep.clock {s t : State} (h : PassagesKeep s t) : ClockKeep s t := ⟨h.rstnLow, h.time, h.subUs, h.lines⟩

theorem MotionKeep.clock {s t : State} (h : MotionKeep s t) : ClockKeep s t := ⟨h.rstnLow, h.time, h.subUs, h.lines⟩

/-! ### Pairing (R26 to R29) -/

theorem setStation_clock (s : State) (i : Fin 4) (w : Option Wait) : ClockKeep s (s.setStation i w) :=
  ⟨rfl, rfl, rfl, rfl⟩

theorem bumpUnpaired_clock (s : State) (i : Fin 4) : ClockKeep s (s.bumpUnpaired i) := ⟨rfl, rfl, rfl, rfl⟩

theorem takePulse_clear {s : State} {t : Track} {st : Station} (h : s.stations[stationIndex t st] = none) (d : Detector)
    (time : Stamp) : takePulse t st d time s = s.setStation (stationIndex t st) (newWait s t st d time) := by
  unfold takePulse
  rw [h]

/-- A pulse of the other detector completes the pair (R27, R28). -/
theorem takePulse_pair {s : State} {t : Track} {st : Station} {w : Wait} (h : s.stations[stationIndex t st] = some w)
    {d : Detector} (other : w.seen ≠ d) (time : Stamp) :
    takePulse t st d time s = takeCrossing t (pairCrossing st w time) (s.setStation (stationIndex t st) none) := by
  unfold takePulse
  rw [h]
  exact if_neg other

/-- A second pulse of the same detector hands the waiting one on (R27, R28). -/
theorem takePulse_unpaired {s : State} {t : Track} {st : Station} {w : Wait}
    (h : s.stations[stationIndex t st] = some w) (time : Stamp) :
    takePulse t st w.seen time s = takeCrossing t (unpairedCrossing st w)
      ((s.setStation (stationIndex t st) (newWait s t st w.seen time)).bumpUnpaired (stationIndex t st)) := by
  unfold takePulse
  rw [h]
  exact if_pos rfl

theorem pairCrossing_outer (st : Station) {w : Wait} (h : w.seen = .outer) (time : Stamp) :
    pairCrossing st w time =
      { station := st, time := time
        kind := .arrival (axlePace (since time w.first) w.spacing).1
          (axlePace (since time w.first) w.spacing).2 } := by
  unfold pairCrossing
  rw [h]

theorem pairCrossing_inner (st : Station) {w : Wait} (h : w.seen = .inner) (time : Stamp) :
    pairCrossing st w time =
      { station := st, time := w.first
        kind := .departure (axlePace (since time w.first) w.spacing).1
          (axlePace (since time w.first) w.spacing).2 } := by
  unfold pairCrossing
  rw [h]

theorem newWait_none {s : State} {t : Track} (h : s.siteTrack? t = none) (st : Station) (d : Detector) (time : Stamp) :
    newWait s t st d time = none := by
  unfold newWait
  rw [h]
  rfl

theorem newWait_some {s : State} {t : Track} {site : SiteTrack} (h : s.siteTrack? t = some site) (st : Station)
    (d : Detector) (time : Stamp) :
    newWait s t st d time = some
      { seen := d, first := time, spacing := spacingOf site st
        deadline := later time (spacingOf site st * 1000 + 40) } := by
  unfold newWait
  rw [h]
  rfl

theorem takePulse_clock (t : Track) (st : Station) (d : Detector) (time : Stamp) (s : State) :
    ClockKeep s (takePulse t st d time s) := by
  cases h : s.stations[stationIndex t st] with
  | none => rw [takePulse_clear h]; exact setStation_clock ..
  | some w =>
    by_cases same : w.seen = d
    · subst same
      rw [takePulse_unpaired h]
      exact .trans (setStation_clock ..) (.trans (bumpUnpaired_clock ..) (takeCrossing_keeps ..).clock)
    · rw [takePulse_pair h same]
      exact .trans (setStation_clock ..) (takeCrossing_keeps ..).clock

theorem expireWait_clear {s : State} {t : Track} {st : Station} (h : s.stations[stationIndex t st] = none) :
    expireWait t st s = s := by
  unfold expireWait
  rw [h]

theorem expireWait_reached {s : State} {t : Track} {st : Station} {w : Wait}
    (h : s.stations[stationIndex t st] = some w) (past : (s.time - w.deadline).toNat < 2147483648) :
    expireWait t st s = takeCrossing t (unpairedCrossing st w)
      ((s.setStation (stationIndex t st) none).bumpUnpaired (stationIndex t st)) := by
  unfold expireWait
  rw [h]
  exact if_pos (decide_eq_true past)

theorem expireWait_before {s : State} {t : Track} {st : Station} {w : Wait} (h : s.stations[stationIndex t st] = some w)
    (before : 2147483648 ≤ (s.time - w.deadline).toNat) : expireWait t st s = s := by
  unfold expireWait
  rw [h]
  exact if_neg fun past => absurd (of_decide_eq_true past) (Nat.not_lt.2 before)

theorem expireWait_clock (t : Track) (st : Station) (s : State) : ClockKeep s (expireWait t st s) := by
  unfold expireWait
  split
  · exact .refl s
  · split
    · exact .trans (setStation_clock ..) (.trans (bumpUnpaired_clock ..) (takeCrossing_keeps ..).clock)
    · exact .refl s

/-! ### The commands of the lines -/

theorem exec_pulseAccepted (after : Nat) (l : Fin 8) {s : State} (h : (s.pass after).rstnLow = false) :
    exec (.pulseAccepted after l) s = .next (acceptPulse l (s.pass after)) := atOnce_awake _ h

theorem exec_pairTimeout (after : Nat) (t : Track) (st : Station) {s : State} (h : (s.pass after).rstnLow = false) :
    exec (.pairTimeout after t st) s = .next (expireWait t st (s.pass after)) := atOnce_awake _ h

theorem exec_leadingEdge (after : Nat) (l : Fin 8) {s : State} (h : (s.pass after).rstnLow = false) :
    exec (.leadingEdge after l) s = .next ((s.pass after).modLine l (Line.rise (s.pass after).time)) :=
  congrArg Host.Outcome.next (lineEvent_awake _ _ _ h)

theorem exec_trailingEdge (after : Nat) (l : Fin 8) {s : State} (h : (s.pass after).rstnLow = false) :
    exec (.trailingEdge after l) s = .next (trailingEdge l (s.pass after)) :=
  congrArg Host.Outcome.next (lineEvent_awake _ _ _ h)

/-- A PULSE_ACCEPTED that finds no pulse of 40 µs lets its time pass and does nothing more. -/
theorem exec_pulseAccepted_none (after : Nat) {l : Fin 8} {s : State} (h : (s.pass after).lines[l].accepts = none) :
    exec (.pulseAccepted after l) s = .next (s.pass after) := by
  cases low : (s.pass after).rstnLow with
  | true => exact atOnce_held _ low
  | false => rw [exec_pulseAccepted after l low, acceptPulse_none h]

end Sys2Proof.Machine

namespace Sys2Proof.Settled

open Sys2Proof.Machine

/-- Settles O7: each edge by the level and the stage its line has. -/
theorem lineEdges : Obligations.LineEdges := by
  rintro s now after l rfl
  refine ⟨fun high rest => ?_, fun high active => ?_, fun high active qualifies => ?_, ?_, fun high active other => ?_,
    fun high rest => ?_, fun low => ⟨?_, ?_⟩⟩
  · rw [exec_leadingEdge after l high]
    exact congrArg Host.Outcome.next (modLine_congr (Line.rise_rest _ rest))
  · rw [exec_leadingEdge after l high, modLine_fixed (Line.rise_active _ active)]
  · rw [exec_trailingEdge after l high, trailingEdge_glitch ((Line.glitches_iff _).2 ⟨active, qualifies⟩),
      modLine_congr (g := fun _ => { active := false, stage := .ready }) (Line.fall_active active)]
  · rintro high active ⟨lead, elapsed, stage, long⟩ t accepted
    rw [exec_pulseAccepted after l high] at accepted
    obtain rfl := Host.Outcome.next.inj accepted
    have line : (acceptPulse l (s.pass after)).lines[l] = { active := true, stage := .accepted } := by
      rw [acceptPulse_some active stage (Nat.le_of_lt long), (takePulse_clock ..).lines, modLine_get, if_pos rfl]
    have whole : (s.pass after).lines[l].glitches = false :=
      Line.glitches_eq_false fun lead' elapsed' _ stage' => by cases stage.symm.trans stage'; exact long
    refine ⟨line, ?_⟩
    rw [exec_trailingEdge after l high, trailingEdge_other whole,
      modLine_congr (g := fun _ => { active := false, stage := .ready }) (Line.fall_active (by rw [line]))]
  · have whole : (s.pass after).lines[l].glitches = false :=
      Line.glitches_eq_false fun lead elapsed _ stage => absurd stage (other lead elapsed)
    have idle : (s.pass after).lines[l].accepts = none :=
      Line.accepts_eq_none fun lead elapsed stage => absurd stage (other lead elapsed)
    rw [exec_trailingEdge after l high, trailingEdge_other whole, acceptPulse_none idle,
      modLine_congr (g := fun _ => { active := false, stage := .ready }) (Line.fall_active active)]
  · have whole : (s.pass after).lines[l].glitches = false :=
      Line.glitches_eq_false fun _ _ active => by cases rest.symm.trans active
    rw [exec_trailingEdge after l high, trailingEdge_other whole,
      acceptPulse_none (Line.accepts_eq_none fun _ _ _ => .inl rest), modLine_fixed (Line.fall_rest rest)]
  · exact congrArg Host.Outcome.next (lineEvent_held _ _ _ low)
  · exact congrArg Host.Outcome.next (lineEvent_held _ _ _ low)

/-- Settles O8: the accepted pulse in CLEAR with and without a valid site entry, and the pulse that is not accepted. -/
theorem pulseStartsWait : Obligations.PulseStartsWait := by
  refine ⟨?_, ?_⟩
  · rintro s now after l lead elapsed t st d rfl high serves line long clear
    rw [lineTable_eq] at serves
    obtain ⟨l, -, same⟩ := List.mem_map.1 serves
    cases same
    have taken := acceptPulse_some (congrArg Line.active line) (congrArg Line.stage line) long
    rw [takePulse_clear (by exact clear)] at taken
    rw [exec_pulseAccepted after l high, taken]
    refine ⟨fun site entry => ?_, fun invalid => ?_⟩
    · rw [newWait_some (by exact entry)]
      cases lineStation l <;> rfl
    · rw [newWait_none (by exact invalid), setStation_fixed (by exact clear)]
  · rintro s now after l rfl short
    exact exec_pulseAccepted_none after (Line.accepts_eq_none short)

/-- Settles O9: a partner pulse after an outer and after an inner one, and a second pulse of the same detector. -/
theorem pulseEndsWait : Obligations.PulseEndsWait := by
  rintro s now got after l lead elapsed t st w rfl high rfl rfl line long waits rfl
  have taken := acceptPulse_some (congrArg Line.active line) (congrArg Line.stage line) long
  rw [exec_pulseAccepted after l high, taken]
  refine ⟨fun seen inner => ?_, fun seen outer => ?_, fun same => ?_⟩
  · rw [takePulse_pair (by exact waits) (by rw [seen, inner]; decide), pairCrossing_outer _ seen]
    rfl
  · rw [takePulse_pair (by exact waits) (by rw [seen, outer]; decide), pairCrossing_inner _ seen]
    rfl
  · rw [← same, takePulse_unpaired (by exact waits)]
    cases lineStation l <;> rfl

/-- Settles O10: no wait, a deadline reached, and a deadline not reached. -/
theorem waitExpires : Obligations.WaitExpires := by
  rintro s now after t st rfl high
  rw [exec_pairTimeout after t st high]
  refine ⟨fun clear => ?_, fun w waits => ⟨fun past => ?_, fun before => ?_⟩⟩
  · rw [expireWait_clear clear]
  · rw [expireWait_reached waits past]
    rfl
  · rw [expireWait_before waits before]

end Sys2Proof.Settled
end

section
/-! SUPPORT. The clock and the detector lines stay sound (R22, R23, R24, R205): what each kind of command does to
them. -/

namespace Sys2Proof.Machine

/-! ### Lines -/

/-- A pulse is being qualified on an active line only (R23). -/
def Line.Sound (l : Line) : Prop := ∀ lead elapsed, l.stage = .qualifying lead elapsed → l.active = true

theorem Line.Sound.pass {l : Line} (h : l.Sound) (ns : Nat) : (l.pass ns).Sound := by
  unfold Line.pass
  split
  · next lead elapsed stage => exact fun _ _ _ => h lead elapsed stage
  all_goals exact h

theorem Line.Sound.rise {l : Line} (h : l.Sound) (now : Stamp) : (l.rise now).Sound := by
  cases active : l.active with
  | true => rwa [Line.rise_active now active]
  | false => rw [Line.rise_rest now active]; exact fun _ _ _ => rfl

theorem Line.Sound.fall {l : Line} (h : l.Sound) : l.fall.Sound := by
  cases active : l.active with
  | true => rw [Line.fall_active active]; nofun
  | false => rwa [Line.fall_rest active]

variable {s : State}

/-! ### Operations -/

theorem ClockAndLinesSound.keep {t : State} (h : ClockAndLinesSound s) (k : ClockKeep s t) : ClockAndLinesSound t := by
  obtain ⟨subUs, held, heldLines, qualifying⟩ := h
  constructor <;> simpa only [k.rstnLow, k.time, k.subUs, k.lines]

/-- A change of a line while RSTN is high. -/
theorem ClockAndLinesSound.modLine (h : ClockAndLinesSound s) (high : s.rstnLow = false) (l : Fin 8) {f : Line → Line}
    (hf : (f s.lines[l]).Sound) : ClockAndLinesSound (s.modLine l f) := by
  refine ⟨h.subUs, fun low => ?_, fun low => ?_, fun j => ?_⟩
  · cases high.symm.trans low
  · cases high.symm.trans low
  · rw [modLine_get]
    split
    · next same => exact same ▸ hf
    · exact h.qualifying j

/-- A change of a pin's level while RSTN is low: no stage takes a pulse. -/
theorem ClockAndLinesSound.pins (h : ClockAndLinesSound s) (low : s.rstnLow = true) (l : Fin 8) {f : Line → Line}
    (hf : ∀ x : Line, (f x).stage = x.stage) : ClockAndLinesSound (s.modLine l f) := by
  obtain ⟨lines, changed, stages⟩ := modLine_pins s l hf
  have rest (j : Fin 8) : lines[j].stage = .waitRest := (stages j).trans (h.heldLines low j)
  rw [changed]
  exact ⟨h.subUs, h.held, fun _ => rest, fun j lead elapsed stage => by cases (rest j).symm.trans stage⟩

theorem ClockAndLinesSound.pass (h : ClockAndLinesSound s) (ns : Nat) : ClockAndLinesSound (s.pass ns) := by
  cases low : s.rstnLow with
  | true => rwa [pass_held ns low]
  | false =>
    have high : (s.pass ns).rstnLow = false := by rw [pass_rstnLow, low]
    refine ⟨(pass_clock ns low).2, fun now => ?_, fun now => ?_, fun l => ?_⟩
    · cases high.symm.trans now
    · cases high.symm.trans now
    · rw [pass_line ns low]
      exact Line.Sound.pass (h.qualifying l) ns

theorem ClockAndLinesSound.softReset (h : ClockAndLinesSound s) : ClockAndLinesSound (softReset s) := by
  refine ⟨h.subUs, h.held, fun low l => ?_, fun l lead elapsed stage => ?_⟩
  · rw [softReset_line, Line.softReset, h.heldLines low l]
    exact h.heldLines low l
  · rw [softReset_line] at stage
    exact absurd stage (Line.softReset_stage _ lead elapsed)

theorem ClockAndLinesSound.hardReset (low : Bool) (s : State) : ClockAndLinesSound (hardReset low s) := by
  have rest (l : Fin 8) : (Machine.hardReset low s).lines[l].stage = .waitRest := congrArg Line.stage (map_get ..)
  refine ⟨(by decide : 0 < 1000), fun _ => ⟨rfl, rfl⟩, fun _ => rest, fun l lead elapsed stage => ?_⟩
  cases (rest l).symm.trans stage

theorem clockAndLinesSound_closed : MotionClosed ClockAndLinesSound where
  keep k h := h.keep k.clock
  pass ns h := h.pass ns
  softReset h := h.softReset
  hardReset := .hardReset
  rises h := ⟨h.subUs, nofun, nofun, h.qualifying⟩
  ends _ _ _ h := h.keep (endPassage_keeps ..).clock

theorem ClockAndLinesSound.acceptPulse (h : ClockAndLinesSound s) (high : s.rstnLow = false) (l : Fin 8) :
    ClockAndLinesSound (acceptPulse l s) := by
  unfold Machine.acceptPulse
  split
  · exact h
  · refine (h.modLine high l ?_).keep (takePulse_clock ..)
    nofun

theorem acceptPulse_rstnLow (l : Fin 8) (s : State) : (acceptPulse l s).rstnLow = s.rstnLow := by
  unfold acceptPulse
  split
  · rfl
  · exact (takePulse_clock ..).rstnLow

theorem ClockAndLinesSound.trailingEdge (h : ClockAndLinesSound s) (high : s.rstnLow = false) (l : Fin 8) :
    ClockAndLinesSound (trailingEdge l s) := by
  unfold Machine.trailingEdge
  split
  · exact (h.modLine high l (Line.Sound.fall (h.qualifying l))).keep ⟨rfl, rfl, rfl, rfl⟩
  · have accepted := h.acceptPulse high l
    exact accepted.modLine (by rw [acceptPulse_rstnLow, high]) l (Line.Sound.fall (accepted.qualifying l))

/-- An edge: its pin alone while RSTN is low, and what it does while RSTN is high. -/
theorem ClockAndLinesSound.lineEvent (h : ClockAndLinesSound s) (l : Fin 8) {inReset : Line → Line}
    (pin : ∀ x : Line, (inReset x).stage = x.stage) {live : State → State}
    (edge : s.rstnLow = false → ClockAndLinesSound (live s)) : ClockAndLinesSound (lineEvent l inReset live s) := by
  cases low : s.rstnLow with
  | true => rw [lineEvent_held _ _ _ low]; exact h.pins low l pin
  | false => rw [lineEvent_awake _ _ _ low]; exact edge low

theorem staleNow_clock (t : Track) (s : State) : ClockKeep s (staleNow t s) := by
  unfold staleNow
  split
  · split
    · exact (setPassage_keeps ..).passages.clock
    · exact .refl s
  · exact .refl s

/-! ### Every step -/

theorem ClockAndLinesSound.exec (h : ClockAndLinesSound s) (c : Instr) {t : State} (e : exec c s = .next t) :
    ClockAndLinesSound t := by
  have closed := clockAndLinesSound_closed
  cases kind : movesAxles c with
  | false => exact closed.exec kind e h
  | true =>
    cases c with
    | leadingEdge after l =>
      cases e
      have now := h.pass after
      refine now.lineEvent l (inReset := Line.riseInReset) (fun _ => rfl) fun high => ?_
      exact now.modLine high l (Line.Sound.rise (now.qualifying l) _)
    | trailingEdge after l =>
      cases e
      have now := h.pass after
      exact now.lineEvent l (inReset := Line.fallInReset) (fun _ => rfl) fun high => now.trailingEdge high l
    | pulseAccepted after l =>
      have now := h.pass after
      cases low : (s.pass after).rstnLow with
      | true => cases (atOnce_held _ low).symm.trans e; exact now
      | false => cases (exec_pulseAccepted after l low).symm.trans e; exact now.acceptPulse low l
    | pairTimeout after k st => exact closed.timed (fun u hu => hu.keep (expireWait_clock k st u)) e h
    | staleExpiry after k => exact closed.timed (fun u hu => hu.keep (staleNow_clock k u)) e h
    | trigger after cam => exact closed.timed (fun u hu => hu.keep (triggerNow_keeps cam u).passages.clock) e h
    | _ => cases kind

end Sys2Proof.Machine

namespace Sys2Proof.Settled

open Sys2Proof.Machine

/-- Settles O57: time and every command keep the clock and the lines sound. -/
theorem stepsKeepClockAndLinesSound : Obligations.StepsKeepClockAndLinesSound := by
  intro s t sound stepped
  unfold step at stepped
  split at stepped
  · cases stepped; exact sound.pass _
  · next c rest _ => exact (sound.keep (t := { s with pending := rest }) ⟨rfl, rfl, rfl, rfl⟩).exec c stepped

end Sys2Proof.Settled
end

section
/-! SUPPORT. A crossing that counts in at the approach station (R47, R48, R50, R52): the context it leaves, and what its
spacing decides. -/

namespace Sys2Proof.Machine

/-! ### The context -/

/-- ARRIVAL and UNPAIRED at the approach station are what R47 counts in. -/
theorem crossingRole_axleIn {d : Direction} {x : Crossing} (station : x.station = approachStation d)
    (kind : ∀ pace clamped, x.kind ≠ .departure pace clamped) : crossingRole d x = .axleIn := by
  unfold crossingRole
  rw [if_pos station]
  split
  · rfl
  · rfl
  · next pace clamped departure => exact absurd departure (kind pace clamped)

theorem countIn_eq (p : Passage) : p.countIn =
    { p with
      inCount := if p.inCount < 1023 then p.inCount + 1 else p.inCount
      axleOverflow := p.axleOverflow || decide (1023 ≤ p.inCount) } := by
  unfold Passage.countIn countMax
  split
  · next room => simp [Nat.not_le.2 room]
  · next full => simp [Nat.not_lt.1 full]

theorem touch_eq (now : Stamp) (quiet : Nat) (x : Crossing) (p : Passage) : p.touch now quiet x =
    { p with
      quietDeadline := later now (quiet * 1000)
      unpairedSeen := p.unpairedSeen || decide (x.kind = .unpaired)
      paceClamp := p.paceClamp || x.clamped } := rfl

theorem takeCrossingPace_eq (now : Stamp) (hold : Nat) (x : Crossing) (p : Passage) : p.takeCrossingPace now hold x =
    { p with
      paces := (match x.pace with | none => p.paces | some pace => pushPace pace p.paces)
      pace := (match x.pace with
        | none => p.pace
        | some pace => (pushPace pace p.paces).sum / (pushPace pace p.paces).length)
      stale := (match x.pace with | none => p.stale | some _ => false)
      staleDeadline := (match x.pace with
        | none => p.staleDeadline
        | some _ => later now (hold * 1000 + 1)) } := by
  unfold Passage.takeCrossingPace
  cases x.pace <;> rfl

/-- The spacing of an approach crossing after the last entry of a passage's list (R48). -/
def Passage.lastSpacing (x : Crossing) (p : Passage) : Option Nat :=
  p.axles.getLast?.bind fun last => spacingAfter last x

theorem lastSpacing_eq (p : Passage) (x : Crossing) : p.lastSpacing x =
    (match p.axles.getLast?, x.pace with
      | some last, some pace => if last.unpaired then none else some ((x.time - last.time).toNat * 1000 / pace)
      | _, _ => none) := by
  unfold Passage.lastSpacing
  cases p.axles.getLast? with
  | none => rfl
  | some last =>
    dsimp only [Option.bind_some]
    unfold spacingAfter since
    cases x.pace <;> rfl

/-- The context in which an approach crossing has been counted and its pace has been entered (R47, R50, R59). -/
def Passage.paced (now : Stamp) (site : SiteTrack) (x : Crossing) (p : Passage) : Passage :=
  (p.touch now site.quiet x).countIn.takeCrossingPace now site.paceHold x

/-- The context in which it stands in the axle list as well, while there is room (R48). -/
def Passage.entered (now : Stamp) (site : SiteTrack) (x : Crossing) (p : Passage) : Passage :=
  { p.paced now site x with
    axles := if p.axles.length < 128 then p.axles ++ [axleOf x (p.lastSpacing x)] else p.axles }

section
variable (now : Stamp) (site : SiteTrack) (x : Crossing) (p : Passage)

theorem paced_eq : p.paced now site x =
    { p with
      inCount := if p.inCount < 1023 then p.inCount + 1 else p.inCount
      axleOverflow := p.axleOverflow || decide (1023 ≤ p.inCount)
      quietDeadline := later now (site.quiet * 1000)
      unpairedSeen := p.unpairedSeen || decide (x.kind = .unpaired)
      paceClamp := p.paceClamp || x.clamped
      paces := (match x.pace with | none => p.paces | some pace => pushPace pace p.paces)
      pace := (match x.pace with
        | none => p.pace
        | some pace => (pushPace pace p.paces).sum / (pushPace pace p.paces).length)
      stale := (match x.pace with | none => p.stale | some _ => false)
      staleDeadline := (match x.pace with
        | none => p.staleDeadline
        | some _ => later now (site.paceHold * 1000 + 1)) } := by
  rw [Passage.paced, takeCrossingPace_eq, countIn_eq, touch_eq]

theorem paced_axles : (p.paced now site x).axles = p.axles := by rw [paced_eq]

theorem paced_takesSpacing (k : Nat) : takesSpacing (p.paced now site x) k = takesSpacing p k := by
  rw [paced_eq]
  rfl

theorem entered_candidates : (p.entered now site x).candidates = p.candidates := by
  rw [Passage.entered, paced_eq]

end

/-! ### The crossing taken -/

theorem takeCrossing_axleIn {s : State} {t : Track} {x : Crossing} {p : Passage} {site : SiteTrack}
    (active : (s.track t).state = .active p) (entry : s.siteTrack? t = some site)
    (role : crossingRole p.direction x = .axleIn) :
    takeCrossing t x s = appendAxle t x (p.paced s.time site x) s := by
  simp only [takeCrossing, active, entry, crossActive, role, axleIn, Passage.paced]

/-- A crossing whose spacing does not go to matching changes the passage alone (R48, R52). -/
theorem appendAxle_quiet {s : State} {t : Track} {x : Crossing} {p : Passage} {site : SiteTrack}
    (quiet : takesSpacing p p.axles.length = false) :
    appendAxle t x (p.paced s.time site x) s = s.setPassage t (p.entered s.time site x) := by
  unfold appendAxle axlePlaces Passage.entered
  rw [paced_takesSpacing, paced_axles, quiet]
  split
  · rfl
  · exact congrArg (s.setPassage t) (by rw [← paced_axles s.time site x p])

/-- One of the first eight spacings goes to matching while that goes on (R48, R52). -/
theorem appendAxle_matches {s : State} {t : Track} {x : Crossing} {p : Passage} {site : SiteTrack}
    (takes : takesSpacing p p.axles.length = true) : appendAxle t x (p.paced s.time site x) s =
      matchSpacing t p.axles.length (p.lastSpacing x) (p.entered s.time site x) s := by
  obtain ⟨-, le, -⟩ := (takesSpacing_iff ..).1 takes
  have room : p.axles.length < 128 := by omega
  unfold appendAxle axlePlaces Passage.entered
  simp only [paced_takesSpacing, paced_axles, takes, if_pos room, if_true]
  rfl

theorem takesSpacing_eq_false {p : Passage} {k : Nat}
    (h : k = 0 ∨ 8 < k ∨ p.matching ≠ .seeking ∨ p.reversed = true) : takesSpacing p k = false := by
  rw [← Bool.not_eq_true, takesSpacing_iff]
  rintro ⟨pos, le, seeking, forward⟩
  rcases h with zero | above | other | reversed
  · omega
  · omega
  · exact other seeking
  · cases forward.symm.trans reversed

theorem matchSpacing_some (t : Track) (k d : Nat) (p : Passage) (s : State) : matchSpacing t k (some d) p s =
    applyDecision t (decideMatch s.tables.active k (p.candidates.filterMap (testCandidate s.tables.active k d)))
      { p with
        spacingsTaken := k
        candidates := p.candidates.filterMap (testCandidate s.tables.active k d) } s := rfl

end Sys2Proof.Machine

namespace Sys2Proof.Settled

open Sys2Proof.Machine

/-- Settles O14: the context the crossing leaves, and what its spacing decides where it goes to matching. -/
theorem approachAxle : Obligations.ApproachAxle := by
  refine ⟨?_, rfl, rfl, fun x => ⟨fun unpaired => ?_, fun pace clamped pair => ?_⟩⟩
  · rintro s t x p g site k spacing active entry station kind rfl same context
    have spacing_eq : p.lastSpacing x = spacing := (lastSpacing_eq p x).trans same.symm
    have taken := takeCrossing_axleIn active entry (crossingRole_axleIn station kind)
    have entered : g = p.entered s.time site x := by
      rw [context, Passage.entered, paced_eq, spacing_eq]
      rfl
    refine ⟨fun quiet => ?_, fun pos le seeking forward => ?_⟩
    · rw [taken, appendAxle_quiet (takesSpacing_eq_false quiet), entered]
    · rw [appendAxle_matches ((takesSpacing_iff ..).2 ⟨pos, le, seeking, forward⟩), spacing_eq, ← entered] at taken
      rw [taken]
      refine ⟨fun absent => ?_, ?_⟩
      · rw [absent]
        rfl
      · rintro d left present rfl
        rw [present, matchSpacing_some, entered, entered_candidates]
        refine ⟨fun seeking => ?_, fun i matched => ?_, fun fallback => ?_⟩
        · rw [seeking]; rfl
        · rw [matched]; rfl
        · rw [fallback]; rfl
  · simp [Crossing.pace, Crossing.clamped, unpaired]
  · rcases pair with pair | pair <;> simp [Crossing.pace, Crossing.clamped, pair]

end Sys2Proof.Settled
end

section
/-! SUPPORT. Tracks, channels and window plans: what a track's entry and cameras depend on, reports to a window plan as one
change of a track (R57), and what the stop of a track's channels does (R86). -/

namespace Sys2Proof.Machine

/-! ### A track's entry and cameras (R2, R38) -/

theorem siteTrack?_congr {s u : State} (h : u.tables.active.siteTracks = s.tables.active.siteTracks) (t : Track) :
    u.siteTrack? t = s.siteTrack? t := by
  unfold State.siteTrack?
  rw [h]

theorem camerasOf_congr {s u : State} (h : u.tables.active.siteCameras = s.tables.active.siteCameras) (t : Track) :
    u.camerasOf t = s.camerasOf t := by
  unfold State.camerasOf State.siteCamera?
  rw [h]

/-- A camera's site entry names one track. -/
theorem camerasOf_unique {s : State} {t k : Track} {cam : Fin 4} (ht : cam ∈ s.camerasOf t) (hk : cam ∈ s.camerasOf k) :
    k = t := by
  obtain ⟨e, entry, names⟩ := (mem_camerasOf_iff ..).1 ht
  obtain ⟨d, entry', names'⟩ := (mem_camerasOf_iff ..).1 hk
  obtain rfl := Option.some.inj (entry.symm.trans entry')
  exact Option.some.inj (names'.symm.trans names)

/-! ### Updates one after the other -/

theorem upd_upd {α : Type} {n : Nat} (v : Vector α n) (i : Fin n) (f g : α → α) :
    upd (upd v i f) i g = upd v i (g ∘ f) := by
  refine Vector.ext fun j hj => ?_
  have at_j (w : Vector α n) : w[j] = w[(⟨j, hj⟩ : Fin n)] := rfl
  simp only [at_j, upd_get]
  split <;> rfl

theorem upd_congr {α : Type} {n : Nat} {v : Vector α n} {i : Fin n} {f g : α → α} (h : f v[i] = g v[i]) :
    upd v i f = upd v i g := by
  unfold upd
  rw [h]

theorem modTrack_modTrack (s : State) (t : Track) (f g : TrackRec → TrackRec) :
    (s.modTrack t f).modTrack t g = s.modTrack t (g ∘ f) := by
  unfold State.modTrack
  rw [upd_upd]

theorem modTrack_fixed {s : State} {t : Track} {f : TrackRec → TrackRec} (h : f (s.track t) = s.track t) :
    s.modTrack t f = s := by
  unfold State.modTrack
  rw [upd_of_fixed h]

theorem modTrack_congr {s : State} {t : Track} {f g : TrackRec → TrackRec} (h : f (s.track t) = g (s.track t)) :
    s.modTrack t f = s.modTrack t g := by
  unfold State.modTrack
  rw [upd_congr h]

theorem track_congr {s u : State} (h : u.tracks = s.tracks) (k : Track) : u.track k = s.track k := by
  unfold State.track
  rw [h]

theorem modChannel_same (s : State) (c : Fin 4) (f : Channel → Channel) :
    (s.modChannel c f).channels[c] = f s.channels[c] := upd_get_same ..

theorem modChannel_other (s : State) {c d : Fin 4} (ne : d ≠ c) (f : Channel → Channel) :
    (s.modChannel c f).channels[d] = s.channels[d] := upd_get_other _ _ ne.symm

/-! ### The window plan of a track (R45, R57) -/

/-- A track whose passage has its window plan changed; a track without a passage stays as it is. -/
def TrackRec.mapPlan (f : List PlanEntry → List PlanEntry) (r : TrackRec) : TrackRec :=
  match r.state with
  | .active p => { r with state := .active { p with plan := f p.plan } }
  | .off | .idle | .settling _ => r

theorem mapPlan_active {r : TrackRec} {p : Passage} (h : r.state = .active p) (f : List PlanEntry → List PlanEntry) :
    r.mapPlan f = { r with state := .active { p with plan := f p.plan } } := by
  unfold TrackRec.mapPlan
  rw [h]

theorem mapPlan_inactive {r : TrackRec} (h : r.state.isActive = false) (f : List PlanEntry → List PlanEntry) :
    r.mapPlan f = r := by
  unfold TrackRec.mapPlan
  split
  · next p active => rw [active] at h; cases h
  all_goals rfl

theorem mapPlan_stray (f : List PlanEntry → List PlanEntry) (r : TrackRec) : (r.mapPlan f).stray = r.stray := by
  unfold TrackRec.mapPlan
  split <;> rfl

theorem mapPlan_isOn (f : List PlanEntry → List PlanEntry) (r : TrackRec) :
    (r.mapPlan f).state.isOn = r.state.isOn := by
  unfold TrackRec.mapPlan
  split
  · next active => rw [active]; rfl
  all_goals rfl

theorem mapPlan_mapPlan (f g : List PlanEntry → List PlanEntry) :
    TrackRec.mapPlan g ∘ TrackRec.mapPlan f = TrackRec.mapPlan (g ∘ f) := by
  funext r
  cases active : r.state with
  | active p => rw [Function.comp, mapPlan_active active, mapPlan_active active, mapPlan_active rfl]; rfl
  | off | idle | settling =>
    have inactive : r.state.isActive = false := by rw [active]; rfl
    rw [Function.comp, mapPlan_inactive inactive, mapPlan_inactive inactive, mapPlan_inactive inactive]

/-- A plan changed by nothing. -/
theorem mapPlan_id (r : TrackRec) : r.mapPlan id = r := by
  cases active : r.state with
  | active p => rw [mapPlan_active active]; exact congrArg (fun x => ({ r with state := x } : TrackRec)) active.symm
  | off | idle | settling => exact mapPlan_inactive (by rw [active]; rfl) _

/-- A plan changed as `f` does: the passage with the changed plan, if there is one. -/
theorem passage?_mapPlan {s u : State} {t : Track} {f : List PlanEntry → List PlanEntry}
    (h : u.track t = (s.track t).mapPlan f) :
    u.passage? t = (s.passage? t).map fun p => { p with plan := f p.plan } := by
  unfold State.passage?
  rw [h]
  cases active : (s.track t).state with
  | active p => rw [mapPlan_active active]; rfl
  | off | idle | settling => rw [mapPlan_inactive (by rw [active]; rfl), active]; rfl

/-- The tracks after a change of one track's plan. -/
theorem track_mapPlan {s u : State} {t : Track} {f : List PlanEntry → List PlanEntry}
    (h : u.tracks = upd s.tracks (trackIndex t) (TrackRec.mapPlan f)) :
    u.track t = (s.track t).mapPlan f ∧ ∀ k, k ≠ t → u.track k = s.track k := by
  unfold State.track
  rw [h]
  exact ⟨upd_get_same .., fun k ne => upd_get_other _ _ (trackIndex_injective ne)⟩

theorem setPassage_of_passage {s : State} {t : Track} {p : Passage} (h : s.passage? t = some p)
    (f : List PlanEntry → List PlanEntry) :
    s.modTrack t (TrackRec.mapPlan f) = s.setPassage t { p with plan := f p.plan } :=
  modTrack_congr (mapPlan_active ((passage?_eq_some_iff ..).1 h) f)

/-- A report changes the plan of its track's passage, and nothing else (R57). -/
theorem reportWindow_eq (t : Track) (cam : Fin 4) (panto : Nat) (o : PlanOutcome) (s : State) :
    reportWindow t cam panto o s = s.modTrack t (TrackRec.mapPlan (planSet cam panto o)) := by
  unfold reportWindow
  split
  · next none =>
    refine (modTrack_fixed (mapPlan_inactive ?_ _)).symm
    cases active : (s.track t).state with
    | active p => cases ((passage?_eq_some_iff ..).2 active).symm.trans none
    | off | idle | settling => rfl
  · next p held => exact (setPassage_of_passage held _).symm

/-- The plan after some windows, named by camera and pantograph, have come to one outcome (R57). -/
def settlePlan (settled : Fin 4 → Nat → Prop) [∀ c n, Decidable (settled c n)] (o : PlanOutcome)
    (plan : List PlanEntry) : List PlanEntry :=
  plan.map fun e => if settled e.camera e.panto then { e with outcome := o } else e

section
variable (P Q : Fin 4 → Nat → Prop) [∀ c n, Decidable (P c n)] [∀ c n, Decidable (Q c n)] (o : PlanOutcome)

theorem settlePlan_congr (h : ∀ c n, P c n ↔ Q c n) : settlePlan P o = settlePlan Q o := by
  funext plan
  exact List.map_congr_left fun e _ => if_congr (h e.camera e.panto) rfl rfl

theorem settlePlan_none (h : ∀ c n, ¬ P c n) : settlePlan P o = id := by
  funext plan
  simp [settlePlan, h]

theorem settlePlan_settlePlan : settlePlan Q o ∘ settlePlan P o = settlePlan (fun c n => P c n ∨ Q c n) o := by
  funext plan
  simp only [settlePlan, Function.comp, List.map_map]
  refine List.map_congr_left fun e _ => ?_
  by_cases first : P e.camera e.panto
  · simp [first]
  · simp [first]

theorem mem_settlePlan {plan : List PlanEntry} {x : PlanEntry} (h : x ∈ settlePlan P o plan) :
    ∃ e ∈ plan, x.camera = e.camera ∧ x.panto = e.panto
      ∧ ((P e.camera e.panto ∧ x.outcome = o) ∨ (¬ P e.camera e.panto ∧ x = e)) := by
  obtain ⟨e, mem, rfl⟩ := List.mem_map.1 h
  refine ⟨e, mem, ?_⟩
  by_cases settled : P e.camera e.panto
  · simp [settled]
  · simp [settled]

end

/-- The windows of a list on one camera, named by camera and pantograph. -/
abbrev leaves (cam : Fin 4) (gone : List Window) (c : Fin 4) (panto : Nat) : Prop := c = cam ∧ ∃ w ∈ gone, w.panto = panto

theorem planSet_eq (cam : Fin 4) (w : Window) (o : PlanOutcome) :
    planSet cam w.panto o = settlePlan (leaves cam [w]) o := by
  refine settlePlan_congr (fun c n => c = cam ∧ n = w.panto) _ o fun c n => ?_
  simp [leaves, eq_comm]

/-- Reports of one outcome for windows of a camera, one after the other. -/
theorem foldl_reportWindow (t : Track) (cam : Fin 4) (o : PlanOutcome) (gone : List Window) (s : State) :
    gone.foldl (fun s w => reportWindow t cam w.panto o s) s
      = s.modTrack t (TrackRec.mapPlan (settlePlan (leaves cam gone) o)) := by
  induction gone generalizing s with
  | nil => rw [settlePlan_none _ _ (by simp [leaves])]; exact (modTrack_fixed (mapPlan_id _)).symm
  | cons w rest ih =>
    rw [List.foldl_cons, ih, reportWindow_eq, modTrack_modTrack, mapPlan_mapPlan, planSet_eq, settlePlan_settlePlan]
    rw [settlePlan_congr _ (leaves cam (w :: rest)) o fun c n => ?_]
    simp only [leaves, List.mem_cons, List.not_mem_nil, or_false, exists_eq_left, exists_eq_or_imp, and_or_left]

/-! ### The stop of a channel (R86) -/

theorem closeWindow_tracks (cam : Fin 4) (r : CloseReason) (s : State) : (closeWindow cam r s).tracks = s.tracks := by
  unfold closeWindow
  split
  · rfl
  · exact (closeCapture_keeps ..).tracks

/-- A window that closes leaves its channel, and changes no channel otherwise (R76). -/
theorem closeWindow_channels (cam : Fin 4) (r : CloseReason) (s : State) :
    (closeWindow cam r s).channels = upd s.channels cam fun c => { c with openWindow := none } := by
  unfold closeWindow
  split
  · next closed =>
    refine (upd_of_fixed ?_).symm
    rw [← closed]
  · exact (closeCapture_keeps ..).channels

/-- A STOPPED channel: its interval is abandoned, its window list is empty; travel and sequence stand (R86). -/
def Channel.halted (c : Channel) : Channel := { c with run := .stopped, windows := [], openWindow := none }

/-- A channel that is STOPPED has an empty list (R86). -/
def Channel.Clean (c : Channel) : Prop := c.run = .stopped → c.windows = [] ∧ c.openWindow = none

theorem Channel.halted_clean (c : Channel) : c.halted.Clean := fun _ => ⟨rfl, rfl⟩

theorem Channel.Clean.halted {c : Channel} (h : c.Clean) (stopped : c.run = .stopped) : c.halted = c := by
  obtain ⟨windows, open_⟩ := h stopped
  unfold Channel.halted
  rw [← stopped, ← windows, ← open_]

theorem dropWindows_eq (t : Track) (cam : Fin 4) (r : DropReason) (ws : List Window) (s : State) :
    dropWindows t cam r ws s
      = (s.modTrack t (TrackRec.mapPlan (settlePlan (leaves cam ws) (.dropped r)))).modChannel cam fun c =>
          { c with windows := [] } := by
  rw [← foldl_reportWindow]
  induction ws generalizing s with
  | nil => rfl
  | cons w rest ih => exact ih _

/-- A channel that stops while RUNNING: its windows are reported to its track, and its list is empty. -/
theorem stopChannel_running (t : Track) (r : DropReason) {cam : Fin 4} {s : State} (running : s.channels[cam].run ≠ .stopped) :
    stopChannel t r cam s = ((closeWindow cam .short (s.modChannel cam fun c => { c with run := .stopped })).modTrack t
      (TrackRec.mapPlan (settlePlan (leaves cam s.channels[cam].windows) (.dropped r)))).modChannel cam fun c =>
        { c with windows := [] } := by
  have windows : (closeWindow cam .short (s.modChannel cam fun c => { c with run := .stopped })).channels[cam].windows
      = s.channels[cam].windows := by
    rw [closeWindow_channels, upd_get_same, modChannel_same]
  unfold stopChannel
  split
  · next stopped => exact absurd stopped running
  · dsimp only
    rw [windows, dropWindows_eq]

theorem stopChannel_stopped (t : Track) (r : DropReason) {cam : Fin 4} {s : State} (stopped : s.channels[cam].run = .stopped) :
    stopChannel t r cam s = s := by
  unfold stopChannel
  rw [stopped]

theorem stopChannel_tracks (t : Track) (r : DropReason) {cam : Fin 4} {s : State} (clean : s.channels[cam].Clean) :
    (stopChannel t r cam s).tracks = upd s.tracks (trackIndex t)
      (TrackRec.mapPlan (settlePlan (leaves cam s.channels[cam].windows) (.dropped r))) := by
  by_cases stopped : s.channels[cam].run = .stopped
  · rw [stopChannel_stopped t r stopped, settlePlan_none]
    · exact (upd_of_fixed (mapPlan_id _)).symm
    · rw [(clean stopped).1]
      nofun
  · rw [stopChannel_running t r stopped, State.modChannel_tracks, State.modTrack_tracks, closeWindow_tracks,
      State.modChannel_tracks]

theorem stopChannel_channels (t : Track) (r : DropReason) {cam : Fin 4} {s : State} (clean : s.channels[cam].Clean) :
    (stopChannel t r cam s).channels = upd s.channels cam Channel.halted := by
  by_cases stopped : s.channels[cam].run = .stopped
  · rw [stopChannel_stopped t r stopped]
    exact (upd_of_fixed (clean.halted stopped)).symm
  · rw [stopChannel_running t r stopped, State.modChannel_channels, State.modTrack_channels, closeWindow_channels,
      State.modChannel_channels, upd_upd, upd_upd]
    rfl

/-! ### Summaries beside the captures that complete (R196) -/

/-- The summary queue and its counter of lost ones stand as they stood. -/
def SummariesKeep (s u : State) : Prop :=
  u.uplink.summaries = s.uplink.summaries ∧ u.uplink.summariesLost = s.uplink.summariesLost

theorem SummariesKeep.of_eq {s u : State} (h : u.uplink = s.uplink) : SummariesKeep s u := by
  unfold SummariesKeep
  rw [h]
  exact ⟨rfl, rfl⟩

theorem SummariesKeep.trans {s u v : State} (a : SummariesKeep s u) (b : SummariesKeep u v) : SummariesKeep s v :=
  ⟨b.1.trans a.1, b.2.trans a.2⟩

theorem senderTake_uplink (s : State) : (senderTake s).uplink = s.uplink := by
  unfold senderTake
  split
  · split
    · rfl
    · split <;> rfl
  · rfl

theorem conditionClose_summaries (k : Fin 32) (s : State) : SummariesKeep s (conditionClose k s) := by
  unfold conditionClose
  split
  · exact .of_eq rfl
  · refine .trans ?_ (.of_eq (senderTake_uplink _))
    unfold SummariesKeep
    dsimp only
    rw [takeClose_keeps]
    exact ⟨rfl, rfl⟩

theorem closeCapture_summaries (id : CaptureId) (r : CloseReason) (s : State) :
    SummariesKeep s (closeCapture id r s) := by
  unfold closeCapture tryComplete
  split
  · exact .of_eq rfl
  · split
    · exact .of_eq rfl
    · split
      · exact conditionClose_summaries ..
      · exact .of_eq rfl

theorem closeWindow_summaries (cam : Fin 4) (r : CloseReason) (s : State) : SummariesKeep s (closeWindow cam r s) := by
  unfold closeWindow
  split
  · exact .of_eq rfl
  · exact closeCapture_summaries ..

theorem stopChannel_summaries (t : Track) (r : DropReason) (cam : Fin 4) (s : State) :
    SummariesKeep s (stopChannel t r cam s) := by
  by_cases stopped : s.channels[cam].run = .stopped
  · rw [stopChannel_stopped t r stopped]
    exact .of_eq rfl
  · rw [stopChannel_running t r stopped]
    exact closeWindow_summaries ..

theorem together_summaries (s u : State) : SummariesKeep u (together s u) := by
  obtain ⟨l, e⟩ := together_eq s u
  rw [e]
  exact ⟨rfl, rfl⟩

/-! ### The stop of a track's channels (R49, R60) -/

/-- The PENDING windows of the channels of some cameras, named by camera and pantograph. -/
abbrev waitsOn (cams : List (Fin 4)) (channels : Vector Channel 4) (c : Fin 4) (panto : Nat) : Prop :=
  c ∈ cams ∧ ∃ w ∈ channels[c].windows, w.panto = panto

/-- The windows of a channel and, once it has stopped, those of other cameras. -/
theorem waitsOn_cons (cam : Fin 4) (rest : List (Fin 4)) (channels : Vector Channel 4) (c : Fin 4) (panto : Nat) :
    leaves cam channels[cam].windows c panto ∨ waitsOn rest (upd channels cam Channel.halted) c panto
      ↔ waitsOn (cam :: rest) channels c panto := by
  by_cases own : c = cam
  · subst own
    simp [leaves, waitsOn, Channel.halted]
  · have kept : (upd channels cam Channel.halted)[c] = channels[c] := upd_get_other _ _ fun same => own same.symm
    simp [leaves, waitsOn, own, kept]

/-- What the stop of the channels of some cameras does to tables, tracks, channels and summaries. -/
structure ChannelsHalt (t : Track) (r : DropReason) (cams : List (Fin 4)) (s u : State) : Prop where
  tables : u.tables = s.tables
  tracks : u.tracks = upd s.tracks (trackIndex t) (TrackRec.mapPlan (settlePlan (waitsOn cams s.channels) (.dropped r)))
  halted : ∀ cam ∈ cams, u.channels[cam] = s.channels[cam].halted
  others : ∀ cam, cam ∉ cams → u.channels[cam] = s.channels[cam]
  summaries : SummariesKeep s u

theorem foldl_stopChannel_halt (t : Track) (r : DropReason) (cams : List (Fin 4)) {s : State}
    (clean : ∀ cam : Fin 4, s.channels[cam].Clean) :
    ChannelsHalt t r cams s (cams.foldl (fun s cam => stopChannel t r cam s) s) := by
  induction cams generalizing s with
  | nil =>
    refine ⟨rfl, (upd_of_fixed ?_).symm, nofun, fun _ _ => rfl, .of_eq rfl⟩
    rw [settlePlan_none _ _ (by simp [waitsOn])]
    exact mapPlan_id _
  | cons cam rest ih =>
    have channels := stopChannel_channels t r (clean cam)
    have stopped : (stopChannel t r cam s).channels[cam] = s.channels[cam].halted := by rw [channels, upd_get_same]
    have others {c : Fin 4} (ne : c ≠ cam) : (stopChannel t r cam s).channels[c] = s.channels[c] := by
      rw [channels, upd_get_other _ _ ne.symm]
    have next := ih (s := stopChannel t r cam s) fun c => by
      by_cases same : c = cam
      · rw [same, stopped]; exact Channel.halted_clean _
      · rw [others same]; exact clean c
    rw [List.foldl_cons]
    refine ⟨next.tables.trans (stopChannel_keeps ..).tables, ?_, fun c mem => ?_, fun c absent => ?_,
      (stopChannel_summaries ..).trans next.summaries⟩
    · rw [next.tracks, stopChannel_tracks t r (clean cam), upd_upd, mapPlan_mapPlan, channels,
        settlePlan_settlePlan, settlePlan_congr _ _ _ (waitsOn_cons cam rest s.channels)]
    · by_cases later : c ∈ rest
      · rw [next.halted c later]
        by_cases same : c = cam
        · rw [same, stopped]; rfl
        · rw [others same]
      · obtain rfl := (List.mem_cons.1 mem).resolve_right later
        rw [next.others c later, stopped]
    · obtain ⟨ne, absent⟩ := not_or.1 (List.mem_cons.not.1 absent)
      rw [next.others c absent, others ne]

/-- The channels of a track's cameras stop, whatever the order (R49, R60, R86). -/
theorem stopChannels_halt (t : Track) (r : DropReason) {s : State} (clean : ∀ cam : Fin 4, s.channels[cam].Clean) :
    ChannelsHalt t r (s.camerasOf t) s (stopChannels t r s) := by
  obtain ⟨order, perm, -, run⟩ :=
    inFreeOrder_spec Fin.val (fun _ _ => false) (s.camerasOf t) (stopChannel t r) s
  have halt := foldl_stopChannel_halt t r order (s := s.chosen (s.camerasOf t).length) clean
  unfold stopChannels
  rw [run]
  have kept := together_keeps s (order.foldl (fun u cam => stopChannel t r cam u) (s.chosen (s.camerasOf t).length))
  refine ⟨kept.tables.trans halt.tables, ?_, fun cam mem => ?_, fun cam absent => ?_,
    halt.summaries.trans (together_summaries ..)⟩
  · rw [kept.tracks, halt.tracks]
    rw [settlePlan_congr _ (waitsOn (s.camerasOf t) s.channels) _ fun c n => ?_]
    · rfl
    · exact and_congr_left' perm.mem_iff
  · rw [kept.channels, halt.halted cam (perm.mem_iff.2 mem)]
    rfl
  · rw [kept.channels, halt.others cam fun mem => absent (perm.mem_iff.1 mem)]
    rfl

end Sys2Proof.Machine
end

section
/-! SUPPORT. Tracks, channels and window plans in agreement (R49, R55, R57, R65, R66, R76, R77, R86), operation by
operation. -/

namespace Sys2Proof.Machine

/-! ### Channels and the tracks they run for (R65) -/

/-- The track a channel runs for. -/
def Run.track? : Run → Option Track
  | .stopped => none
  | .running t _ _ _ _ => some t

theorem Run.track?_eq_none_iff (r : Run) : r.track? = none ↔ r = .stopped := by
  cases r <;> simp [Run.track?]

theorem Run.track?_eq_some_iff (r : Run) (t : Track) :
    r.track? = some t ↔ ∃ held period off elapsed, r = .running t held period off elapsed := by
  cases r <;> simp [Run.track?]

theorem channelFollows_iff (t : Track) (p : Passage) (c : Channel) :
    channelFollows t p c ↔ c.run.track? = if p.reversed then none else some t := by
  unfold channelFollows
  split
  · exact (Run.track?_eq_none_iff _).symm
  · exact (Run.track?_eq_some_iff _ t).symm

/-- `TracksSound`, by the track each channel runs for. -/
theorem tracksSound_iff (s : State) : TracksSound s ↔
    (∀ t, (s.track t).state.isOn = true → (s.siteTrack? t).isSome = true)
    ∧ (∀ (cam : Fin 4) (t : Track), s.channels[cam].run.track? = some t →
        (s.passage? t).isSome = true ∧ cam ∈ s.camerasOf t)
    ∧ (∀ cam : Fin 4, s.channels[cam].Clean)
    ∧ ∀ (t : Track) (p : Passage), s.passage? t = some p → ∀ cam ∈ s.camerasOf t,
        s.channels[cam].run.track? = if p.reversed then none else some t := by
  refine ⟨fun ⟨entry, running, clean, follows⟩ => ⟨entry, fun cam t run => ?_, clean, fun t p held cam mem => ?_⟩,
    fun ⟨entry, running, clean, follows⟩ => ⟨entry, fun cam t held period off elapsed run => ?_, clean,
      fun t p held cam mem => ?_⟩⟩
  · obtain ⟨held, period, off, elapsed, run⟩ := (Run.track?_eq_some_iff ..).1 run
    exact running cam t held period off elapsed run
  · exact (channelFollows_iff ..).1 (follows t p held cam mem)
  · exact running cam t (by rw [run]; rfl)
  · exact (channelFollows_iff ..).2 (follows t p held cam mem)

/-! ### What the agreement looks at -/

/-- Of tables, tracks and channels, what `TracksSound` looks at stands as it stood. -/
structure RunsKeep (s u : State) : Prop where
  siteTracks : u.tables.active.siteTracks = s.tables.active.siteTracks
  siteCameras : u.tables.active.siteCameras = s.tables.active.siteCameras
  on : ∀ k, (u.track k).state.isOn = true → (s.track k).state.isOn = true
  active : ∀ k, (s.passage? k).isSome = true → (u.passage? k).isSome = true
  reversed : ∀ k q, u.passage? k = some q → ∃ p, s.passage? k = some p ∧ q.reversed = p.reversed
  runs : ∀ c : Fin 4, u.channels[c].run.track? = s.channels[c].run.track?
  clean : ∀ c : Fin 4, s.channels[c].Clean → u.channels[c].Clean

theorem TracksSound.keep {s u : State} (h : TracksSound s) (k : RunsKeep s u) : TracksSound u := by
  obtain ⟨entry, running, clean, follows⟩ := (tracksSound_iff s).1 h
  have cameras := camerasOf_congr k.siteCameras
  refine (tracksSound_iff u).2 ⟨fun t on => ?_, fun cam t run => ?_, fun cam => k.clean cam (clean cam),
    fun t q held cam mem => ?_⟩
  · rw [siteTrack?_congr k.siteTracks]
    exact entry t (k.on t on)
  · rw [k.runs] at run
    obtain ⟨passage, mem⟩ := running cam t run
    exact ⟨k.active t passage, by rwa [cameras]⟩
  · obtain ⟨p, was, same⟩ := k.reversed t q held
    rw [cameras] at mem
    rw [k.runs, same]
    exact follows t p was cam mem

/-- Of tables, passages and channels, what `PlansSound` looks at stands as it stood. -/
structure PlansKeep (s u : State) : Prop where
  siteCameras : u.tables.active.siteCameras = s.tables.active.siteCameras
  headClasses : u.tables.active.headClasses = s.tables.active.headClasses
  plans : ∀ k q, u.passage? k = some q → ∃ p, s.passage? k = some p ∧ q.plan = p.plan ∧ q.matching = p.matching
  windows : ∀ c : Fin 4, u.channels[c].windows = s.channels[c].windows

theorem PlansSound.keep {s u : State} (h : PlansSound s) (k : PlansKeep s u) : PlansSound u := by
  have cameras := camerasOf_congr k.siteCameras
  refine ⟨fun t q held e mem wait => ?_, fun t q held e mem own w listed same => ?_, fun cam => ?_,
    fun t q held seeking => ?_, fun cam w listed => ?_⟩
  · obtain ⟨p, was, plan, -⟩ := k.plans t q held
    rw [cameras, k.windows]
    exact h.pending t p was e (plan ▸ mem) wait
  · obtain ⟨p, was, plan, -⟩ := k.plans t q held
    rw [cameras] at own
    rw [k.windows] at listed
    exact h.listed t p was e (plan ▸ mem) own w listed same
  · rw [k.windows]
    exact h.distinct cam
  · obtain ⟨p, was, plan, matching⟩ := k.plans t q held
    simp only [cameras, k.windows, plan]
    exact h.unplanned t p was (matching ▸ seeking)
  · rw [k.windows] at listed
    simp only [k.headClasses]
    exact h.heads cam w listed

/-- The tracks are sound and, where `planned` says so, the window plans as well. -/
structure TracksAgree (planned : Prop) (s : State) : Prop where
  tracks : TracksSound s
  plans : planned → PlansSound s

/-- Everything that the agreement looks at stands as it stood. -/
structure TracksKeep (s u : State) : Prop where
  toRunsKeep : RunsKeep s u
  toPlansKeep : PlansKeep s u

theorem TracksKeep.of_channels {s u : State} (active : u.tables.active = s.tables.active) (tracks : u.tracks = s.tracks)
    (runs : ∀ c : Fin 4, u.channels[c].run.track? = s.channels[c].run.track?)
    (windows : ∀ c : Fin 4, u.channels[c].windows = s.channels[c].windows)
    (opens : ∀ c : Fin 4, s.channels[c].openWindow = none → u.channels[c].openWindow = none) : TracksKeep s u := by
  have track := track_congr tracks
  have passage (k : Track) : u.passage? k = s.passage? k := passage?_congr (by rw [track])
  refine ⟨⟨by rw [active], by rw [active], fun k on => track k ▸ on, fun k some => passage k ▸ some,
    fun k q held => ⟨q, passage k ▸ held, rfl⟩, runs, fun c clean stopped => ?_⟩,
    ⟨by rw [active], by rw [active], fun k q held => ⟨q, passage k ▸ held, rfl, rfl⟩, windows⟩⟩
  rw [← Run.track?_eq_none_iff, runs, Run.track?_eq_none_iff] at stopped
  obtain ⟨empty, none⟩ := clean stopped
  exact ⟨(windows c).trans empty, opens c none⟩

theorem TracksKeep.of_eq {s u : State} (active : u.tables.active = s.tables.active) (tracks : u.tracks = s.tracks)
    (channels : u.channels = s.channels) : TracksKeep s u :=
  .of_channels active tracks (fun _ => by rw [channels]) (fun _ => by rw [channels]) fun _ none => by rwa [channels]

/-- A change of one channel that keeps its track and its windows, and opens none. -/
theorem TracksKeep.of_channel {s u : State} {cam : Fin 4} {f : Channel → Channel}
    (active : u.tables.active = s.tables.active) (tracks : u.tracks = s.tracks)
    (channels : u.channels = upd s.channels cam f) (run : (f s.channels[cam]).run.track? = s.channels[cam].run.track?)
    (windows : (f s.channels[cam]).windows = s.channels[cam].windows)
    (opens : s.channels[cam].openWindow = none → (f s.channels[cam]).openWindow = none) : TracksKeep s u := by
  have own : u.channels[cam] = f s.channels[cam] := by rw [channels, upd_get_same]
  have other {c : Fin 4} (ne : c ≠ cam) : u.channels[c] = s.channels[c] := by rw [channels, upd_get_other _ _ ne.symm]
  refine .of_channels active tracks (fun c => ?_) (fun c => ?_) fun c none => ?_
  all_goals by_cases same : c = cam
  · rw [same, own, run]
  · rw [other same]
  · rw [same, own, windows]
  · rw [other same]
  · rw [same, own]; exact opens (same ▸ none)
  · rwa [other same]

theorem TracksKeep.modChannel {s : State} {cam : Fin 4} {f : Channel → Channel}
    (run : (f s.channels[cam]).run.track? = s.channels[cam].run.track?)
    (windows : (f s.channels[cam]).windows = s.channels[cam].windows)
    (opens : s.channels[cam].openWindow = none → (f s.channels[cam]).openWindow = none) :
    TracksKeep s (s.modChannel cam f) := .of_channel rfl rfl rfl run windows opens

/-- A context in which the reversal mark, the plan and the match state stand as they stood. -/
structure Passage.SamePlan (p q : Passage) : Prop where
  reversed : q.reversed = p.reversed
  plan : q.plan = p.plan
  matching : q.matching = p.matching

theorem Passage.SamePlan.refl (p : Passage) : p.SamePlan p := ⟨rfl, rfl, rfl⟩

theorem Passage.SamePlan.trans {p q r : Passage} (a : p.SamePlan q) (b : q.SamePlan r) : p.SamePlan r :=
  ⟨b.reversed.trans a.reversed, b.plan.trans a.plan, b.matching.trans a.matching⟩

/-- A context that keeps its reversal mark takes the place of the one before. -/
theorem RunsKeep.setPassage {s : State} {t : Track} {p q : Passage} (held : s.passage? t = some p)
    (same : q.reversed = p.reversed) : RunsKeep s (s.setPassage t q) := by
  refine ⟨rfl, rfl, fun k on => ?_, fun k some => ?_, fun k r now => ?_, fun _ => rfl, fun _ clean => clean⟩
  · by_cases own : k = t
    · rw [own, (passage?_eq_some_iff ..).1 held]; rfl
    · rwa [State.setPassage, track_modTrack_other s own] at on
  · by_cases own : k = t
    · rw [own, passage?_setPassage_same]; rfl
    · rwa [passage?_setPassage_other s own]
  · by_cases own : k = t
    · subst own
      obtain rfl := Option.some.inj ((passage?_setPassage_same ..).symm.trans now)
      exact ⟨p, held, same⟩
    · exact ⟨r, (passage?_setPassage_other s own q).symm.trans now, rfl⟩

/-- A passage changes in what the agreement does not look at. -/
theorem TracksKeep.setPassage {s : State} {t : Track} {p q : Passage} (held : s.passage? t = some p)
    (same : p.SamePlan q) : TracksKeep s (s.setPassage t q) := by
  refine ⟨.setPassage held same.reversed, rfl, rfl, fun k r now => ?_, fun _ => rfl⟩
  by_cases own : k = t
  · subst own
    obtain rfl := Option.some.inj ((passage?_setPassage_same ..).symm.trans now)
    exact ⟨p, held, same.plan, same.matching⟩
  · exact ⟨r, (passage?_setPassage_other s own q).symm.trans now, rfl, rfl⟩

/-- What leaves passages and channels alone, takes no track out of OFF, and leaves the active tables. -/
theorem TracksKeep.of_motion {s u : State} (m : MotionKeep s u) (active : u.tables.active = s.tables.active)
    (on : ∀ k, (u.track k).state.isOn = true → (s.track k).state.isOn = true) : TracksKeep s u where
  toRunsKeep := by
    refine ⟨by rw [active], by rw [active], on, fun k some => by rwa [m.passages],
      fun k q held => ⟨q, m.passages k ▸ held, rfl⟩, fun c => by rw [m.channels], fun c clean => ?_⟩
    rwa [m.channels]
  toPlansKeep :=
    ⟨by rw [active], by rw [active], fun k q held => ⟨q, m.passages k ▸ held, rfl, rfl⟩, fun c => by rw [m.channels]⟩

variable {planned : Prop} {s : State}

theorem TracksAgree.keep {u : State} (h : TracksAgree planned s) (k : TracksKeep s u) : TracksAgree planned u :=
  ⟨h.tracks.keep k.toRunsKeep, fun p => (h.plans p).keep k.toPlansKeep⟩

/-! ### Windows that leave a channel's list (R57, R80) -/

/-- Changes of one channel that keep how it runs, and of one track's plan. -/
structure PlanMoves (t : Track) (cam : Fin 4) (f : List PlanEntry → List PlanEntry) (s u : State) : Prop where
  active : u.tables.active = s.tables.active
  tracks : u.tracks = upd s.tracks (trackIndex t) (TrackRec.mapPlan f)
  runs : ∀ c : Fin 4, u.channels[c].run = s.channels[c].run
  others : ∀ c, c ≠ cam → u.channels[c] = s.channels[c]

theorem PlanMoves.of_channel {u : State} {t : Track} {cam : Fin 4} {f : List PlanEntry → List PlanEntry}
    {g : Channel → Channel} (active : u.tables.active = s.tables.active)
    (tracks : u.tracks = upd s.tracks (trackIndex t) (TrackRec.mapPlan f)) (channels : u.channels = upd s.channels cam g)
    (run : (g s.channels[cam]).run = s.channels[cam].run) : PlanMoves t cam f s u := by
  have other (c : Fin 4) (ne : c ≠ cam) : u.channels[c] = s.channels[c] := by rw [channels, upd_get_other _ _ ne.symm]
  refine ⟨active, tracks, fun c => ?_, other⟩
  by_cases same : c = cam
  · rw [same, channels, upd_get_same, run]
  · rw [other c same]

/-- A plan that changes, with the windows of a RUNNING channel, keeps the tracks sound. -/
theorem PlanMoves.keeps {u : State} {t : Track} {cam : Fin 4} {f : List PlanEntry → List PlanEntry}
    (l : PlanMoves t cam f s u) (running : s.channels[cam].run ≠ .stopped) : RunsKeep s u := by
  obtain ⟨own, others⟩ := track_mapPlan l.tracks
  have passage := passage?_mapPlan own
  have passageOthers {k : Track} (ne : k ≠ t) : u.passage? k = s.passage? k := passage?_congr (by rw [others k ne])
  refine ⟨by rw [l.active], by rw [l.active], fun k on => ?_, fun k some => ?_, fun k q held => ?_,
    fun c => by rw [l.runs], fun c clean => ?_⟩
  · by_cases same : k = t
    · subst same; rwa [own, mapPlan_isOn] at on
    · rwa [others k same] at on
  · by_cases same : k = t
    · subst same; rwa [passage, Option.isSome_map]
    · rwa [passageOthers same]
  · by_cases same : k = t
    · subst same
      rw [passage] at held
      obtain ⟨p, was, rfl⟩ := Option.map_eq_some_iff.1 held
      exact ⟨p, was, rfl⟩
    · exact ⟨q, (passageOthers same).symm.trans held, rfl⟩
  · by_cases same : c = cam
    · subst same
      exact fun stopped => absurd ((l.runs c).symm.trans stopped) running
    · rwa [l.others c same]

/-- Some windows at the front of a channel's list have left it, with one outcome in the plan of their track. -/
structure WindowsLeave (t : Track) (cam : Fin 4) (gone : List Window) (o : PlanOutcome) (s u : State) : Prop
    extends PlanMoves t cam (settlePlan (leaves cam gone) o) s u where
  list : s.channels[cam].windows = gone ++ u.channels[cam].windows

/-- The state in which some windows have left a channel's list with one outcome, and `rest` is left of it. -/
def State.left (s : State) (t : Track) (cam : Fin 4) (gone : List Window) (o : PlanOutcome) (rest : List Window) : State :=
  (s.modTrack t (TrackRec.mapPlan (settlePlan (leaves cam gone) o))).modChannel cam fun c => { c with windows := rest }

theorem WindowsLeave.left {cam : Fin 4} {gone rest : List Window} (list : s.channels[cam].windows = gone ++ rest)
    (t : Track) (o : PlanOutcome) : WindowsLeave t cam gone o s (s.left t cam gone o rest) := by
  refine ⟨.of_channel (g := fun c => { c with windows := rest }) rfl rfl rfl rfl, ?_⟩
  rw [State.left, modChannel_same, list]

/-- Windows that leave with an outcome leave the plans sound: their entries are no longer PENDING. -/
theorem PlansSound.leave {u : State} (h : PlansSound s) {t : Track} {cam : Fin 4} {gone : List Window} {o : PlanOutcome}
    (own : cam ∈ s.camerasOf t) (settled : o ≠ .pending) (l : WindowsLeave t cam gone o s u) : PlansSound u := by
  have cameras (k : Track) : u.camerasOf k = s.camerasOf k := camerasOf_congr (by rw [l.active]) k
  obtain ⟨trackOwn, trackOthers⟩ := track_mapPlan l.tracks
  have passage := passage?_mapPlan trackOwn
  have passageOthers {k : Track} (ne : k ≠ t) : u.passage? k = s.passage? k := passage?_congr (by rw [trackOthers k ne])
  have sub : u.channels[cam].windows.Sublist s.channels[cam].windows := l.list ▸ List.sublist_append_right ..
  have subset {c : Fin 4} {w : Window} (mem : w ∈ u.channels[c].windows) : w ∈ s.channels[c].windows := by
    by_cases same : c = cam
    · subst same; exact sub.mem mem
    · rwa [l.others c same] at mem
  refine ⟨fun k q held x mem wait => ?_, fun k q held x mem camera w listed same => ?_, fun c => ?_,
    fun k q held seeking => ?_, fun c w listed => ?_⟩
  · rw [cameras]
    by_cases same : k = t
    · subst same
      rw [passage] at held
      obtain ⟨p, was, rfl⟩ := Option.map_eq_some_iff.1 held
      obtain ⟨e, old, camera, panto, ⟨-, outcome⟩ | ⟨stays, rfl⟩⟩ := mem_settlePlan _ _ mem
      · exact absurd (outcome.symm.trans wait) settled
      · obtain ⟨camera, w, listed, panto⟩ := h.pending k p was x old wait
        refine ⟨camera, w, ?_, panto⟩
        by_cases here : x.camera = cam
        · subst here
          rw [l.list, List.mem_append] at listed
          exact listed.resolve_left fun gone => stays ⟨rfl, w, gone, panto⟩
        · rwa [l.others _ here]
    · obtain ⟨camera, w, listed, panto⟩ := h.pending k q (passageOthers same ▸ held) x mem wait
      have elsewhere : x.camera ≠ cam := fun here => same (camerasOf_unique own (here ▸ camera))
      exact ⟨camera, w, by rwa [l.others _ elsewhere], panto⟩
  · rw [cameras] at camera
    by_cases here : k = t
    · subst here
      rw [passage] at held
      obtain ⟨p, was, rfl⟩ := Option.map_eq_some_iff.1 held
      obtain ⟨e, old, sameCamera, panto, ⟨⟨rfl, v, gone, left⟩, -⟩ | ⟨-, rfl⟩⟩ := mem_settlePlan _ _ mem
      · -- the window would stand twice in the list
        simp only [sameCamera] at listed
        have distinct := h.distinct e.camera
        rw [l.list, List.map_append, List.nodup_append] at distinct
        refine absurd ?_ (distinct.2.2 v.panto (List.mem_map_of_mem gone) w.panto (List.mem_map_of_mem listed))
        rw [left, same, panto]
      · exact h.listed k p was x old camera w (subset listed) same
    · exact h.listed k q (passageOthers here ▸ held) x mem camera w (subset listed) same
  · by_cases same : c = cam
    · subst same; exact (h.distinct c).sublist (sub.map _)
    · rw [l.others c same]; exact h.distinct c
  · simp only [cameras]
    have none {c : Fin 4} (empty : s.channels[c].windows = []) : u.channels[c].windows = [] := by
      by_cases same : c = cam
      · subst same; exact List.sublist_nil.1 (empty ▸ sub)
      · rw [l.others c same, empty]
    by_cases same : k = t
    · subst same
      rw [passage] at held
      obtain ⟨p, was, rfl⟩ := Option.map_eq_some_iff.1 held
      obtain ⟨plan, empty⟩ := h.unplanned k p was seeking
      exact ⟨by simp [plan, settlePlan], fun c mem => none (empty c mem)⟩
    · obtain ⟨plan, empty⟩ := h.unplanned k q (passageOthers same ▸ held) seeking
      exact ⟨plan, fun c mem => none (empty c mem)⟩
  · simp only [l.active]
    exact h.heads c w (subset listed)

theorem TracksAgree.leave {u : State} (h : TracksAgree planned s) {t : Track} {cam : Fin 4} {gone : List Window}
    {o : PlanOutcome} (running : s.channels[cam].run.track? = some t) (settled : o ≠ .pending)
    (l : WindowsLeave t cam gone o s u) : TracksAgree planned u := by
  obtain ⟨-, own⟩ := ((tracksSound_iff s).1 h.tracks).2.1 cam t running
  refine ⟨h.tracks.keep (l.keeps fun stopped => ?_), fun p => (h.plans p).leave own settled l⟩
  rw [stopped] at running
  cases running

end Sys2Proof.Machine
end

section
/-! SUPPORT. PENDING windows at a trigger (R57, R80 to R82): what each examination does, and the agreement of tracks and
plans through a trigger (R70). -/

namespace Sys2Proof.Machine

variable {planned : Prop} {s : State}

/-! ### PENDING windows in list order (R80) -/

/-- The windows whose close point travel has reached are dropped MISSED, one after the other. -/
theorem examineWindows_missed (t : Track) (cam : Fin 4) (site : SiteCamera) (p : Passage) {travel : Nat}
    {gone : List Window} (missed : ∀ w ∈ gone, w.closePoint ≤ travel) (rest : List Window) (s : State) :
    examineWindows t cam site p travel (gone ++ rest) s = examineWindows t cam site p travel rest
      (gone.foldl (fun s w => reportWindow t cam w.panto (.dropped .missed) s) s) := by
  induction gone generalizing s with
  | nil => rfl
  | cons w gone ih =>
    obtain ⟨first, missed⟩ := List.forall_mem_cons.1 missed
    rw [List.cons_append, examineWindows, if_pos first, ih missed, List.foldl_cons]

theorem examineWindows_opens (t : Track) (cam : Fin 4) (site : SiteCamera) (p : Passage) {travel : Nat} {w : Window}
    (ahead : travel < w.closePoint) (opens : w.late = true ∨ w.openPoint ≤ travel) (rest : List Window) (s : State) :
    examineWindows t cam site p travel (w :: rest) s
      = openWindow t cam site p w (s.modChannel cam fun c => { c with windows := rest }) := by
  rw [examineWindows, if_neg (Nat.not_le.2 ahead), if_pos opens]

theorem examineWindows_stays (t : Track) (cam : Fin 4) (site : SiteCamera) (p : Passage) {travel : Nat} {w : Window}
    (ahead : travel < w.closePoint) (late : w.late = false) (before : travel < w.openPoint) (rest : List Window)
    (s : State) :
    examineWindows t cam site p travel (w :: rest) s = s.modChannel cam fun c => { c with windows := w :: rest } := by
  rw [examineWindows, if_neg (Nat.not_le.2 ahead), if_neg]
  simp [late, before]

/-- A list of windows, cut behind those at its front whose close point travel has reached. -/
theorem split_missed (travel : Nat) (ws : List Window) : ∃ gone rest, ws = gone ++ rest
    ∧ (∀ w ∈ gone, w.closePoint ≤ travel) ∧ ∀ w later, rest = w :: later → travel < w.closePoint := by
  refine ⟨ws.takeWhile fun w => decide (w.closePoint ≤ travel), ws.dropWhile fun w => decide (w.closePoint ≤ travel),
    List.takeWhile_append_dropWhile.symm, fun w mem => ?_, fun w later first => ?_⟩
  · simpa using List.mem_takeWhile_imp mem
  · have stops := List.head?_dropWhile_not (fun w : Window => decide (w.closePoint ≤ travel)) ws
    simpa [first] using stops

/-! ### A window that opens (R81, R82) -/

/-- A capture that is created: the plan entry of its window is OPENED (R57). -/
theorem createCapture_tracks (k : Fin 32) (o : Opening) (s : State) : (createCapture k o s).tracks
    = upd s.tracks (trackIndex o.track) (TrackRec.mapPlan (settlePlan (leaves o.camera [o.window]) (.opened o.id))) := by
  rw [createCapture, reportWindow_eq, planSet_eq]
  rfl

/-- A capture that is created: its channel holds the OPEN window (R84). -/
theorem createCapture_channels (k : Fin 32) (o : Opening) (s : State) : (createCapture k o s).channels
    = upd s.channels o.camera fun c => { c with openWindow := some (newOpenWindow o) } := by
  rw [createCapture, reportWindow_eq]
  rfl

/-- A window takes its slot or none: its entry gets an outcome, and no channel changes but for its OPEN window. -/
theorem takeSlot_settles (t : Track) (cam : Fin 4) (site : SiteCamera) (p : Passage) (head : HeadClass) (w : Window)
    (s : State) : ∃ (o : PlanOutcome) (ow : Option OpenWindow), o ≠ .pending
      ∧ (takeSlot t cam site p head w s).tracks
          = upd s.tracks (trackIndex t) (TrackRec.mapPlan (settlePlan (leaves cam [w]) o))
      ∧ (takeSlot t cam site p head w s).channels = upd s.channels cam fun c => { c with openWindow := ow } := by
  unfold takeSlot
  split
  · refine ⟨.dropped .noSlot, s.channels[cam].openWindow, nofun, ?_, ?_⟩
    · rw [reportWindow_eq, planSet_eq]; rfl
    · rw [reportWindow_eq]; exact (upd_of_fixed rfl).symm
  · refine ⟨.opened _, some _, ?_, createCapture_tracks .., createCapture_channels ..⟩
    nofun

theorem openWindow_settles (t : Track) (cam : Fin 4) (site : SiteCamera) (p : Passage) {w : Window} {head : HeadClass}
    (valid : s.tables.active.headClasses[w.headClass] = some head) :
    ∃ (o : PlanOutcome) (ow : Option OpenWindow), o ≠ .pending
      ∧ (openWindow t cam site p w s).tracks
          = upd s.tracks (trackIndex t) (TrackRec.mapPlan (settlePlan (leaves cam [w]) o))
      ∧ (openWindow t cam site p w s).channels = upd s.channels cam fun c => { c with openWindow := ow } := by
  obtain ⟨o, ow, settled, tracks, channels⟩ := takeSlot_settles t cam site p head w (closeWindow cam .cut s)
  unfold openWindow
  rw [valid]
  refine ⟨o, ow, settled, tracks.trans (by rw [closeWindow_tracks]), channels.trans ?_⟩
  rw [closeWindow_channels, upd_upd]
  rfl

theorem openWindow_unnamed (t : Track) (cam : Fin 4) (site : SiteCamera) (p : Passage) {w : Window}
    (empty : s.tables.active.headClasses[w.headClass] = none) : openWindow t cam site p w s = s := by
  unfold openWindow
  rw [empty]

/-- The first window of a list leaves it and opens, or finds no slot. -/
theorem TracksAgree.openFirst (h : TracksAgree planned s) {t : Track} {cam : Fin 4}
    (running : s.channels[cam].run.track? = some t) (site : SiteCamera) (p : Passage) {w : Window} {rest : List Window}
    (list : s.channels[cam].windows = w :: rest) : TracksAgree planned
      (openWindow t cam site p w (s.modChannel cam fun c => { c with windows := rest })) := by
  cases valid : s.tables.active.headClasses[w.headClass] with
  | none =>
    -- no window of a list names a class that is EMPTY
    rw [openWindow_unnamed (s := s.modChannel cam _) t cam site p valid]
    refine ⟨h.tracks.keep (PlanMoves.keeps (t := t) (cam := cam) (f := id)
      (.of_channel (g := fun c => { c with windows := rest }) rfl ?_ rfl rfl) fun stopped => ?_),
      fun planned => ?_⟩
    · exact (upd_of_fixed (mapPlan_id _)).symm
    · rw [stopped] at running; cases running
    · have named := (h.plans planned).heads cam w (list ▸ List.mem_cons_self)
      rw [valid] at named
      cases named
  | some head =>
    obtain ⟨o, ow, settled, tracks, channels⟩ :=
      openWindow_settles (s := s.modChannel cam fun c => { c with windows := rest }) t cam site p valid
    rw [State.modChannel_channels, upd_upd] at channels
    refine h.leave (gone := [w]) running settled ⟨.of_channel ?_ tracks channels rfl, ?_⟩
    · rw [(openWindow_keeps ..).tables]; rfl
    · rw [channels, upd_get_same, list]; rfl

/-- The windows of a channel are examined: those MISSED leave its list, then at most one that opens. -/
theorem TracksAgree.examineWindows (h : TracksAgree planned s) {t : Track} {cam : Fin 4}
    (running : s.channels[cam].run.track? = some t) (site : SiteCamera) (p : Passage) (travel : Nat) :
    TracksAgree planned (examineWindows t cam site p travel s.channels[cam].windows s) := by
  obtain ⟨gone, rest, list, missed, first⟩ := split_missed travel s.channels[cam].windows
  have dropped := h.leave running (o := .dropped .missed) nofun (.left list t _)
  rw [list, examineWindows_missed t cam site p missed, foldl_reportWindow]
  cases rest with
  | nil => exact dropped
  | cons w later =>
    have ahead := first w later rfl
    by_cases opens : w.late = true ∨ w.openPoint ≤ travel
    · rw [examineWindows_opens t cam site p ahead opens]
      have opened := dropped.openFirst (t := t) (cam := cam) (w := w) (rest := later)
        (by rw [State.left, modChannel_same]; exact running) site p (by rw [State.left, modChannel_same])
      rw [State.left, State.modChannel, State.modChannel_channels, upd_upd] at opened
      exact opened
    · rw [not_or, Bool.not_eq_true, Nat.not_le] at opens
      rw [examineWindows_stays t cam site p ahead opens.1 opens.2]
      exact dropped

/-! ### The trigger (R70) -/

theorem closeWindow_tracksKeep (cam : Fin 4) (r : CloseReason) (s : State) : TracksKeep s (closeWindow cam r s) :=
  .of_channel (by rw [(closeWindow_keeps ..).tables]) (closeWindow_tracks ..) (closeWindow_channels ..) rfl rfl fun _ => rfl

theorem closeReached_tracksKeep (cam : Fin 4) (travel : Nat) (s : State) : TracksKeep s (closeReached cam travel s) := by
  unfold closeReached
  split
  · exact .of_eq rfl rfl rfl
  · split
    · exact closeWindow_tracksKeep ..
    · split
      · exact closeWindow_tracksKeep ..
      · exact .of_eq rfl rfl rfl

theorem tagTrigger_tracksKeep (cam : Fin 4) (pitch : Bool) (s : State) : TracksKeep s (tagTrigger cam pitch s) := by
  unfold tagTrigger
  split
  · exact .of_eq rfl rfl rfl
  · next w opened =>
    have closed {f : Option OpenWindow} (empty : s.channels[cam].openWindow = none) : f = none := by
      cases opened.symm.trans empty
    dsimp only
    split
    · exact .modChannel rfl rfl closed
    · exact .of_channel (f := fun c => { c with openWindow := some { w with tagged := w.tagged + 1 } }) rfl rfl rfl rfl rfl
        closed

theorem issueTrigger_tracksKeep (cam : Fin 4) (site : SiteCamera) (travel : Nat) (s : State) :
    TracksKeep s (issueTrigger cam site travel s) := by
  unfold issueTrigger
  have kept := portTrigger_keeps cam (triggerEntry s cam site travel)
    (s.modChannel cam fun c => { c with sequence := c.sequence + 1 })
  exact .of_channel (f := fun c => { c with sequence := c.sequence + 1 }) (by rw [kept.tables]; rfl) kept.tracks
    kept.channels rfl rfl id

/-- A trigger: travel and the next interval, the close of the OPEN window, the PENDING windows, the tag and the port. -/
theorem TracksAgree.takeTrigger (h : TracksAgree planned s) {cam : Fin 4} {t : Track}
    (running : s.channels[cam].run.track? = some t) (site : SiteCamera) (p : Passage) (period : Nat) (off : Bool)
    (elapsed : Nat) : TracksAgree planned (takeTrigger cam t site p period off elapsed s) := by
  unfold Machine.takeTrigger
  dsimp only
  refine TracksAgree.keep (TracksAgree.keep (TracksAgree.examineWindows ((h.keep ?_).keep
    (closeReached_tracksKeep ..)) ?_ site p _) (tagTrigger_tracksKeep ..)) (issueTrigger_tracksKeep ..)
  · exact .modChannel running.symm rfl id
  · rw [(closeReached_tracksKeep ..).toRunsKeep.runs, modChannel_same]
    rfl

theorem TracksAgree.triggerNow (h : TracksAgree planned s) (cam : Fin 4) : TracksAgree planned (triggerNow cam s) := by
  unfold Machine.triggerNow
  split
  · exact h
  · next running =>
    split
    · split
      · exact h.takeTrigger (by rw [running]; rfl) ..
      · exact h
    · exact h

end Sys2Proof.Machine
end

section
/-! SUPPORT. Window planning (R53 to R56, R77): the windows of a profile on a camera, the list a channel takes, the plan. -/

namespace Sys2Proof.Machine

/-! ### The windows of a pantograph list (R55) -/

theorem mem_planWindows {im : Images} {l : Nat} {unmatched : Bool} {n : Nat} {pantos : List Panto} {w : Window}
    (h : w ∈ planWindows im l unmatched n pantos) :
    n ≤ w.panto ∧ im.headClasses[w.headClass].isSome = true := by
  induction pantos generalizing n with
  | nil => cases h
  | cons p rest ih =>
    unfold planWindows at h
    split at h
    · obtain ⟨above, valid⟩ := ih h
      exact ⟨Nat.le_of_succ_le above, valid⟩
    · next head valid =>
      rcases List.mem_cons.1 h with rfl | later
      · exact ⟨Nat.le_refl n, Option.isSome_iff_exists.2 ⟨head, valid⟩⟩
      · obtain ⟨above, valid⟩ := ih later
        exact ⟨Nat.le_of_succ_le above, valid⟩

/-- No pantograph has two windows on a camera. -/
theorem planWindows_distinct (im : Images) (l : Nat) (unmatched : Bool) (n : Nat) (pantos : List Panto) :
    ((planWindows im l unmatched n pantos).map Window.panto).Nodup := by
  induction pantos generalizing n with
  | nil => exact List.nodup_nil
  | cons p rest ih =>
    unfold planWindows
    split
    · exact ih _
    · refine List.nodup_cons.2 ⟨fun again => ?_, ih _⟩
      obtain ⟨w, later, same⟩ := List.mem_map.1 again
      exact absurd (mem_planWindows later).1 (same ▸ Nat.not_succ_le_self n)

/-! ### The windows a channel takes (R55, R56, R77) -/

theorem mem_takenWindows {travel : Nat} {ws : List Window} {v : Window} :
    v ∈ takenWindows travel ws ↔ ∃ w ∈ ws, travel < w.closePoint ∧ handedWindow travel w = v := by
  simp [takenWindows, orderWindows, and_assoc]

/-- A channel takes at most one window of a pantograph. -/
theorem takenWindows_distinct (travel : Nat) {ws : List Window} (distinct : (ws.map Window.panto).Nodup) :
    ((takenWindows travel ws).map Window.panto).Nodup := by
  have ordered : ((orderWindows ws).map Window.panto).Nodup :=
    ((orderBy_perm _ ws).map Window.panto).nodup_iff.2 distinct
  rw [takenWindows, List.map_map]
  exact ordered.sublist (List.filter_sublist.map _)

/-- A channel after the handover of some windows (R55, R77). -/
def Channel.handed (ws : List Window) (c : Channel) : Channel :=
  { c with windows := c.windows ++ takenWindows c.travel ws }

/-- Cameras given once each have their windows handed over: nothing but their channels changes. -/
theorem foldl_handWindows (p : Passage) (i : Fin 32) (unmatched : Bool) {cams : List (Fin 4)} (once : cams.Nodup)
    (s : State) : ∃ channels : Vector Channel 4,
      cams.foldl (fun s cam => handWindows p i unmatched cam s) s = { s with channels := channels }
      ∧ (∀ cam ∈ cams, channels[cam] = s.channels[cam].handed (cameraWindows s p i unmatched cam))
      ∧ ∀ cam, cam ∉ cams → channels[cam] = s.channels[cam] := by
  induction cams generalizing s with
  | nil => exact ⟨s.channels, rfl, nofun, fun _ _ => rfl⟩
  | cons cam rest ih =>
    obtain ⟨fresh, once⟩ := List.nodup_cons.1 once
    obtain ⟨channels, all, later, unnamed⟩ := ih once (handWindows p i unmatched cam s)
    refine ⟨channels, by rw [List.foldl_cons, all]; rfl, List.forall_mem_cons.2 ⟨?_, fun c mem => ?_⟩, fun c other => ?_⟩
    · exact (unnamed cam fresh).trans (modChannel_same ..)
    · have ne : c ≠ cam := fun same => fresh (same ▸ mem)
      exact (later c mem).trans (congrArg (Channel.handed _) (modChannel_other s ne _))
    · obtain ⟨ne, absent⟩ := not_or.1 (List.mem_cons.not.1 other)
      exact (unnamed c absent).trans (modChannel_other s ne _)

/-- The context at MATCHED or FALLBACK (R53 to R55). -/
def Passage.planned (s : State) (t : Track) (i : Fin 32) (m : MatchState) (p : Passage) : Passage :=
  { p with
    matching := m
    profile := some (i, profileCode s.tables.active i)
    plan := windowPlan s t p i (m == .fallback) }

/-- MATCHED or FALLBACK: the context, the lists of the track's cameras, and nothing else (R53 to R55). -/
theorem planPassage_plans (t : Track) (i : Fin 32) (m : MatchState) (p : Passage) (s : State) :
    ∃ channels : Vector Channel 4,
      planPassage t i m p s = { s.setPassage t (p.planned s t i m) with channels := channels }
      ∧ (∀ cam ∈ s.camerasOf t,
          channels[cam] = s.channels[cam].handed (cameraWindows s p i (m == .fallback) cam))
      ∧ ∀ cam, cam ∉ s.camerasOf t → channels[cam] = s.channels[cam] :=
  foldl_handWindows p i (m == .fallback) (camerasOf_ascending s t).nodup (s.setPassage t (p.planned s t i m))

theorem cameraWindows_distinct (s : State) (p : Passage) (i : Fin 32) (unmatched : Bool) (cam : Fin 4) :
    ((cameraWindows s p i unmatched cam).map Window.panto).Nodup := by
  unfold cameraWindows
  split
  · exact List.nodup_nil
  · exact planWindows_distinct ..

theorem cameraWindows_heads {s : State} {p : Passage} {i : Fin 32} {unmatched : Bool} {cam : Fin 4} {w : Window}
    (h : w ∈ cameraWindows s p i unmatched cam) : s.tables.active.headClasses[w.headClass].isSome = true := by
  unfold cameraWindows at h
  split at h
  · cases h
  · exact (mem_planWindows h).2

theorem mem_windowPlan {s : State} {t : Track} {p : Passage} {i : Fin 32} {unmatched : Bool} {e : PlanEntry} :
    e ∈ windowPlan s t p i unmatched ↔ ∃ cam ∈ s.camerasOf t, ∃ w ∈ cameraWindows s p i unmatched cam,
      planEntry cam s.channels[cam].travel w = e := by
  simp [windowPlan]

theorem planEntry_pending_iff (cam : Fin 4) (travel : Nat) (w : Window) :
    (planEntry cam travel w).outcome = .pending ↔ travel < w.closePoint := by
  unfold planEntry
  dsimp only
  split <;> simp_all

end Sys2Proof.Machine
end

section
/-! SUPPORT. Tracks, channels and window plans in agreement, continued: the start, the course and the end of passages. -/

namespace Sys2Proof.Machine

variable {planned : Prop} {s : State}

/-! ### The plan of a passage (R53 to R55) -/

/-- Running channels take windows: the tracks stay sound (R65, R66). -/
theorem RunsKeep.planPassage {t : Track} {p q : Passage} (held : s.passage? t = some p) (same : q.reversed = p.reversed)
    (running : ∀ cam ∈ s.camerasOf t, s.channels[cam].run ≠ .stopped) (i : Fin 32) (m : MatchState) :
    RunsKeep s (planPassage t i m q s) := by
  obtain ⟨channels, all, handed, others⟩ := planPassage_plans t i m q s
  rw [all]
  refine { RunsKeep.setPassage (q := q.planned s t i m) held same with
    runs := fun cam => ?_, clean := fun cam clean stopped => ?_ }
  · show channels[cam].run.track? = _
    by_cases mem : cam ∈ s.camerasOf t
    · rw [handed cam mem]; rfl
    · rw [others cam mem]
  · change channels[cam].run = _ at stopped
    by_cases mem : cam ∈ s.camerasOf t
    · rw [handed cam mem] at stopped
      exact absurd stopped (running cam mem)
    · show channels[cam].windows = [] ∧ channels[cam].openWindow = none
      rw [others cam mem] at stopped ⊢
      exact clean stopped

/-- The windows handed over are those whose entries are PENDING (R55 to R57, R77). -/
theorem PlansSound.planPassage (h : PlansSound s) {t : Track} {p : Passage} (held : s.passage? t = some p)
    (seeking : p.matching = .seeking) (i : Fin 32) {m : MatchState} (done : m ≠ .seeking) (q : Passage) :
    PlansSound (planPassage t i m q s) := by
  obtain ⟨channels, all, handed, others⟩ := planPassage_plans t i m q s
  obtain ⟨-, empty⟩ := h.unplanned t p held seeking
  have lists {cam : Fin 4} (mem : cam ∈ s.camerasOf t) : channels[cam].windows
      = takenWindows s.channels[cam].travel (cameraWindows s q i (m == .fallback) cam) := by
    rw [handed cam mem, Channel.handed, empty cam mem, List.nil_append]
  rw [all]
  have passage (k : Track) (r : Passage)
      (now : ({ s.setPassage t (q.planned s t i m) with channels := channels } : State).passage? k = some r) :
      (k = t ∧ r = q.planned s t i m) ∨ (k ≠ t ∧ s.passage? k = some r) := by
    by_cases own : k = t
    · subst own
      exact .inl ⟨rfl, (Option.some.inj ((passage?_setPassage_same ..).symm.trans now)).symm⟩
    · exact .inr ⟨own, (passage?_setPassage_other s own _).symm.trans now⟩
  refine ⟨fun k r now e mem wait => ?_, fun k r now e mem own w listed same => ?_, fun cam => ?_,
    fun k r now still => ?_, fun cam w listed => ?_⟩
  · obtain ⟨rfl, rfl⟩ | ⟨ne, was⟩ := passage k r now
    · obtain ⟨cam, own, w, planned, rfl⟩ := mem_windowPlan.1 mem
      refine ⟨own, handedWindow s.channels[cam].travel w, ?_, rfl⟩
      show _ ∈ channels[cam].windows
      rw [lists own]
      exact mem_takenWindows.2 ⟨w, planned, (planEntry_pending_iff ..).1 wait, rfl⟩
    · obtain ⟨camera, w, listed, panto⟩ := h.pending k r was e mem wait
      refine ⟨camera, w, ?_, panto⟩
      show _ ∈ channels[e.camera].windows
      rwa [others _ fun own => ne (camerasOf_unique own camera)]
  · change w ∈ channels[e.camera].windows at listed
    obtain ⟨rfl, rfl⟩ | ⟨ne, was⟩ := passage k r now
    · obtain ⟨cam, mine, v, planned, rfl⟩ := mem_windowPlan.1 mem
      change w ∈ channels[cam].windows at listed
      rw [lists mine] at listed
      obtain ⟨u, planned', ahead, rfl⟩ := mem_takenWindows.1 listed
      obtain rfl : u = v := List.inj_on_of_nodup_map (cameraWindows_distinct s q i _ cam) planned' planned same
      exact (planEntry_pending_iff ..).2 ahead
    · rw [others _ fun mine => ne (camerasOf_unique mine own)] at listed
      exact h.listed k r was e mem own w listed same
  · show (channels[cam].windows.map Window.panto).Nodup
    by_cases mine : cam ∈ s.camerasOf t
    · rw [lists mine]
      exact takenWindows_distinct _ (cameraWindows_distinct ..)
    · rw [others cam mine]
      exact h.distinct cam
  · obtain ⟨rfl, rfl⟩ | ⟨ne, was⟩ := passage k r now
    · exact absurd still done
    · obtain ⟨plan, none⟩ := h.unplanned k r was still
      refine ⟨plan, fun cam camera => ?_⟩
      show channels[cam].windows = []
      rw [others _ fun own => ne (camerasOf_unique own camera)]
      exact none cam camera
  · change w ∈ channels[cam].windows at listed
    by_cases mine : cam ∈ s.camerasOf t
    · rw [lists mine] at listed
      obtain ⟨v, planned, -, rfl⟩ := mem_takenWindows.1 listed
      have valid := cameraWindows_heads planned
      exact valid
    · rw [others cam mine] at listed
      exact h.heads cam w listed

theorem TracksAgree.planPassage (h : TracksAgree planned s) {t : Track} {p q : Passage} (held : s.passage? t = some p)
    (same : p.SamePlan q) (seeking : p.matching = .seeking) (forward : p.reversed = false) (i : Fin 32) {m : MatchState}
    (done : m ≠ .seeking) : TracksAgree planned (planPassage t i m q s) := by
  refine ⟨h.tracks.keep (.planPassage held same.reversed (fun cam mem stopped => ?_) i m),
    fun plans => (h.plans plans).planPassage held seeking i done q⟩
  have follows := ((tracksSound_iff s).1 h.tracks).2.2.2 t p held cam mem
  rw [stopped, forward] at follows
  cases follows

/-! ### Crossings that count (R47, R48, R52) -/

theorem Passage.SamePlan.touch (p : Passage) (now : Stamp) (quiet : Nat) (x : Crossing) :
    p.SamePlan (p.touch now quiet x) := ⟨rfl, rfl, rfl⟩

theorem Passage.SamePlan.countIn (p : Passage) : p.SamePlan p.countIn := by
  rw [countIn_eq]
  exact ⟨rfl, rfl, rfl⟩

theorem Passage.SamePlan.takeCrossingPace (p : Passage) (now : Stamp) (hold : Nat) (x : Crossing) :
    p.SamePlan (p.takeCrossingPace now hold x) := by
  rw [takeCrossingPace_eq]
  exact ⟨rfl, rfl, rfl⟩

theorem TracksAgree.applyDecision (h : TracksAgree planned s) {t : Track} {p q : Passage} (held : s.passage? t = some p)
    (same : p.SamePlan q) (seeking : p.matching = .seeking) (forward : p.reversed = false) (d : Decision) :
    TracksAgree planned (applyDecision t d q s) := by
  cases d with
  | seeking => exact h.keep (.setPassage held same)
  | matched i => exact h.planPassage held same seeking forward i nofun
  | fallback => exact h.planPassage held same seeking forward 0 nofun

theorem TracksAgree.appendAxle (h : TracksAgree planned s) {t : Track} {p q : Passage} (held : s.passage? t = some p)
    (same : p.SamePlan q) (x : Crossing) : TracksAgree planned (appendAxle t x q s) := by
  unfold Machine.appendAxle
  split
  · dsimp only
    split
    · next takes =>
      obtain ⟨-, -, seeking, forward⟩ := (takesSpacing_iff ..).1 takes
      rw [same.matching] at seeking
      rw [same.reversed] at forward
      unfold matchSpacing
      split
      all_goals
        refine h.applyDecision held (same.trans ?_) seeking forward _
        exact ⟨rfl, rfl, rfl⟩
    · exact h.keep (.setPassage held (same.trans ⟨rfl, rfl, rfl⟩))
  · exact h.keep (.setPassage held same)

theorem strayAxle_tracksKeep (t : Track) (s : State) : TracksKeep s (strayAxle t s) := by
  refine .of_motion (strayAxle_motion t s) rfl fun k on => ?_
  by_cases own : k = t
  · subst own; rwa [strayAxle, track_modTrack_same] at on
  · rwa [strayAxle, track_modTrack_other s own] at on

/-! ### Channels that stop (R49, R60, R86) -/

/-- The channels of a track's cameras have stopped, and its passage has ended or is reversed. -/
structure TrackHalts (t : Track) (s u : State) : Prop where
  active : u.tables.active = s.tables.active
  on : (u.track t).state.isOn = true → (s.track t).state.isOn = true
  trackOthers : ∀ k, k ≠ t → u.track k = s.track k
  halted : ∀ cam ∈ s.camerasOf t, u.channels[cam] = s.channels[cam].halted
  others : ∀ cam, cam ∉ s.camerasOf t → u.channels[cam] = s.channels[cam]
  reversed : ∀ q, u.passage? t = some q → q.reversed = true

theorem TracksSound.halt {u : State} (h : TracksSound s) {t : Track} (e : TrackHalts t s u) : TracksSound u := by
  obtain ⟨entry, running, clean, follows⟩ := (tracksSound_iff s).1 h
  have cameras (k : Track) : u.camerasOf k = s.camerasOf k := camerasOf_congr (by rw [e.active]) k
  have passage {k : Track} (ne : k ≠ t) : u.passage? k = s.passage? k := passage?_congr (by rw [e.trackOthers k ne])
  refine (tracksSound_iff u).2 ⟨fun k on => ?_, fun cam k run => ?_, fun cam => ?_, fun k q held cam mem => ?_⟩
  · rw [siteTrack?_congr (s := s) (by rw [e.active])]
    by_cases own : k = t
    · subst own; exact entry k (e.on on)
    · exact entry k (e.trackOthers k own ▸ on)
  · by_cases mine : cam ∈ s.camerasOf t
    · rw [e.halted cam mine] at run; cases run
    · rw [e.others cam mine] at run
      obtain ⟨some, mem⟩ := running cam k run
      have ne : k ≠ t := fun own => mine (own ▸ mem)
      exact ⟨by rwa [passage ne], by rwa [cameras]⟩
  · by_cases mine : cam ∈ s.camerasOf t
    · rw [e.halted cam mine]; exact Channel.halted_clean _
    · rw [e.others cam mine]; exact clean cam
  · rw [cameras] at mem
    by_cases own : k = t
    · subst own
      rw [e.halted cam mem, e.reversed q held]
      rfl
    · rw [e.others cam fun mine => own (camerasOf_unique mine mem)]
      exact follows k q (passage own ▸ held) cam mem

/-- A plan without PENDING entries agrees with channels that have no windows. -/
theorem PlansSound.halt {u : State} (h : PlansSound s) {t : Track} (e : TrackHalts t s u)
    (settled : ∀ q, u.passage? t = some q →
      (∀ x ∈ q.plan, x.outcome ≠ .pending) ∧ (q.matching = .seeking → q.plan = [])) : PlansSound u := by
  have cameras (k : Track) : u.camerasOf k = s.camerasOf k := camerasOf_congr (by rw [e.active]) k
  have passage {k : Track} (ne : k ≠ t) : u.passage? k = s.passage? k := passage?_congr (by rw [e.trackOthers k ne])
  have empty {cam : Fin 4} (mine : cam ∈ s.camerasOf t) : u.channels[cam].windows = [] := by rw [e.halted cam mine]; rfl
  refine ⟨fun k q held x mem wait => ?_, fun k q held x mem own w listed same => ?_, fun cam => ?_,
    fun k q held seeking => ?_, fun cam w listed => ?_⟩
  · by_cases own : k = t
    · subst own; exact absurd wait ((settled q held).1 x mem)
    · obtain ⟨camera, w, listed, panto⟩ := h.pending k q (passage own ▸ held) x mem wait
      refine ⟨by rwa [cameras], w, ?_, panto⟩
      rwa [e.others _ fun mine => own (camerasOf_unique mine camera)]
  · rw [cameras] at own
    by_cases here : k = t
    · subst here
      rw [empty own] at listed
      cases listed
    · rw [e.others _ fun mine => here (camerasOf_unique mine own)] at listed
      exact h.listed k q (passage here ▸ held) x mem own w listed same
  · by_cases mine : cam ∈ s.camerasOf t
    · rw [empty mine]; exact List.nodup_nil
    · rw [e.others cam mine]; exact h.distinct cam
  · simp only [cameras]
    by_cases own : k = t
    · subst own; exact ⟨(settled q held).2 seeking, fun cam => empty⟩
    · obtain ⟨plan, none⟩ := h.unplanned k q (passage own ▸ held) seeking
      refine ⟨plan, fun cam mem => ?_⟩
      rw [e.others cam fun mine => own (camerasOf_unique mine mem)]
      exact none cam mem
  · simp only [e.active]
    by_cases mine : cam ∈ s.camerasOf t
    · rw [empty mine] at listed; cases listed
    · rw [e.others cam mine] at listed
      exact h.heads cam w listed

/-- No entry is PENDING once every window of the passage's channels has come to an outcome. -/
theorem PlansSound.settled (h : PlansSound s) {t : Track} {p : Passage} (held : s.passage? t = some p) {o : PlanOutcome}
    (outcome : o ≠ .pending) :
    ∀ x ∈ settlePlan (waitsOn (s.camerasOf t) s.channels) o p.plan, x.outcome ≠ .pending := by
  intro x mem wait
  obtain ⟨e, old, -, -, ⟨-, now⟩ | ⟨stays, rfl⟩⟩ := mem_settlePlan _ _ mem
  · exact outcome (now.symm.trans wait)
  · exact stays (h.pending t p held x old wait)

theorem TracksSound.clean (h : TracksSound s) (cam : Fin 4) : s.channels[cam].Clean := h.stopped cam

/-- The first reversal of a passage (R49). -/
theorem TracksAgree.markReversed (h : TracksAgree planned s) (t : Track) : TracksAgree planned (markReversed t s) := by
  unfold Machine.markReversed
  split
  · exact h
  · next p held =>
    split
    · exact h
    · have halt := stopChannels_halt t .reversal (s := s.setPassage t { p with reversed := true }) h.tracks.clean
      obtain ⟨own, others⟩ := track_mapPlan halt.tracks
      have passage := passage?_mapPlan own
      rw [passage?_setPassage_same] at passage
      have halts : TrackHalts t s (stopChannels t .reversal (s.setPassage t { p with reversed := true })) := by
        refine ⟨by rw [halt.tables]; rfl, fun _ => ?_, fun k ne => ?_, halt.halted, halt.others, fun q now => ?_⟩
        · rw [(passage?_eq_some_iff ..).1 held]; rfl
        · rw [others k ne, State.setPassage, track_modTrack_other s ne]
        · obtain rfl := Option.some.inj (passage.symm.trans now)
          rfl
      refine ⟨h.tracks.halt halts, fun plans => (h.plans plans).halt halts fun q now => ?_⟩
      obtain rfl := Option.some.inj (passage.symm.trans now)
      refine ⟨(h.plans plans).settled held nofun, fun seeking => ?_⟩
      simp [((h.plans plans).unplanned t p held seeking).1, settlePlan]

/-- The end of a passage, from the state its channels stopped in (R60). -/
theorem endPassage_eq (reason : EndReason) (dest : EndTo) {t : Track} {p : Passage} (held : s.passage? t = some p)
    (clean : ∀ cam : Fin 4, s.channels[cam].Clean) : endPassage t reason dest s = together s
      (((stopChannels t .ended s).modTrack t fun r => { r with state := endState (stopChannels t .ended s) t dest }).modUplink
        (Uplink.pushSummary (summaryOf (stopChannels t .ended s) t reason
          { p with plan := settlePlan (waitsOn (s.camerasOf t) s.channels) (.dropped .ended) p.plan }))) := by
  have passage := passage?_mapPlan (track_mapPlan (stopChannels_halt t .ended clean).tracks).1
  rw [held] at passage
  unfold endPassage
  dsimp only
  rw [passage]
  rfl

theorem endState_inactive (s : State) (t : Track) (dest : EndTo) : (endState s t dest).isActive = false := by
  cases dest <;> rfl

/-- What the end of a passage does to tables, tracks and channels (R60). -/
theorem endPassage_halts (h : TracksSound s) (reason : EndReason) (dest : EndTo) {t : Track} {p : Passage}
    (held : s.passage? t = some p) : TrackHalts t s (endPassage t reason dest s)
      ∧ (endPassage t reason dest s).track t
          = { s.track t with state := endState (stopChannels t .ended s) t dest } := by
  have halt := stopChannels_halt t .ended h.clean
  obtain ⟨own, others⟩ := track_mapPlan halt.tracks
  rw [endPassage_eq reason dest held h.clean]
  generalize summaryOf (stopChannels t .ended s) t reason _ = x
  generalize stopChannels t .ended s = n at halt own others ⊢
  have kept := together_keeps s ((n.modTrack t fun r => { r with state := endState n t dest }).modUplink
    (Uplink.pushSummary x))
  generalize together s _ = u at kept ⊢
  have track : u.track t = { s.track t with state := endState n t dest } := by
    refine (track_congr kept.tracks t).trans ((track_modTrack_same ..).trans ?_)
    rw [own, mapPlan_stray]
  refine ⟨⟨by rw [kept.tables]; exact congrArg Tables.active halt.tables, fun _ => ?_, fun k ne => ?_, fun cam mem => ?_,
    fun cam absent => ?_, fun q now => ?_⟩, track⟩
  · rw [(passage?_eq_some_iff ..).1 held]; rfl
  · exact (track_congr kept.tracks k).trans ((track_modTrack_other _ ne _).trans (others k ne))
  · rw [kept.channels]; exact halt.halted cam mem
  · rw [kept.channels]; exact halt.others cam absent
  · rw [passage?_eq_none (by rw [track]; exact endState_inactive ..)] at now
    cases now

theorem TracksAgree.endPassage (h : TracksAgree planned s) (reason : EndReason) (dest : EndTo) {t : Track} {p : Passage}
    (held : s.passage? t = some p) : TracksAgree planned (endPassage t reason dest s) := by
  obtain ⟨halts, track⟩ := endPassage_halts h.tracks reason dest held
  refine ⟨h.tracks.halt halts, fun plans => (h.plans plans).halt halts fun q now => ?_⟩
  rw [passage?_eq_none (by rw [track]; exact endState_inactive ..)] at now
  cases now

/-! ### Crossings (R43 to R49) -/

theorem TracksAgree.axleOut (h : TracksAgree planned s) {t : Track} {p q : Passage} (held : s.passage? t = some p)
    (same : p.SamePlan q) (site : SiteTrack) (x : Crossing) : TracksAgree planned (axleOut t site x q s) := by
  have paced := same.trans (.takeCrossingPace q s.time site.paceHold x)
  unfold Machine.axleOut
  dsimp only
  split
  · have counted := h.keep (.setPassage held (paced.trans (r := { q.takeCrossingPace s.time site.paceHold x with
      outCount := q.outCount + 1 }) ⟨rfl, rfl, rfl⟩))
    split
    · exact counted.endPassage _ _ (passage?_setPassage_same ..)
    · exact counted
  · exact (h.keep (.setPassage held paced)).keep (strayAxle_tracksKeep ..)

theorem TracksAgree.backOut (h : TracksAgree planned s) {t : Track} {p q : Passage} (held : s.passage? t = some p)
    (same : p.SamePlan q) : TracksAgree planned (backOut t q s) := by
  unfold Machine.backOut
  refine TracksAgree.markReversed ?_ t
  split
  · exact h.keep (.setPassage held (same.trans ⟨rfl, rfl, rfl⟩))
  · exact (h.keep (.setPassage held same)).keep (strayAxle_tracksKeep ..)

theorem TracksAgree.backIn (h : TracksAgree planned s) {t : Track} {p q : Passage} (held : s.passage? t = some p)
    (same : p.SamePlan q) : TracksAgree planned (backIn t q s) := by
  unfold Machine.backIn
  refine TracksAgree.markReversed ?_ t
  split
  · exact h.keep (.setPassage held (same.trans ⟨rfl, rfl, rfl⟩))
  · exact (h.keep (.setPassage held same)).keep (strayAxle_tracksKeep ..)

theorem TracksAgree.crossActive (h : TracksAgree planned s) {t : Track} {p : Passage} (held : s.passage? t = some p)
    (site : SiteTrack) (x : Crossing) : TracksAgree planned (crossActive t site x p s) := by
  have touched := Passage.SamePlan.touch p s.time site.quiet x
  unfold Machine.crossActive
  dsimp only
  split
  · exact h.appendAxle held ((touched.trans (.countIn _)).trans (.takeCrossingPace ..)) x
  · exact h.axleOut held touched site x
  · exact h.backOut held touched
  · exact h.backIn held touched

/-- A passage has begun: the channels of the track's cameras run for it, with empty lists (R44, R66). -/
structure TrackStarts (t : Track) (q : Passage) (s u : State) : Prop where
  active : u.tables.active = s.tables.active
  passage : u.passage? t = some q
  trackOthers : ∀ k, k ≠ t → u.track k = s.track k
  runs : ∀ cam ∈ s.camerasOf t, u.channels[cam].run.track? = some t
  empty : ∀ cam ∈ s.camerasOf t, u.channels[cam].windows = []
  others : ∀ cam, cam ∉ s.camerasOf t → u.channels[cam] = s.channels[cam]

theorem TrackStarts.passage_cases {u : State} {t : Track} {q : Passage} (e : TrackStarts t q s u) {k : Track}
    {r : Passage} (now : u.passage? k = some r) : (k = t ∧ r = q) ∨ (k ≠ t ∧ s.passage? k = some r) := by
  by_cases own : k = t
  · exact .inl ⟨own, Option.some.inj (now.symm.trans (own ▸ e.passage))⟩
  · exact .inr ⟨own, (passage?_congr (by rw [e.trackOthers k own])).symm.trans now⟩

theorem TracksSound.start {u : State} (h : TracksSound s) {t : Track} {q : Passage} (e : TrackStarts t q s u)
    (named : (s.siteTrack? t).isSome = true) (forward : q.reversed = false) : TracksSound u := by
  obtain ⟨entry, running, clean, follows⟩ := (tracksSound_iff s).1 h
  have cameras (k : Track) : u.camerasOf k = s.camerasOf k := camerasOf_congr (by rw [e.active]) k
  refine (tracksSound_iff u).2 ⟨fun k on => ?_, fun cam k run => ?_, fun cam => ?_, fun k r now cam mem => ?_⟩
  · rw [siteTrack?_congr (s := s) (by rw [e.active])]
    by_cases own : k = t
    · rwa [own]
    · exact entry k (e.trackOthers k own ▸ on)
  · rw [cameras]
    by_cases mine : cam ∈ s.camerasOf t
    · obtain rfl : t = k := Option.some.inj ((e.runs cam mine).symm.trans run)
      exact ⟨by rw [e.passage]; rfl, mine⟩
    · rw [e.others cam mine] at run
      obtain ⟨some, mem⟩ := running cam k run
      have ne : k ≠ t := fun own => mine (own ▸ mem)
      have same : u.passage? k = s.passage? k := passage?_congr (by rw [e.trackOthers k ne])
      exact ⟨by rwa [same], mem⟩
  · by_cases mine : cam ∈ s.camerasOf t
    · exact fun stopped => nomatch ((Run.track?_eq_none_iff _).2 stopped).symm.trans (e.runs cam mine)
    · rw [e.others cam mine]
      exact clean cam
  · rw [cameras] at mem
    obtain ⟨rfl, rfl⟩ | ⟨ne, was⟩ := e.passage_cases now
    · rw [e.runs cam mem, forward]
      rfl
    · rw [e.others cam fun mine => ne (camerasOf_unique mine mem)]
      exact follows k r was cam mem

/-- A passage that begins has no plan (R44). -/
theorem PlansSound.start {u : State} (h : PlansSound s) {t : Track} {q : Passage} (e : TrackStarts t q s u)
    (unplanned : q.plan = []) : PlansSound u := by
  have cameras (k : Track) : u.camerasOf k = s.camerasOf k := camerasOf_congr (by rw [e.active]) k
  refine ⟨fun k r now x mem wait => ?_, fun k r now x mem own w listed same => ?_, fun cam => ?_,
    fun k r now seeking => ?_, fun cam w listed => ?_⟩
  · obtain ⟨rfl, rfl⟩ | ⟨ne, was⟩ := e.passage_cases now
    · rw [unplanned] at mem
      cases mem
    · obtain ⟨camera, w, listed, panto⟩ := h.pending k r was x mem wait
      refine ⟨by rwa [cameras], w, ?_, panto⟩
      rwa [e.others _ fun mine => ne (camerasOf_unique mine camera)]
  · rw [cameras] at own
    obtain ⟨rfl, rfl⟩ | ⟨ne, was⟩ := e.passage_cases now
    · rw [unplanned] at mem
      cases mem
    · rw [e.others _ fun mine => ne (camerasOf_unique mine own)] at listed
      exact h.listed k r was x mem own w listed same
  · by_cases mine : cam ∈ s.camerasOf t
    · rw [e.empty cam mine]; exact List.nodup_nil
    · rw [e.others cam mine]; exact h.distinct cam
  · simp only [cameras]
    obtain ⟨rfl, rfl⟩ | ⟨ne, was⟩ := e.passage_cases now
    · exact ⟨unplanned, fun cam => e.empty cam⟩
    · obtain ⟨plan, none⟩ := h.unplanned k r was seeking
      refine ⟨plan, fun cam mem => ?_⟩
      rw [e.others cam fun mine => ne (camerasOf_unique mine mem)]
      exact none cam mem
  · simp only [e.active]
    by_cases mine : cam ∈ s.camerasOf t
    · rw [e.empty cam mine] at listed; cases listed
    · rw [e.others cam mine] at listed
      exact h.heads cam w listed

theorem startChannels_starts (t : Track) (pace : Nat) (q : Passage) (s : State) :
    TrackStarts t q s (startChannels t pace (s.entered t q)) := by
  obtain ⟨channels, all, started, others⟩ := startChannels_start t pace (s.entered t q)
  have run {cam : Fin 4} (mine : cam ∈ s.camerasOf t) : ∃ e, channels[cam] = s.channels[cam].started t pace e := by
    obtain ⟨e, named, -⟩ := (mem_camerasOf_iff ..).1 mine
    exact ⟨e, started cam mine e named⟩
  rw [all]
  refine ⟨rfl, passage?_setPassage_same .., fun k ne => State.entered_track_other s ne q, fun cam mine => ?_,
    fun cam mine => ?_, others⟩
  · obtain ⟨e, anew⟩ := run mine
    exact congrArg (Run.track? ∘ Channel.run) anew
  · obtain ⟨e, anew⟩ := run mine
    exact congrArg Channel.windows anew

/-- The start of a passage: its channels run for it, and there is no plan yet (R44, R66). -/
theorem TracksAgree.startPassage (h : TracksAgree planned s) (t : Track) (x : Crossing) (pace : Nat) :
    TracksAgree planned (startPassage t x pace s) := by
  unfold Machine.startPassage
  split
  · exact h
  · next site entry =>
    have starts := startChannels_starts t pace (newPassage s site x pace) s
    exact ⟨h.tracks.start starts (by rw [entry]; rfl) rfl, fun plans => (h.plans plans).start starts rfl⟩

theorem TracksAgree.takeCrossing (h : TracksAgree planned s) (t : Track) (x : Crossing) :
    TracksAgree planned (takeCrossing t x s) := by
  unfold Machine.takeCrossing
  split
  · exact h.keep (strayAxle_tracksKeep ..)
  · exact h.keep (strayAxle_tracksKeep ..)
  · unfold crossIdle
    split
    · exact h.startPassage ..
    · exact h.keep (strayAxle_tracksKeep ..)
    · exact h.keep (strayAxle_tracksKeep ..)
  · next p active =>
    split
    · exact h
    · exact h.crossActive ((passage?_eq_some_iff ..).2 active) ..

theorem TracksAgree.staleNow (h : TracksAgree planned s) (t : Track) : TracksAgree planned (staleNow t s) := by
  unfold Machine.staleNow
  split
  · next held _ =>
    split
    · exact h.keep (.setPassage held ⟨rfl, rfl, rfl⟩)
    · exact h
  · exact h

theorem TracksAgree.quietNow (h : TracksAgree planned s) (t : Track) : TracksAgree planned (quietNow t s) := by
  unfold Machine.quietNow
  split
  · exact h
  · next held =>
    split
    · exact h.endPassage _ _ held
    · exact h

end Sys2Proof.Machine
end

section
/-! SUPPORT. Tracks, channels and window plans in agreement, continued: time, the resets, the uplink and COMMIT. -/

namespace Sys2Proof.Machine

variable {planned : Prop} {s : State}

/-! ### What leaves tracks and channels alone -/

theorem FrameKeeps.tracksKeep {u : State} (h : FrameKeeps s u) : TracksKeep s u :=
  .of_eq (by rw [h.tables]) h.tracks h.channels

theorem RowsKeep.tracksKeep {u : State} (h : RowsKeep s u) : TracksKeep s u := h.frame.tracksKeep

theorem CapturesKeep.tracksKeep {u : State} (h : CapturesKeep s u) : TracksKeep s u := h.toRowsKeep.tracksKeep

theorem setUplink_tracksKeep (s : State) (u : Uplink) : TracksKeep s { s with uplink := u } := .of_eq rfl rfl rfl

theorem cameraUp_tracksKeep (cam : Fin 4) (heldNs : Nat) (s : State) : TracksKeep s (cameraUp cam heldNs s) := by
  unfold cameraUp
  split
  · exact .of_eq rfl rfl rfl
  · exact (modPort_keeps ..).tracksKeep

theorem cameraDown_tracksKeep (cam : Fin 4) (inReception : Bool) (s : State) :
    TracksKeep s (cameraDown cam inReception s) := by
  unfold cameraDown
  split
  · exact (modPort_keeps ..).tracksKeep
  · exact .of_eq rfl rfl rfl

theorem uplinkUp_tracksKeep (heldNs : Nat) (s : State) : TracksKeep s (uplinkUp heldNs s) := by
  unfold uplinkUp
  split
  · exact .of_eq rfl rfl rfl
  · exact setUplink_tracksKeep ..

theorem frameArrives_tracksKeep (fresh : Bool) (frame : List Byte) (s : State) :
    TracksKeep s (frameArrives fresh frame s) := by
  unfold frameArrives
  split
  · exact setUplink_tracksKeep ..
  · exact .of_eq rfl rfl rfl

theorem settleNow_tracksKeep (t : Track) (s : State) : TracksKeep s (settleNow t s) := by
  refine .of_motion (settleNow_motion t s) (by rw [settleNow_tables]) fun k on => ?_
  unfold settleNow at on
  split at on
  · next deadline settling =>
    split at on
    · by_cases own : k = t
      · rw [own, settling]; rfl
      · rwa [track_modTrack_other s own] at on
    · exact on
  all_goals exact on

theorem grantClass_tracks (c : TxClass) (s : State) : (grantClass c s).tracks = s.tracks := by
  cases c with
  | capture =>
    unfold grantClass grantCapture
    dsimp only
    split
    · rfl
    · split <;> rfl
  | reply | alert | summary | note => unfold grantClass; dsimp only; split <;> rfl

theorem grant_tracksKeep (s : State) : TracksKeep s (grant s) := by
  refine .of_eq (by rw [grant_tables]) ?_ (grant_motion s).channels
  unfold grant
  split
  · unfold grantNext
    split
    · rfl
    · exact grantClass_tracks ..
  · rfl

theorem senderEnd_tracksKeep (kind : TxKind) (s : State) : TracksKeep s (senderEnd kind s) := by
  refine .of_eq (by rw [senderEnd_tables]) ?_ (senderEnd_motion kind s).channels
  unfold senderEnd
  split
  · rfl
  · cases kind with
    | header | reply | alert | summary | note => rfl
    | block rows =>
      unfold releaseHead
      dsimp only
      split
      · split
        · rfl
        · split <;> rfl
      · rfl
    | captureEnd => exact (senderTake_keeps _).tracks

theorem cutRecord_tracksKeep (x : Option Transmission) (s : State) : TracksKeep s (cutRecord x s) := by
  cases x with
  | none => exact .of_eq rfl rfl rfl
  | some x => exact senderEnd_tracksKeep ..

/-! ### Time and the resets -/

theorem pass_tracks (s : State) (ns : Nat) : (s.pass ns).tracks = s.tracks := by
  unfold State.pass
  split <;> rfl

theorem pass_tracksKeep (s : State) (ns : Nat) : TracksKeep s (s.pass ns) := by
  cases low : s.rstnLow with
  | true => rw [pass_held ns low]; exact .of_eq rfl rfl rfl
  | false =>
    refine .of_channels (by rw [pass_tables]) (pass_tracks s ns) (fun c => ?_) (fun c => ?_) fun c none => ?_
    all_goals rw [pass_channel ns low, Channel.pass]
    · split
      · rfl
      · next running => rw [running]; rfl
    · split <;> rfl
    · split <;> exact none

/-- With every track in OFF and every channel at rest, there is nothing to agree on. -/
theorem TracksAgree.of_off (off : ∀ k, (s.track k).state = .off) (rest : ∀ c : Fin 4, s.channels[c].halted = s.channels[c]) :
    TracksAgree planned s := by
  have none (k : Track) : s.passage? k = Option.none := passage?_eq_none (by rw [off]; rfl)
  refine ⟨(tracksSound_iff s).2 ⟨fun k on => ?_, fun cam k run => ?_, fun cam => ?_, fun k p held => ?_⟩, fun _ =>
    ⟨fun k p held => ?_, fun k p held => ?_, fun cam => ?_, fun k p held => ?_, fun cam w listed => ?_⟩⟩
  · rw [off] at on; cases on
  · rw [← rest] at run; cases run
  · rw [← rest]; exact Channel.halted_clean _
  · cases (none k).symm.trans held
  · cases (none k).symm.trans held
  · cases (none k).symm.trans held
  · rw [← rest]; exact List.nodup_nil
  · cases (none k).symm.trans held
  · rw [← rest] at listed; cases listed

theorem TracksAgree.softReset (s : State) : TracksAgree planned (softReset s) :=
  .of_off (fun k => by rw [softReset_track]) fun c => by rw [softReset_channel]; rfl

theorem TracksAgree.hardReset (low : Bool) (s : State) : TracksAgree planned (hardReset low s) :=
  TracksAgree.keep (s := State.reset) ⟨reset_tracksSound, fun _ => reset_plansSound⟩ (.of_eq rfl rfl rfl)

theorem TracksAgree.rstnFalls (h : TracksAgree planned s) (lowNs : Nat) : TracksAgree planned (rstnFalls lowNs s) := by
  unfold Machine.rstnFalls
  split
  · exact .hardReset ..
  · split
    · exact h
    · rcases shortPulse_cases s with counted | reset
      · rw [counted]; exact h.keep (.of_eq rfl rfl rfl)
      · rw [reset]; exact (TracksAgree.hardReset false s).keep (.of_eq rfl rfl rfl)

/-! ### The uplink -/

theorem TracksAgree.recordEndNow (h : TracksAgree planned s) : TracksAgree planned (recordEndNow s) := by
  unfold Machine.recordEndNow
  split
  · exact h
  · next x _ =>
    split
    · have sent := h.keep (setUplink_tracksKeep s { s.uplink with transmitter := none })
      unfold recordEnds
      cases x.kind with
      | reply code =>
        dsimp only
        split
        · exact .softReset _
        · exact sent
      | alert | summary | note => exact sent
      | header | block | captureEnd => exact sent.keep (senderEnd_tracksKeep ..)
    · exact h

theorem TracksAgree.uplinkDown (h : TracksAgree planned s) (inReception : Bool) :
    TracksAgree planned (uplinkDown inReception s) := by
  unfold Machine.uplinkDown
  split
  · dsimp only
    split
    · exact .softReset _
    · exact (h.keep (setUplink_tracksKeep ..)).keep (cutRecord_tracksKeep ..)
  · exact h

/-! ### COMMIT (R16, R17) -/

/-- No track is ACTIVE, so no channel runs. -/
theorem TracksSound.idle (h : TracksSound s) (inactive : ∀ k, s.passage? k = none) (c : Fin 4) :
    s.channels[c].halted = s.channels[c] := by
  refine (h.clean c).halted ((Run.track?_eq_none_iff _).1 ?_)
  cases run : s.channels[c].run.track? with
  | none => rfl
  | some k =>
    obtain ⟨some, -⟩ := ((tracksSound_iff s).1 h).2.1 c k run
    rw [inactive k] at some
    cases some

/-- A COMMIT changes what the agreement looks at only while no track has a use for it (R16, rows 3 and 4). -/
theorem TracksAgree.commitTaken (h : TracksAgree planned s) (t : TableId) (free : commitBusy t s = false) :
    TracksAgree planned (s.modTables (commitTaken t)) := by
  rw [← Bool.not_eq_true, commitBusy_iff, not_or] at free
  obtain ⟨site, active⟩ := free
  cases t with
  | site =>
    have off (k : Track) : (s.track k).state = .off := by_contra fun on => site ⟨rfl, k, on⟩
    exact .of_off off (h.tracks.idle fun k => passage?_eq_none (by rw [off]; rfl))
  | headClass =>
    have inactive (k : Track) : s.passage? k = none := by
      refine Option.eq_none_iff_forall_ne_some.2 fun p held => ?_
      exact active ⟨.inr rfl, k, p, (passage?_eq_some_iff ..).1 held⟩
    have empty (c : Fin 4) : s.channels[c].windows = [] := by rw [← h.tracks.idle inactive c]; rfl
    refine ⟨h.tracks.keep ⟨rfl, rfl, fun _ on => on, fun _ some => some, fun _ q held => ⟨q, held, rfl⟩, fun _ => rfl,
      fun _ clean => clean⟩, fun plans => ?_⟩
    obtain ⟨pending, listed, distinct, unplanned, -⟩ := h.plans plans
    refine ⟨pending, listed, distinct, unplanned, fun cam w mem => ?_⟩
    rw [State.modTables_channels, empty] at mem
    cases mem
  | consist | blankMap =>
    exact h.keep ⟨⟨rfl, rfl, fun _ on => on, fun _ some => some, fun _ q held => ⟨q, held, rfl⟩, fun _ => rfl,
      fun _ clean => clean⟩, ⟨rfl, rfl, fun _ q held => ⟨q, held, rfl, rfl⟩, fun _ => rfl⟩⟩

end Sys2Proof.Machine
end

section
/-! SUPPORT. Tracks, channels and window plans in agreement, continued: the recorder's commands, the lines, and every
step. -/

namespace Sys2Proof.Machine

variable {planned : Prop} {s : State}

/-! ### The interpreter (R185) -/

/-- An owner that keeps the agreement, whatever the parameters. -/
def AgreeingOwner (planned : Prop) (owner : Owner) : Prop :=
  ∀ params s, TracksAgree planned s → TracksAgree planned (owner params s).1

theorem AgreeingOwner.of_keeps {owner : Owner} (keeps : ∀ params s, TracksKeep s (owner params s).1) :
    AgreeingOwner planned owner := fun params s h => h.keep (keeps params s)

theorem TracksAgree.interpret (h : TracksAgree planned s) {owner : Owner} (agrees : AgreeingOwner planned owner)
    (mine : Command → Bool) : TracksAgree planned (interpret mine owner s) := by
  unfold Machine.interpret
  split
  · exact h
  · split
    · exact (agrees _ _ (h.keep (setUplink_tracksKeep ..))).keep (setUplink_tracksKeep ..)
    · exact h

theorem TracksAgree.interpretTogether (h : TracksAgree planned s) {owner : Owner} (agrees : AgreeingOwner planned owner)
    (mine : Command → Bool) : TracksAgree planned (interpretTogether mine owner s) :=
  (h.interpret agrees mine).keep (together_keeps ..).tracksKeep

theorem TracksAgree.interpretReset (h : TracksAgree planned s) : TracksAgree planned (interpretReset s) := by
  unfold Machine.interpretReset
  split
  · exact h
  · next c _ =>
    split
    · unfold resetIfDown
      split
      · exact .softReset _
      · exact h.keep (.of_eq (u := runCommand ownReset c s) rfl rfl rfl)
    · exact h

/-! ### The owners -/

theorem TracksKeep.refl (s : State) : TracksKeep s s := .of_eq rfl rfl rfl

theorem ownTableRead_tracksKeep (params : List Byte) (s : State) : TracksKeep s (ownTableRead params s).1 := by
  unfold ownTableRead
  split <;> exact .refl s

theorem ownStage_tracksKeep (apply : TableId → List (Nat × Option TableEntry) → Images → Images) (params : List Byte)
    (s : State) : TracksKeep s (ownStage apply params s).1 := by
  unfold ownStage
  split
  · exact .refl s
  · exact .of_eq rfl rfl rfl

theorem ownLatch_tracksKeep (value : Bool) (params : List Byte) (s : State) : TracksKeep s (ownLatch value params s).1 :=
  .of_eq rfl rfl rfl

theorem clearLatch_tracksKeep (x : State × Answer) : TracksKeep x.1 (clearLatch x).1 := .of_eq rfl rfl rfl

theorem AgreeingOwner.ownCommit : AgreeingOwner planned ownCommit := by
  intro params s h
  refine TracksAgree.keep ?_ (clearLatch_tracksKeep _)
  split
  · exact h
  · next t _ =>
    unfold commitNamed
    split
    · exact h
    · split
      · exact h
      · next free =>
        split
        · exact h
        · exact h.commitTaken t (by simpa using free)

/-- An OFF track goes to IDLE with a valid site entry (R39). -/
theorem TracksAgree.enable (h : TracksAgree planned s) {t : Track} (off : (s.track t).state = .off)
    (entry : (s.siteTrack? t).isSome = true) :
    TracksAgree planned (s.modTrack t fun r => { r with state := .idle }) := by
  have motion : MotionKeep s (s.modTrack t fun r => { r with state := .idle }) :=
    modTrack_motion_inactive (by rw [off]; rfl) rfl
  refine ⟨?_, fun p => (h.plans p).keep
    ⟨rfl, rfl, fun k q held => ⟨q, motion.passages k ▸ held, rfl, rfl⟩, fun c => by rw [motion.channels]⟩⟩
  obtain ⟨valid, running, clean, follows⟩ := (tracksSound_iff s).1 h.tracks
  refine (tracksSound_iff _).2 ⟨fun k on => ?_, fun cam k run => ?_, clean, fun k q held => ?_⟩
  · by_cases own : k = t
    · exact own ▸ entry
    · exact valid k (by rwa [track_modTrack_other s own] at on)
  · rw [motion.passages]
    exact running cam k run
  · exact follows k q (motion.passages k ▸ held)

theorem TracksAgree.enableTrack (h : TracksAgree planned s) (t : Track) :
    TracksAgree planned (enableTrack t s).1 := by
  unfold Machine.enableTrack
  split
  · next off =>
    split
    · next entry => exact h.enable off entry
    · exact h
  all_goals exact h

theorem AgreeingOwner.ownEnable : AgreeingOwner planned ownEnable := by
  intro params s h
  unfold Machine.ownEnable
  split
  · split
    · exact h
    · split
      · exact h.enableTrack _
      · exact h
  · exact h

/-- A track without a passage goes to OFF (R40). -/
theorem turnOff_tracksKeep {t : Track} (inactive : (s.track t).state.isActive = false) :
    TracksKeep s (s.modTrack t fun r => { r with state := .off }) := by
  refine .of_motion (modTrack_motion_inactive inactive rfl) rfl fun k on => ?_
  by_cases own : k = t
  · rw [own, track_modTrack_same] at on
    cases on
  · rwa [track_modTrack_other s own] at on

theorem TracksAgree.disableTrack (h : TracksAgree planned s) (t : Track) :
    TracksAgree planned (disableTrack t s).1 := by
  unfold Machine.disableTrack
  split
  · next p active => exact h.endPassage .abandoned .off ((passage?_eq_some_iff ..).2 active)
  · exact h
  · next idle => exact h.keep (turnOff_tracksKeep (by rw [idle]; rfl))
  · next settling => exact h.keep (turnOff_tracksKeep (by rw [settling]; rfl))

theorem TracksAgree.abandonTrack (h : TracksAgree planned s) (t : Track) :
    TracksAgree planned (abandonTrack t s).1 := by
  unfold Machine.abandonTrack
  split
  · next p active => exact h.endPassage .abandoned .settling ((passage?_eq_some_iff ..).2 active)
  all_goals exact h

theorem AgreeingOwner.ownDisable : AgreeingOwner planned ownDisable := by
  intro params s h
  unfold Machine.ownDisable
  split
  · split
    · exact h
    · split
      · exact h.disableTrack _
      · exact h
  · exact h

theorem AgreeingOwner.ownAbandon : AgreeingOwner planned ownAbandon := by
  intro params s h
  unfold Machine.ownAbandon
  split
  · split
    · exact h
    · exact h.abandonTrack _
  · exact h

theorem setDrain_tracksKeep (value : Bool) (s : State) : TracksKeep s (setDrain value s) := by
  have taken := senderTake_keeps (s.modUplink fun u => { u with drain := value })
  exact .of_eq (congrArg Tables.active taken.tables) taken.tracks taken.channels

theorem ownDrainOn_tracksKeep (params : List Byte) (s : State) : TracksKeep s (ownDrainOn params s).1 := by
  unfold ownDrainOn
  split
  · exact setDrain_tracksKeep ..
  · exact .refl s

theorem ownDrainOff_tracksKeep (params : List Byte) (s : State) : TracksKeep s (ownDrainOff params s).1 := by
  unfold ownDrainOff
  split
  · exact setDrain_tracksKeep ..
  · exact .refl s

theorem clearCounters_tracksKeep (s : State) : TracksKeep s (clearCounters s) :=
  .of_motion (clearCounters_motion s) rfl fun k on => by rwa [clearCounters_track] at on

theorem ownCameraPass_tracksKeep (params : List Byte) (s : State) : TracksKeep s (ownCameraPass params s).1 := by
  unfold ownCameraPass
  split
  · exact .refl s
  · split
    · exact .refl s
    · split
      · exact (modPort_keeps ..).tracksKeep
      · exact .refl s

/-! ### Lines, pulses and waits -/

theorem modLine_tracksKeep (s : State) (l : Fin 8) (f : Line → Line) : TracksKeep s (s.modLine l f) :=
  .of_eq rfl rfl rfl

theorem setStation_tracksKeep (s : State) (i : Fin 4) (w : Option Wait) : TracksKeep s (s.setStation i w) :=
  .of_eq rfl rfl rfl

/-- A crossing of detectors that waited no longer, counted as unpaired. -/
theorem TracksAgree.takeUnpaired (h : TracksAgree planned s) (i j : Fin 4) (w : Option Wait) (t : Track) (x : Crossing) :
    TracksAgree planned (Machine.takeCrossing t x ((s.setStation i w).bumpUnpaired j)) :=
  TracksAgree.takeCrossing (s := (s.setStation i w).bumpUnpaired j) (h.keep (.of_eq rfl rfl rfl)) t x

theorem TracksAgree.takePulse (h : TracksAgree planned s) (t : Track) (st : Station) (d : Detector) (time : Stamp) :
    TracksAgree planned (takePulse t st d time s) := by
  unfold Machine.takePulse
  split
  · exact h.keep (setStation_tracksKeep ..)
  · split
    · exact h.takeUnpaired ..
    · exact TracksAgree.takeCrossing (h.keep (setStation_tracksKeep ..)) t _

theorem TracksAgree.expireWait (h : TracksAgree planned s) (t : Track) (st : Station) :
    TracksAgree planned (expireWait t st s) := by
  unfold Machine.expireWait
  split
  · exact h
  · split
    · exact h.takeUnpaired ..
    · exact h

theorem TracksAgree.acceptPulse (h : TracksAgree planned s) (l : Fin 8) : TracksAgree planned (acceptPulse l s) := by
  unfold Machine.acceptPulse
  split
  · exact h
  · exact TracksAgree.takePulse (h.keep (modLine_tracksKeep ..)) ..

theorem TracksAgree.trailingEdge (h : TracksAgree planned s) (l : Fin 8) : TracksAgree planned (trailingEdge l s) := by
  unfold Machine.trailingEdge
  split
  · exact h.keep (.of_eq rfl rfl rfl)
  · exact (h.acceptPulse l).keep (modLine_tracksKeep ..)

theorem TracksAgree.lineEvent (h : TracksAgree planned s) (l : Fin 8) (inReset : Line → Line) {live : State → State}
    (hl : TracksAgree planned (live s)) : TracksAgree planned (lineEvent l inReset live s) := by
  unfold Machine.lineEvent
  split
  · exact h.keep (modLine_tracksKeep ..)
  · exact hl

/-! ### Every step -/

theorem TracksAgree.pass (h : TracksAgree planned s) (ns : Nat) : TracksAgree planned (s.pass ns) :=
  h.keep (pass_tracksKeep s ns)

theorem TracksAgree.timed {after : Nat} {f : State → State} {u : State}
    (hf : ∀ v, TracksAgree planned v → TracksAgree planned (f v)) (e : timed after f s = .next u)
    (h : TracksAgree planned s) : TracksAgree planned u := atOnce_closed (hf _) e (h.pass after)

theorem TracksAgree.exec (h : TracksAgree planned s) (c : Instr) {u : State} (e : exec c s = .next u) :
    TracksAgree planned u := by
  cases c with
  | powerOn => cases e; exact .hardReset ..
  | rstnReset after lowNs => cases e; exact (h.pass after).rstnFalls lowNs
  | rstnRelease after => cases e; exact (h.pass after).keep (.of_eq rfl rfl rfl)
  | leadingEdge after l => cases e; exact (h.pass after).lineEvent l _ ((h.pass after).keep (modLine_tracksKeep ..))
  | trailingEdge after l => cases e; exact (h.pass after).lineEvent l _ ((h.pass after).trailingEdge l)
  | pulseAccepted after l => exact h.timed (fun v hv => hv.acceptPulse l) e
  | pairTimeout after k st => exact h.timed (fun v hv => hv.expireWait k st) e
  | staleExpiry after k => exact h.timed (fun v hv => hv.staleNow k) e
  | quietDeadline after k => exact h.timed (fun v hv => hv.quietNow k) e
  | settleExpiry after k => exact h.timed (fun v hv => hv.keep (settleNow_tracksKeep k v)) e
  | trigger after cam => exact h.timed (fun v hv => hv.triggerNow cam) e
  | rowTimeout after cam => exact h.timed (fun v hv => hv.keep (resolveHeads_frame ..).tracksKeep) e
  | rowFrame after cam fresh frame =>
    exact h.timed (fun v hv => hv.keep (forwardFrame_keeps cam fresh frame v).tracksKeep) e
  | cameraNote after cam fresh frame =>
    exact h.timed (fun v hv => hv.keep (forwardFrame_keeps cam fresh frame v).tracksKeep) e
  | cameraLinkUp after cam heldNs => exact h.timed (fun v hv => hv.keep (cameraUp_tracksKeep cam heldNs v)) e
  | cameraLinkDown after cam inReception =>
    exact h.timed (fun v hv => hv.keep (cameraDown_tracksKeep cam inReception v)) e
  | passThroughSend cam =>
    exact atOnce_closed (f := fun v => v.modPort cam Port.sendMessage)
      (fun hv => hv.keep (modPort_keeps ..).tracksKeep) e h
  | messageSent after cam =>
    exact h.timed (f := fun v => v.modPort cam fun p => { p with lane := p.lane.finishMessage })
      (fun v hv => hv.keep (modPort_keeps ..).tracksKeep) e
  | uplinkLinkUp after heldNs => exact h.timed (fun v hv => hv.keep (uplinkUp_tracksKeep heldNs v)) e
  | uplinkLinkDown after inReception => exact h.timed (fun v hv => hv.uplinkDown inReception) e
  | frameReceived after fresh frame => exact h.timed (fun v hv => hv.keep (frameArrives_tracksKeep fresh frame v)) e
  | recordGrant => exact atOnce_closed (fun hv => hv.keep (grant_tracksKeep s)) e h
  | recordEnd after => exact h.timed (fun v hv => hv.recordEndNow) e
  | status => exact atOnce_closed (fun hv => hv.interpret (.of_keeps fun _ u => .refl u) _) e h
  | tableRead => exact atOnce_closed (fun hv => hv.interpret (.of_keeps ownTableRead_tracksKeep) _) e h
  | stageLoad => exact atOnce_closed (fun hv => hv.interpret (.of_keeps (ownStage_tracksKeep _)) _) e h
  | stagePatch => exact atOnce_closed (fun hv => hv.interpret (.of_keeps (ownStage_tracksKeep _)) _) e h
  | commitEnable =>
    exact atOnce_closed (fun hv => hv.interpret (.of_keeps (ownLatch_tracksKeep _)) _) e h
  | commitDisable =>
    exact atOnce_closed (fun hv => hv.interpret (.of_keeps (ownLatch_tracksKeep _)) _) e h
  | commit => exact atOnce_closed (fun hv => hv.interpret .ownCommit _) e h
  | trackControlEnable => exact atOnce_closed (fun hv => hv.interpret .ownEnable _) e h
  | trackControlDisable => exact atOnce_closed (fun hv => hv.interpretTogether .ownDisable _) e h
  | abandon => exact atOnce_closed (fun hv => hv.interpretTogether .ownAbandon _) e h
  | drainOn => exact atOnce_closed (fun hv => hv.interpretTogether (.of_keeps ownDrainOn_tracksKeep) _) e h
  | drainOff => exact atOnce_closed (fun hv => hv.interpret (.of_keeps ownDrainOff_tracksKeep) _) e h
  | clearStats => exact atOnce_closed (fun hv => hv.interpret (.of_keeps fun _ u => clearCounters_tracksKeep u) _) e h
  | clearConditions =>
    exact atOnce_closed (fun hv => hv.interpret (.of_keeps fun _ u => setUplink_tracksKeep u _) _) e h
  | cameraPass => exact atOnce_closed (fun hv => hv.interpret (.of_keeps ownCameraPass_tracksKeep) _) e h
  | reset => exact atOnce_closed (fun hv => hv.interpretReset) e h
  | unknownCommand => exact atOnce_closed (fun hv => hv.interpret (.of_keeps fun _ u => .refl u) _) e h

theorem TracksAgree.step (h : TracksAgree planned s) {u : State} (e : step s = .next u) : TracksAgree planned u := by
  unfold Machine.step at e
  split at e
  · cases e; exact h.pass _
  · next c rest _ => exact TracksAgree.exec (s := { s with pending := rest }) (h.keep (.of_eq rfl rfl rfl)) c e

end Sys2Proof.Machine

namespace Sys2Proof.Settled

open Sys2Proof.Machine

/-- Settles O56: every command keeps `TracksAgree`, in which the plans are sound under the assumption that they were. -/
theorem stepsKeepTracksSound : Obligations.StepsKeepTracksSound := by
  intro s t tracks stepped
  obtain ⟨tracks, plans⟩ := TracksAgree.step (planned := PlansSound s) ⟨tracks, id⟩ stepped
  exact ⟨tracks, plans⟩

end Sys2Proof.Settled
end

section
/-! SUPPORT. Crossings outside a passage, at the far station and in reversal (R43, R47, R49, R58), and the three
deadlines of a track (R42, R51, R59). -/

namespace Sys2Proof.Machine

/-! ### Crossings by the state of the track -/

theorem takeCrossing_active {s : State} {t : Track} {p : Passage} {site : SiteTrack}
    (active : (s.track t).state = .active p) (entry : s.siteTrack? t = some site) (x : Crossing) :
    takeCrossing t x s = crossActive t site x p s := by
  simp only [takeCrossing, active, entry]

theorem takeCrossing_stray {s : State} {t : Track} {x : Crossing}
    (h : (s.track t).state = .off ∨ (∃ d, (s.track t).state = .settling d)
      ∨ ((s.track t).state = .idle ∧ ∀ pace clamped, x.kind ≠ .arrival pace clamped)) :
    takeCrossing t x s = strayAxle t s := by
  rcases h with off | ⟨d, settling⟩ | ⟨idle, kind⟩
  · simp only [takeCrossing, off]
  · simp only [takeCrossing, settling]
  · simp only [takeCrossing, idle, crossIdle]
    split
    · next pace clamped arrival => exact absurd arrival (kind pace clamped)
    · rfl
    · rfl

/-- DEPARTURE and UNPAIRED at the far station are what R47 counts out. -/
theorem crossingRole_axleOut {d : Direction} {x : Crossing} (station : x.station ≠ approachStation d)
    (kind : ∀ pace clamped, x.kind ≠ .arrival pace clamped) : crossingRole d x = .axleOut := by
  unfold crossingRole
  rw [if_neg station]
  split
  · rfl
  · rfl
  · next pace clamped arrival => exact absurd arrival (kind pace clamped)

theorem crossingRole_backOut {d : Direction} {x : Crossing} {pace : Nat} {clamped : Bool}
    (station : x.station = approachStation d) (kind : x.kind = .departure pace clamped) :
    crossingRole d x = .backOut := by
  simp only [crossingRole, if_pos station, kind]

theorem crossingRole_backIn {d : Direction} {x : Crossing} {pace : Nat} {clamped : Bool}
    (station : x.station ≠ approachStation d) (kind : x.kind = .arrival pace clamped) :
    crossingRole d x = .backIn := by
  simp only [crossingRole, if_neg station, kind]

/-! ### The far station (R47, R58) -/

theorem axleOut_below {s : State} {t : Track} {site : SiteTrack} {x : Crossing} {p : Passage}
    (below : p.outCount + 1 < p.inCount) : axleOut t site x p s =
      s.setPassage t { p.takeCrossingPace s.time site.paceHold x with outCount := p.outCount + 1 } := by
  unfold axleOut
  rw [if_pos (Nat.lt_of_succ_lt below)]
  exact if_neg below.ne

theorem axleOut_last {s : State} {t : Track} {site : SiteTrack} {x : Crossing} {p : Passage}
    (last : p.outCount + 1 = p.inCount) : axleOut t site x p s = endPassage t .balanced .settling
      (s.setPassage t { p.takeCrossingPace s.time site.paceHold x with outCount := p.outCount + 1 }) := by
  unfold axleOut
  rw [if_pos (last ▸ Nat.lt_succ_self _)]
  exact if_pos last

theorem axleOut_full {s : State} {t : Track} {site : SiteTrack} {x : Crossing} {p : Passage}
    (full : p.inCount ≤ p.outCount) : axleOut t site x p s =
      strayAxle t (s.setPassage t (p.takeCrossingPace s.time site.paceHold x)) := by
  unfold axleOut
  exact if_neg (Nat.not_lt.2 full)

/-! ### Reversals (R49) -/

/-- A crossing that is not UNPAIRED restarts the quiet deadline and can set PACE-CLAMP (R47, R59). -/
theorem touch_paired {x : Crossing} (paired : x.kind ≠ .unpaired) (now : Stamp) (quiet : Nat) (p : Passage) :
    p.touch now quiet x =
      { p with quietDeadline := later now (quiet * 1000), paceClamp := p.paceClamp || x.clamped } := by
  rw [touch_eq, decide_eq_false paired, Bool.or_false]

theorem markReversed_later {s : State} {t : Track} {p : Passage} (held : s.passage? t = some p)
    (reversed : p.reversed = true) : markReversed t s = s := by
  simp only [markReversed, held, reversed, if_true]

theorem markReversed_first {s : State} {t : Track} {p : Passage} (held : s.passage? t = some p)
    (forward : p.reversed = false) :
    markReversed t s = stopChannels t .reversal (s.setPassage t { p with reversed := true }) := by
  simp [markReversed, held, forward]

/-- A stray axle leaves the passage. -/
theorem passage?_strayAxle (t : Track) (s : State) (k : Track) : (strayAxle t s).passage? k = s.passage? k :=
  (strayAxle_motion t s).passages k

/-- What a reversal crossing leaves before the mark: the passage with a count lowered, or with a stray axle. -/
theorem markReversed_choice {s mid : State} {t : Track} {counted q p : Passage} {c : Prop} [Decidable c]
    (choice : mid = if c then s.setPassage t counted else strayAxle t (s.setPassage t q))
    (count : counted.reversed = p.reversed) (kept : q.reversed = p.reversed) :
    (p.reversed = true → markReversed t mid = mid)
    ∧ (p.reversed = false → ∀ r, mid.passage? t = some r →
        markReversed t mid = stopChannels t .reversal (mid.setPassage t { r with reversed := true })) := by
  have held : ∃ r, mid.passage? t = some r ∧ r.reversed = p.reversed := by
    rw [choice]
    split
    · exact ⟨_, passage?_setPassage_same .., count⟩
    · exact ⟨q, by rw [passage?_strayAxle, passage?_setPassage_same], kept⟩
  obtain ⟨r, held, mark⟩ := held
  refine ⟨fun reversed => markReversed_later held (mark.trans reversed), fun forward r' held' => ?_⟩
  obtain rfl := Option.some.inj (held.symm.trans held')
  exact markReversed_first held (mark.trans forward)

/-! ### The deadlines -/

theorem reached_iff (now deadline : Stamp) : reached now deadline = true ↔ (now - deadline).toNat < 2147483648 :=
  decide_eq_true_iff

end Sys2Proof.Machine

namespace Sys2Proof.Settled

open Sys2Proof.Machine

/-- Settles O12. -/
theorem crossingOutsidePassage : Obligations.CrossingOutsidePassage := by
  intro s t x stray
  rw [takeCrossing_stray stray, strayAxle]
  refine congrArg (s.modTrack t) (funext fun r => ?_)
  unfold bump
  split
  · next full => rw [full]
  · rfl

/-- Settles O15: the pace and the touch come first, then the three cases of the out count. -/
theorem farAxle : Obligations.FarAxle := by
  intro s t x p q site active entry station kind context
  have role := crossingRole_axleOut station kind
  have taken : takeCrossing t x s = axleOut t site x (p.touch s.time site.quiet x) s := by
    rw [takeCrossing_active active entry, crossActive, role]
  have paced : (p.touch s.time site.quiet x).takeCrossingPace s.time site.paceHold x = q := by
    rw [context, takeCrossingPace_eq, touch_eq]
    cases x.pace <;> rfl
  rw [taken, ← paced]
  exact ⟨fun below => axleOut_below below, fun last => axleOut_last last, fun full => axleOut_full full⟩

/-- Settles O16: the count that goes down decides the state in which the reversal is marked. -/
theorem reversalCrossing : Obligations.ReversalCrossing := by
  refine ⟨?_, fun s t why => ?_⟩
  · intro s mid t x p q site active entry context crossing
    have kept : q.reversed = p.reversed := by rw [context]
    have inCount : q.inCount = p.inCount := by rw [context]
    have outCount : q.outCount = p.outCount := by rw [context]
    have touched (paired : x.kind ≠ .unpaired) : p.touch s.time site.quiet x = q :=
      (touch_paired paired ..).trans context.symm
    rcases crossing with ⟨station, ⟨pace, clamped, kind⟩, choice⟩ | ⟨station, ⟨pace, clamped, kind⟩, choice⟩
    · have taken : takeCrossing t x s = markReversed t mid := by
        rw [takeCrossing_active active entry, crossActive, crossingRole_backOut station kind,
          touched (by rw [kind]; exact nofun), choice, ← inCount, ← outCount]
        rfl
      rw [taken]
      exact markReversed_choice choice kept kept
    · have taken : takeCrossing t x s = markReversed t mid := by
        rw [takeCrossing_active active entry, crossActive, crossingRole_backIn station kind,
          touched (by rw [kind]; exact nofun), choice, ← outCount]
        rfl
      rw [taken]
      exact markReversed_choice choice kept kept
  · obtain ⟨order, perm, -, eq⟩ := inFreeOrder_spec Fin.val (fun _ _ => false) (s.camerasOf t) (stopChannel t why) s
    exact ⟨order, perm, by rw [stopChannels, eq]; rfl⟩

/-- Settles O17: each deadline acts at the moment the span has ended. -/
theorem trackDeadlines : Obligations.TrackDeadlines := by
  rintro s now after t isReached rfl awake reads
  have at_once (f : State → State) : timed after f s = .next (f (s.pass after)) := atOnce_awake f awake
  have yes (deadline : Stamp) : isReached deadline ↔ reached (s.pass after).time deadline = true :=
    (reads deadline).trans (reached_iff ..).symm
  have no (deadline : Stamp) : ¬ isReached deadline ↔ reached (s.pass after).time deadline = false := by
    rw [yes, Bool.not_eq_true]
  have stale : exec (.staleExpiry after t) s = .next (staleNow t (s.pass after)) := at_once _
  have quiet : exec (.quietDeadline after t) s = .next (quietNow t (s.pass after)) := at_once _
  have settle : exec (.settleExpiry after t) s = .next (settleNow t (s.pass after)) := at_once _
  rw [stale, quiet, settle]
  refine ⟨fun none => ?_, fun p site held entry => ⟨fun fresh now => ?_, ?_⟩, fun p held => ⟨fun now => ?_, fun early => ?_⟩,
    fun deadline settling => ⟨fun now => ?_, fun early => ?_⟩, fun out => ?_⟩
  · simp [staleNow, quietNow, none]
  · simp [staleNow, held, entry, fresh, (yes _).1 now, Passage.goStale]
  · rintro (marked | early)
    · simp [staleNow, held, entry, marked]
    · simp [staleNow, held, entry, (no _).1 early]
  · simp [quietNow, held, (yes _).1 now]
  · simp [quietNow, held, (no _).1 early]
  · simp [settleNow, settling, (yes _).1 now]
  · simp [settleNow, settling, (no _).1 early]
  · unfold settleNow
    split
    · next deadline settling => exact absurd settling (out deadline)
    all_goals rfl

end Sys2Proof.Settled
end

section
/-! SUPPORT. The end of a passage (R57, R58, R60, R62, R196): the summary, its queue, and the plan it reports. -/

namespace Sys2Proof.Machine

variable {s : State}

/-! ### Records that arrive together (R194) -/

/-- What arrives is told without the note of it, so that the note is taken once. -/
theorem together_together (s u : State) : together s (together s u) = together s u := by
  obtain ⟨l, noted⟩ := together_eq s u
  have same : arrivals s (together s u) = arrivals s u := by rw [noted]; rfl
  by_cases several : 2 ≤ (arrivals s u).length
  · conv_lhs => rw [together, same, if_pos several]
    rw [together, if_pos several]
  · conv_lhs => rw [together, same, if_neg several]

/-! ### The summary queue (R196) -/

theorem pushSummary_room (x : Summary) {u : Uplink} (room : u.summaries.length < 4) :
    u.pushSummary x = { u with summaries := u.summaries ++ [x] } := if_pos room

theorem pushSummary_full (x : Summary) {u : Uplink} (full : 4 ≤ u.summaries.length) :
    u.pushSummary x = { u with summariesLost := bump u.summariesLost } := if_neg (Nat.not_lt.2 full)

/-- A summary joins the queue of a state that keeps the queue of another as it joins that. -/
theorem SummariesKeep.push {s u : State} (h : SummariesKeep s u) (x : Summary) :
    (s.uplink.summaries.length < 4 → (u.uplink.pushSummary x).summaries = s.uplink.summaries ++ [x]
      ∧ (u.uplink.pushSummary x).summariesLost = s.uplink.summariesLost)
    ∧ (4 ≤ s.uplink.summaries.length → (u.uplink.pushSummary x).summaries = s.uplink.summaries
      ∧ (u.uplink.pushSummary x).summariesLost = bump s.uplink.summariesLost) := by
  obtain ⟨queue, lost⟩ := h
  refine ⟨fun room => ?_, fun full => ?_⟩
  · rw [pushSummary_room x (queue ▸ room), ← queue, ← lost]; exact ⟨rfl, rfl⟩
  · rw [pushSummary_full x (queue ▸ full), ← queue, ← lost]; exact ⟨rfl, rfl⟩

/-! ### The summary (R57, R58, R60, R62) -/

theorem summaryOf_congr {s u : State} (time : u.time = s.time) (tables : u.tables = s.tables) :
    summaryOf u = summaryOf s := by
  funext t reason p
  unfold summaryOf
  rw [time, tables]

theorem settleDeadline_congr {s u : State} (time : u.time = s.time) (tables : u.tables = s.tables) (t : Track) :
    settleDeadline u t = settleDeadline s t := by
  unfold settleDeadline
  rw [siteTrack?_congr (s := s) (by rw [tables]), time]

theorem settleDeadline_eq {t : Track} {site : SiteTrack} (entry : s.siteTrack? t = some site) :
    settleDeadline s t = later s.time (site.settle * 1000) := by
  rw [settleDeadline, entry]

theorem endMatching_eq (m : MatchState) : endMatching m = if m = .seeking then .undecided else m := by
  cases m <;> rfl

theorem axleMismatch_iff (im : Images) (reason : EndReason) (p : Passage) : axleMismatch im reason p = true ↔
    reason = .balanced ∧ ∃ i code e n, p.profile = some (i, code) ∧ im.consist[i] = some e ∧ e.expectedAxles = some n
      ∧ n ≠ p.inCount := by
  cases reason with
  | timeout | abandoned => simp [axleMismatch]
  | balanced =>
    unfold axleMismatch
    cases p.profile with
    | none => simp
    | some entry =>
      obtain ⟨i, code⟩ := entry
      dsimp only
      cases expects : im.consist[i].bind Profile.expectedAxles with
      | none =>
        refine ⟨nofun, fun ⟨_, j, _, e, n, same, valid, expected, _⟩ => ?_⟩
        cases same
        rw [valid] at expects
        cases expects.symm.trans expected
      | some n =>
        obtain ⟨e, valid, expected⟩ := Option.bind_eq_some_iff.1 expects
        refine ⟨fun differ => ⟨rfl, i, code, e, n, rfl, valid, expected, bne_iff_ne.1 differ⟩,
          fun ⟨_, j, _, e', n', same, valid', expected', differ⟩ => ?_⟩
        cases same
        obtain rfl := Option.some.inj (valid.symm.trans valid')
        obtain rfl := Option.some.inj (expected.symm.trans expected')
        exact bne_iff_ne.2 differ

/-- The entries of a plan whose windows wait in the channels of its track are its PENDING ones (R57). -/
theorem PlansSound.waitsOn_iff (h : PlansSound s) {t : Track} {p : Passage} (held : s.passage? t = some p)
    {e : PlanEntry} (mem : e ∈ p.plan) :
    waitsOn (s.camerasOf t) s.channels e.camera e.panto ↔ e.outcome = .pending :=
  ⟨fun ⟨own, w, listed, panto⟩ => h.listed t p held e mem own w listed panto, h.pending t p held e mem⟩

theorem PlansSound.settlePlan_waitsOn (h : PlansSound s) {t : Track} {p : Passage} (held : s.passage? t = some p)
    (o : PlanOutcome) : settlePlan (waitsOn (s.camerasOf t) s.channels) o p.plan =
      p.plan.map fun e => if e.outcome = .pending then { e with outcome := o } else e :=
  List.map_congr_left fun _ mem => if_congr (h.waitsOn_iff held mem) rfl rfl

/-- The context a passage is reported with: what still waits has been dropped with reason ENDED (R57, R60). -/
def Passage.ended (s : State) (t : Track) (p : Passage) : Passage :=
  { p with plan := settlePlan (waitsOn (s.camerasOf t) s.channels) (.dropped .ended) p.plan }

/-- The end of a passage: the state its channels stopped in, the state of its track, and its summary. -/
theorem endPassage_summary (clean : ∀ cam : Fin 4, s.channels[cam].Clean) (reason : EndReason) (dest : EndTo)
    {t : Track} {p : Passage} (held : s.passage? t = some p) :
    ∃ u, SummariesKeep s u ∧ endPassage t reason dest s
      = together s (u.modUplink (Uplink.pushSummary (summaryOf s t reason (p.ended s t)))) := by
  have keeps := stopChannels_keeps t .ended s
  refine ⟨_, ?_, by rw [endPassage_eq reason dest held clean, summaryOf_congr keeps.time keeps.tables]; rfl⟩
  exact (stopChannels_halt t .ended clean).summaries

end Sys2Proof.Machine

namespace Sys2Proof.Settled

open Sys2Proof.Machine

/-- Settles O18: the channels have stopped as `ChannelsHalt` says, and the summary is that of the context with the plan
they leave. -/
theorem passageEnds : Obligations.PassageEnds := by
  rintro s s' t reason dest p tracks plans held rfl
  have keeps := stopChannels_keeps t .ended s
  obtain ⟨halts, track⟩ := endPassage_halts tracks reason dest held
  obtain ⟨u, summaries, ends⟩ := endPassage_summary tracks.clean reason dest held
  have queue := together_summaries s (u.modUplink (Uplink.pushSummary (summaryOf s t reason (p.ended s t))))
  rw [← ends] at queue
  obtain ⟨room, full⟩ := summaries.push (summaryOf s t reason (p.ended s t))
  refine ⟨passage?_eq_none (by rw [track]; exact endState_inactive ..), halts.trackOthers, by rw [track],
    fun off => by rw [track, off]; rfl, fun site entry settling => ?_, fun cam mem => ?_, halts.others,
    summaryOf s t reason (p.ended s t), rfl, rfl, rfl, rfl, rfl, rfl, rfl, rfl, rfl, endMatching_eq _, rfl, rfl, rfl,
    rfl, rfl, rfl, plans.settlePlan_waitsOn held _, plans.settled held nofun, axleMismatch_iff .., ?_, ?_, ?_⟩
  · rw [track, settling, ← settleDeadline_eq entry, ← settleDeadline_congr keeps.time keeps.tables]
    rfl
  · rw [halts.halted cam mem]
    exact ⟨rfl, rfl, rfl, rfl⟩
  · exact fun below => ⟨queue.1.trans (room below).1, queue.2.trans (room below).2⟩
  · exact fun at_four => ⟨queue.1.trans (full at_four).1, queue.2.trans (full at_four).2⟩
  · rw [ends]
    exact together_together ..

end Sys2Proof.Settled
end

section
/-! SUPPORT. Consist matching (R52, R53): the test of a candidate, complete candidates, and the decision. -/

namespace Sys2Proof.Machine

/-! ### The test of a candidate (R52) -/

theorem max_sub_min_eq_natAbs (a b : Nat) : max a b - min a b = Int.natAbs ((a : Int) - b) := by omega

theorem testCandidate_tested {im : Images} {k d tol : Nat} {c : Candidate} {e : Profile}
    (valid : im.consist[c.index] = some e) (expected : e.signature[k - 1]? = some d) (within : e.tolerance = some tol)
    (observed : Nat) : testCandidate im k observed c =
      if Int.natAbs ((observed : Int) - d) ≤ tol then
        some { c with deviation := c.deviation + Int.natAbs ((observed : Int) - d) } else none := by
  simp only [testCandidate, valid, expected, within, Option.getD_some, max_sub_min_eq_natAbs]
  split
  · next above => rw [if_neg (Nat.not_le.2 above)]
  · next kept => rw [if_pos (Nat.not_lt.1 kept)]

theorem testCandidate_short {im : Images} {k : Nat} {c : Candidate} {e : Profile}
    (valid : im.consist[c.index] = some e) (short : e.signature.length ≤ k - 1) (observed : Nat) :
    testCandidate im k observed c = some c := by
  simp only [testCandidate, valid, List.getElem?_eq_none short]

theorem isCompleteCandidate_iff {im : Images} {c : Candidate} {e : Profile} (valid : im.consist[c.index] = some e)
    (k : Nat) : isCompleteCandidate im k c = true ↔ e.signature.length ≤ k := by
  simp only [isCompleteCandidate, valid, decide_eq_true_eq]

/-! ### The best candidate (R53) -/

/-- A candidate that R53 does not place after another: of less deviation, or of equal deviation and no higher index. -/
def Candidate.Before (c d : Candidate) : Prop :=
  c.deviation < d.deviation ∨ (c.deviation = d.deviation ∧ c.index ≤ d.index)

theorem Candidate.Before.refl (c : Candidate) : c.Before c := .inr ⟨rfl, le_refl _⟩

theorem Candidate.Before.trans {b c d : Candidate} (h : b.Before c) (k : c.Before d) : b.Before d := by
  unfold Candidate.Before at *
  omega

theorem Candidate.Before.total {c d : Candidate} (h : ¬ c.Before d) : d.Before c := by
  unfold Candidate.Before at *
  omega

theorem bestCandidate_eq_none_iff (cs : List Candidate) : bestCandidate cs = none ↔ cs = [] := by
  cases cs with
  | nil => simp [bestCandidate]
  | cons c rest =>
    unfold bestCandidate
    split
    · simp
    · split <;> simp

/-- The best candidate is one of the list, and none of the list goes before it. -/
theorem bestCandidate_least {cs : List Candidate} {b : Candidate} (best : bestCandidate cs = some b) :
    b ∈ cs ∧ ∀ d ∈ cs, b.Before d := by
  induction cs generalizing b with
  | nil => cases best
  | cons c rest ih =>
    unfold bestCandidate at best
    split at best
    · next empty =>
      rw [bestCandidate_eq_none_iff] at empty
      obtain rfl := Option.some.inj best
      rw [empty]
      exact ⟨List.mem_singleton_self c, fun d mem => List.mem_singleton.1 mem ▸ .refl c⟩
    · next r among =>
      obtain ⟨mem, least⟩ := ih among
      split at best
      · next before =>
        obtain rfl := Option.some.inj best
        exact ⟨List.mem_cons_self, List.forall_mem_cons.2 ⟨.refl c, fun d mem => .trans before (least d mem)⟩⟩
      · next after =>
        obtain rfl := Option.some.inj best
        exact ⟨List.mem_cons_of_mem _ mem, List.forall_mem_cons.2 ⟨.total after, least⟩⟩

/-! ### The decision (R53) -/

theorem decideMatch_nil (im : Images) (k : Nat) : decideMatch im k [] = .fallback := rfl

/-- While matching has an end, the best of the complete candidates is chosen. -/
theorem decideMatch_matched {im : Images} {k : Nat} {cs : List Candidate}
    (ends : (∀ c ∈ cs, isCompleteCandidate im k c = true) ∨ k = 8) {b : Candidate}
    (best : bestCandidate (cs.filter (isCompleteCandidate im k)) = some b) : decideMatch im k cs = .matched b.index := by
  have some : cs ≠ [] := by
    rintro rfl
    cases best
  rw [decideMatch, if_neg some, if_pos (by rwa [List.all_eq_true]), best]

theorem decideMatch_open {im : Images} {k : Nat} {cs : List Candidate} (early : k ≠ 8) {c : Candidate} (mem : c ∈ cs)
    (longer : isCompleteCandidate im k c = false) : decideMatch im k cs = .seeking := by
  rw [decideMatch, if_neg (List.ne_nil_of_mem mem), if_neg]
  rintro (all | eighth)
  · exact Bool.false_ne_true (longer.symm.trans (List.all_eq_true.1 all c mem))
  · exact early eighth

theorem decideMatch_fallback_iff (im : Images) (k : Nat) (cs : List Candidate) :
    decideMatch im k cs = .fallback ↔ cs = [] := by
  refine ⟨fun h => by_contra fun some => ?_, fun h => h ▸ decideMatch_nil im k⟩
  rw [decideMatch, if_neg some] at h
  split at h
  · split at h <;> cases h
  · cases h

end Sys2Proof.Machine

namespace Sys2Proof.Settled

open Sys2Proof.Machine

/-- Settles O19: the choice is the best of the complete candidates, which are some. -/
theorem matchDecision : Obligations.MatchDecision := by
  refine ⟨fun im k observed c e valid pos => ⟨fun d tol expected within => ?_, fun short => ?_,
    isCompleteCandidate_iff valid k⟩, fun im k cs => ⟨decideMatch_fallback_iff im k cs, fun any ends => ?_,
      fun early ⟨c, mem, longer⟩ => decideMatch_open early mem longer⟩⟩
  · exact testCandidate_tested valid expected within observed
  · exact testCandidate_short valid (Nat.le_sub_one_of_lt short) observed
  · have complete : ∃ c ∈ cs, isCompleteCandidate im k c = true := by
      rcases ends with all | ⟨-, complete⟩
      · exact ⟨cs.head any, List.head_mem any, all _ (List.head_mem any)⟩
      · exact complete
    obtain ⟨c, mem, full⟩ := complete
    obtain ⟨b, best⟩ : ∃ b, bestCandidate (cs.filter (isCompleteCandidate im k)) = some b := by
      rw [← Option.ne_none_iff_exists', Ne, bestCandidate_eq_none_iff]
      exact List.ne_nil_of_mem (List.mem_filter.2 ⟨mem, full⟩)
    obtain ⟨listed, least⟩ := bestCandidate_least best
    obtain ⟨mem, full⟩ := List.mem_filter.1 listed
    exact ⟨b, mem, decideMatch_matched (ends.imp_right And.left) best, full,
      fun d other complete => least d (List.mem_filter.2 ⟨other, complete⟩)⟩

end Sys2Proof.Settled
end

section
/-! SUPPORT. Window planning (R53 to R56, R77), continued: the points of a window, the windows of a profile in index
order, and the order in which a channel takes them. -/

namespace Sys2Proof.Machine

/-! ### The order by open point (R55) -/

/-- Ordering by inserting is the library's insertion sort. -/
theorem orderBy_eq_insertionSort {α : Type} {before : α → α → Bool} {r : α → α → Prop} [DecidableRel r]
    (same : ∀ x y, before x y = true ↔ r x y) (l : List α) : orderBy before l = l.insertionSort r := by
  have insert (x : α) (l : List α) : insertBy before x l = l.orderedInsert r x := by
    induction l with
    | nil => rfl
    | cons y rest ih => rw [insertBy, List.orderedInsert_cons, ih, if_congr (same x y) rfl rfl]
  induction l with
  | nil => rfl
  | cons x rest ih => rw [orderBy, List.insertionSort_cons, insert, ih]

theorem orderWindows_eq (ws : List Window) :
    orderWindows ws = ws.insertionSort (Window.openPoint ⁻¹'o (· ≤ ·)) :=
  orderBy_eq_insertionSort (fun _ _ => decide_eq_true_iff) ws

theorem orderWindows_ascending (ws : List Window) :
    (orderWindows ws).Pairwise fun v w => v.openPoint ≤ w.openPoint := by
  rw [orderWindows_eq]
  exact List.pairwise_insertionSort _ ws

/-- Windows of equal open point keep their order. -/
theorem orderWindows_stable (ws : List Window) (o : Nat) :
    (orderWindows ws).filter (fun w => w.openPoint == o) = ws.filter (fun w => w.openPoint == o) := by
  have equal : (ws.filter fun w => w.openPoint == o).Pairwise (Window.openPoint ⁻¹'o (· ≤ ·)) :=
    List.pairwise_of_forall_mem_list fun v hv w hw => by
      have := beq_iff_eq.1 (List.mem_filter.1 hv).2
      have := beq_iff_eq.1 (List.mem_filter.1 hw).2
      exact (by omega : v.openPoint ≤ w.openPoint)
  have kept : (ws.filter fun w => w.openPoint == o).Sublist (orderWindows ws) :=
    orderWindows_eq ws ▸ List.sublist_insertionSort equal List.filter_sublist
  have inside := kept.filter fun w => w.openPoint == o
  rw [List.filter_filter] at inside
  simp only [Bool.and_self] at inside
  exact (inside.eq_of_length ((orderBy_perm _ ws).filter _).length_eq.symm).symm

/-! ### The windows of a profile (R55) -/

theorem planWindow_openPoint (l : Nat) (unmatched : Bool) (head : HeadClass) (i : Nat) (p : Panto) :
    ((planWindow l unmatched head i p).openPoint : Int) = max 0 (((l : Int) + p.offset - head.windowBefore) * 1000) := by
  dsimp only [planWindow]
  omega

/-- With valid head classes, the windows stand in the order of the pantographs. -/
theorem planWindows_getElem? {im : Images} {pantos : List Panto}
    (valid : ∀ q ∈ pantos, im.headClasses[q.headClass] ≠ none) (l : Nat) (unmatched : Bool) (n : Nat) :
    (planWindows im l unmatched n pantos).length = pantos.length
      ∧ ∀ (i : Nat) (q : Panto) (head : HeadClass), pantos[i]? = some q → im.headClasses[q.headClass] = some head →
          (planWindows im l unmatched n pantos)[i]? = some (planWindow l unmatched head (n + i) q) := by
  induction pantos generalizing n with
  | nil => exact ⟨rfl, nofun⟩
  | cons p rest ih =>
    obtain ⟨first, later⟩ := List.forall_mem_cons.1 valid
    obtain ⟨h, held⟩ := Option.ne_none_iff_exists'.1 first
    obtain ⟨length, items⟩ := ih later (n + 1)
    rw [planWindows, held]
    refine ⟨congrArg (· + 1) length, fun i q head at_i entry => ?_⟩
    cases i with
    | zero =>
      obtain rfl := Option.some.inj at_i
      obtain rfl := Option.some.inj (held.symm.trans entry)
      rfl
    | succ i =>
      rw [show n + (i + 1) = n + 1 + i by omega]
      exact items i q head at_i entry

/-! ### The plan of a passage (R53, R54) -/

theorem setPassage_stray (s : State) (t : Track) (p : Passage) :
    ((s.setPassage t p).track t).stray = (s.track t).stray := by
  rw [State.setPassage, track_modTrack_same]

theorem profileCode_eq {im : Images} {i : Fin 32} {code : Half} (none : im.consist[i] = none → code = 0)
    (some : ∀ e, im.consist[i] = some e → code = e.code) : profileCode im i = code := by
  unfold profileCode
  split
  · next empty => exact (none empty).symm
  · next e valid => exact (some e valid).symm

theorem profilePantos_eq {im : Images} {i : Fin 32} {pantos : List Panto} (none : im.consist[i] = none → pantos = [])
    (some : ∀ e, im.consist[i] = some e → pantos = e.pantos) : profilePantos im i = pantos := by
  unfold profilePantos
  split
  · next empty => exact (none empty).symm
  · next e valid => exact (some e valid).symm

end Sys2Proof.Machine

namespace Sys2Proof.Settled

open Sys2Proof.Machine

/-- Settles O20: `planPassage_plans` with the windows of each camera written out. -/
theorem windowsPlanned : Obligations.WindowsPlanned := by
  refine ⟨fun l unmatched head i p => ⟨planWindow_openPoint .., rfl, rfl, rfl, rfl⟩,
    fun im l unmatched pantos valid => ?_, fun travel ws =>
      ⟨orderBy_perm _ ws, orderWindows_ascending ws, orderWindows_stable ws, rfl⟩, ?_⟩
  · obtain ⟨length, items⟩ := planWindows_getElem? valid l unmatched 0
    refine ⟨length, fun i q head at_i entry => ?_⟩
    rw [items i q head at_i entry, Nat.zero_add]
  · rintro s s' t i result p code pantos planned - empty valid windows rfl
    have code_eq : profileCode s.tables.active i = code :=
      profileCode_eq (fun none => (empty none).1) fun e some => (valid e some).1
    have pantos_eq : profilePantos s.tables.active i = pantos :=
      profilePantos_eq (fun none => (empty none).2) fun e some => (valid e some).2
    have camera {cam : Fin 4} (mem : cam ∈ s.camerasOf t) :
        cameraWindows s p i (decide (result = .fallback)) cam = planned cam := by
      obtain ⟨site, entry, -⟩ := (mem_camerasOf_iff s t cam).1 mem
      rw [cameraWindows, entry, windows cam site entry, ← pantos_eq]
      rfl
    have plan : windowPlan s t p i (decide (result = .fallback)) = (s.camerasOf t).flatMap fun cam =>
        (planned cam).map (planEntry cam s.channels[cam].travel) :=
      List.flatMap_congr fun cam mem => by rw [camera mem]
    obtain ⟨channels, all, handed, others⟩ := planPassage_plans t i result p s
    have context : p.planned s t i result = { p with
        matching := result
        profile := some (i, code)
        plan := (s.camerasOf t).flatMap fun cam => (planned cam).map (planEntry cam s.channels[cam].travel) } := by
      rw [← plan, ← code_eq]
      rfl
    rw [all, context]
    refine ⟨passage?_setPassage_same .., fun cam mem => ?_, others, fun u ne => track_modTrack_other s ne _, ?_, rfl⟩
    · refine (handed cam mem).trans (congrArg (Channel.handed · _) (camera mem))
    · exact setPassage_stray s t _

end Sys2Proof.Settled
end

section
/-! SUPPORT. Windows examined at a trigger, and the window that opens (R57, R80 to R84, R108, R120 to R122): its slot,
its capture id, and its working set. -/

namespace Sys2Proof.Machine

variable {s : State}

/-! ### A report to the plan (R57) -/

theorem reportWindow_none {t : Track} (none : s.passage? t = none) (cam : Fin 4) (panto : Nat) (o : PlanOutcome) :
    reportWindow t cam panto o s = s := by
  rw [reportWindow, none]

theorem reportWindow_held {t : Track} {q : Passage} (held : s.passage? t = some q) (cam : Fin 4) (panto : Nat)
    (o : PlanOutcome) : reportWindow t cam panto o s = s.setPassage t
      { q with plan := q.plan.map fun e => if e.camera = cam ∧ e.panto = panto then { e with outcome := o } else e } := by
  rw [reportWindow, held]
  rfl

theorem inactive_of_passage {t : Track} (none : s.passage? t = none) : (s.track t).state.isActive = false := by
  cases held : (s.track t).state with
  | active p => cases none.symm.trans ((passage?_eq_some_iff ..).2 held)
  | off | idle | settling => rfl

/-! ### The first of a row (R82) -/

theorem findIndex_eq_some {α : Type} {n : Nat} {v : Vector α n} {test : α → Bool} {k : Fin n} (here : test v[k] = true)
    (before : ∀ j < k, test v[j] = false) : findIndex v test = some k := by
  refine List.find?_eq_some_iff_getElem.2 ⟨here, k, by simp, by simp, fun j below => ?_⟩
  simpa using before ⟨j, below.trans k.isLt⟩ below

theorem findIndex_eq_none {α : Type} {n : Nat} {v : Vector α n} {test : α → Bool} (none : ∀ j : Fin n, test v[j] = false) :
    findIndex v test = Option.none := List.find?_eq_none.2 fun j _ => by rw [none]; exact Bool.false_ne_true

theorem freeSlot_lowest {k : Fin 32} (free : s.slots[k] = none) (held : ∀ j < k, s.slots[j] ≠ none) :
    s.freeSlot = some k :=
  findIndex_eq_some (by rw [free]; rfl) fun j below =>
    Option.isNone_eq_false_iff.2 (Option.isSome_iff_ne_none.2 (held j below))

theorem freeSlot_none (held : ∀ k : Fin 32, s.slots[k] ≠ none) : s.freeSlot = none :=
  findIndex_eq_none fun k => Option.isNone_eq_false_iff.2 (Option.isSome_iff_ne_none.2 (held k))

/-! ### The capture id (R83) -/

theorem slotOf_none {id : CaptureId} (free : s.slotOf id = none) {k : Fin 32} {c : Capture} (held : s.Holds k c) :
    c.id ≠ id := fun same => by
  obtain ⟨j, found⟩ := slotOf_isSome held same
  cases free.symm.trans found

/-- The value tried after `n` others: each of them is held, and it is free unless `n` has reached the limit. -/
theorem freeCaptureId_tries (s : State) (limit : Nat) (id : CaptureId) :
    ∃ n ≤ limit, freeCaptureId s limit id = id + BitVec.ofNat 8 n
      ∧ (∀ m < n, (s.slotOf (id + BitVec.ofNat 8 m)).isSome = true)
      ∧ (n < limit → s.slotOf (id + BitVec.ofNat 8 n) = none) := by
  induction limit generalizing id with
  | zero => exact ⟨0, Nat.le_refl 0, by simp [freeCaptureId], nofun, nofun⟩
  | succ limit ih =>
    by_cases held : (s.slotOf id).isSome = true
    · obtain ⟨n, le, result, tried, free⟩ := ih (id + 1)
      have shift (m : Nat) : id + 1 + BitVec.ofNat 8 m = id + BitVec.ofNat 8 (m + 1) := by
        rw [BitVec.add_assoc, Nat.add_comm m, BitVec.ofNat_add]
        rfl
      refine ⟨n + 1, Nat.succ_le_succ le, ?_, fun m below => ?_, fun below => ?_⟩
      · rw [freeCaptureId, if_pos held, result, shift]
      · cases m with
        | zero => simpa using held
        | succ m => exact shift m ▸ tried m (Nat.lt_of_succ_lt_succ below)
      · exact shift n ▸ free (Nat.lt_of_succ_lt_succ below)
    · refine ⟨0, Nat.zero_le _, ?_, nofun, fun _ => by simpa using held⟩
      rw [freeCaptureId, if_neg held]
      simp

/-- With a slot free, not every one of 32 values is held (R83). -/
theorem exists_freeId {k : Fin 32} (free : s.slots[k] = none) (id : CaptureId) :
    ¬ ∀ m < 32, (s.slotOf (id + BitVec.ofNat 8 m)).isSome = true := by
  intro held
  have slot (m : Fin 32) : ∃ j : Fin 32, ∃ c, s.Holds j c ∧ c.id = id + BitVec.ofNat 8 m.val := by
    obtain ⟨j, found⟩ := Option.isSome_iff_exists.1 (held m m.isLt)
    exact ⟨j, slotOf_some found⟩
  choose f c holds same using slot
  have injective : Function.Injective f := by
    intro a b equal
    have ids : BitVec.ofNat 8 a.val = BitVec.ofNat 8 b.val := by
      rw [← BitVec.add_right_inj id, ← same a, ← same b, holds_unique (holds a) (equal ▸ holds b)]
    have values := congrArg BitVec.toNat ids
    simp only [BitVec.toNat_ofNat] at values
    omega
  obtain ⟨m, at_k⟩ := Finite.injective_iff_surjective.1 injective k
  cases free.symm.trans (at_k ▸ holds m)

/-- R83: the first value, counting up from the counter, that no capture holds. -/
theorem freeCaptureId_first {k : Fin 32} (free : s.slots[k] = none) (id : CaptureId) :
    ∃ n ≤ 31, freeCaptureId s 32 id = id + BitVec.ofNat 8 n ∧ s.slotOf (freeCaptureId s 32 id) = none
      ∧ ∀ m < n, ∃ (j : Fin 32) (d : Capture), s.slots[j] = some d ∧ d.id = id + BitVec.ofNat 8 m := by
  obtain ⟨n, le, result, tried, unheld⟩ := freeCaptureId_tries s 32 id
  have below : n < 32 := lt_of_le_of_ne le fun all => exists_freeId free id (all ▸ tried)
  refine ⟨n, Nat.le_of_lt_succ below, result, result ▸ unheld below, fun m less => ?_⟩
  obtain ⟨j, found⟩ := Option.isSome_iff_exists.1 (tried m less)
  exact ⟨j, slotOf_some found⟩

/-! ### The working set (R120, R121) -/

theorem grantedWorkSet_low {cam : Fin 4} {low : Fin 8} (number : low.val = 2 * cam.val)
    (free : s.workSets[low] = none) : grantedWorkSet s cam .profile = some low := by
  obtain rfl : low = lowWorkSet cam := Fin.ext number
  rw [grantedWorkSet, freeWorkSet, free]
  rfl

theorem grantedWorkSet_high {cam : Fin 4} {low high : Fin 8} (number : low.val = 2 * cam.val)
    (next : high.val = 2 * cam.val + 1) (held : s.workSets[low] ≠ none) (free : s.workSets[high] = none) :
    grantedWorkSet s cam .profile = some high := by
  obtain rfl : low = lowWorkSet cam := Fin.ext number
  obtain rfl : high = highWorkSet cam := Fin.ext next
  rw [grantedWorkSet, freeWorkSet, if_neg (by rwa [Option.isNone_iff_eq_none]), free]
  rfl

theorem grantedWorkSet_full {cam : Fin 4} {low high : Fin 8} (number : low.val = 2 * cam.val)
    (next : high.val = 2 * cam.val + 1) (held : s.workSets[low] ≠ none) (full : s.workSets[high] ≠ none) :
    grantedWorkSet s cam .profile = none := by
  obtain rfl : low = lowWorkSet cam := Fin.ext number
  obtain rfl : high = highWorkSet cam := Fin.ext next
  rw [grantedWorkSet, freeWorkSet, if_neg (by rwa [Option.isNone_iff_eq_none]),
    if_neg (by rwa [Option.isNone_iff_eq_none])]

/-! ### The capture that is created (R82 to R84) -/

/-- The working sets after a capture has been given one, or none. -/
def takenWorkSets (s : State) (k : Fin 32) (o : Opening) : Vector (Option WorkSet) 8 :=
  match o.workSet with
  | none => s.workSets
  | some w => upd s.workSets w fun _ => some (newWorkSet k o)

theorem takenWorkSets_own {k : Fin 32} {o : Opening} {v : Fin 8} (given : o.workSet = some v) :
    (takenWorkSets s k o)[v] = some (newWorkSet k o) := by
  rw [takenWorkSets, given]
  exact upd_get_same ..

theorem takenWorkSets_other {k : Fin 32} {o : Opening} {v : Fin 8} (other : o.workSet ≠ some v) :
    (takenWorkSets s k o)[v] = s.workSets[v] := by
  unfold takenWorkSets
  split
  · rfl
  · next w given => exact upd_get_other _ _ fun same => other (same ▸ given)

/-- Everything a new capture changes. -/
theorem createCapture_eq (k : Fin 32) (o : Opening) (s : State) : createCapture k o s = { s with
    tracks := upd s.tracks (trackIndex o.track) (TrackRec.mapPlan (planSet o.camera o.window.panto (.opened o.id)))
    channels := upd s.channels o.camera fun c => { c with openWindow := some (newOpenWindow o) }
    captureIds := o.id + 1
    slots := upd s.slots k fun _ => some (newCapture s o)
    condRecords := upd s.condRecords k fun _ => some (newCondRecord s o)
    workSets := takenWorkSets s k o
    unprofiled := if o.site.role = .profile ∧ o.workSet = none then s.unprofiled ++ [o.id] else s.unprofiled } := by
  rw [createCapture, reportWindow_eq]
  rfl

/-- What the capture of a window takes from its surroundings (R18, R84). -/
def openingOf (t : Track) (cam : Fin 4) (site : SiteCamera) (p : Passage) (head : HeadClass) (w : Window) (s : State) :
    Opening where
  id := freeCaptureId s 32 s.captureIds
  camera := cam
  track := t
  passage := p
  site := site
  head := head
  blank := blankEntry s.tables.active.blankMap[cam]
  window := w
  workSet := grantedWorkSet s cam site.role

section
variable (t : Track) (cam : Fin 4) (site : SiteCamera) (p : Passage) (head : HeadClass) (w : Window)

theorem takeSlot_full (full : s.freeSlot = none) :
    takeSlot t cam site p head w s = reportWindow t cam w.panto (.dropped .noSlot) s := by
  rw [takeSlot, full]

theorem takeSlot_free {k : Fin 32} (free : s.freeSlot = some k) :
    takeSlot t cam site p head w s = createCapture k (openingOf t cam site p head w s) s := by
  rw [takeSlot, free]
  rfl

end

theorem createCapture_passage (k : Fin 32) (o : Opening) {q : Passage} (held : s.passage? o.track = some q) :
    (createCapture k o s).passage? o.track = some { q with plan := planSet o.camera o.window.panto (.opened o.id) q.plan } := by
  rw [createCapture_eq]
  refine (passage?_mapPlan (track_mapPlan rfl).1).trans ?_
  rw [held]
  rfl

theorem createCapture_noPassage (k : Fin 32) (o : Opening) (none : s.passage? o.track = none) :
    (createCapture k o s).tracks = s.tracks := by
  rw [createCapture_eq]
  exact upd_of_fixed (mapPlan_inactive (inactive_of_passage none) _)

end Sys2Proof.Machine

namespace Sys2Proof.Settled

open Sys2Proof.Machine

/-- Settles O23: the drops come to one change of the plan, and the next window decides the rest. -/
theorem windowsExamined : Obligations.WindowsExamined := by
  refine ⟨?_, fun s t cam panto o => ⟨fun none => reportWindow_none none .., fun q held => reportWindow_held held ..⟩⟩
  intro s missed t cam site p travel gone reached drops
  have examined (rest : List Window) :
      examineWindows t cam site p travel (gone ++ rest) s = examineWindows t cam site p travel rest missed := by
    rw [examineWindows_missed t cam site p reached, drops]
  refine ⟨fun q held => ?_, ?_, fun w rest ahead => ⟨fun opens => ?_, fun late before => ?_⟩⟩
  · rw [drops, foldl_reportWindow, setPassage_of_passage held]
    rfl
  · rw [← List.append_nil gone, examined []]
    rfl
  · rw [examined, examineWindows_opens t cam site p ahead opens]
  · rw [examined, examineWindows_stays t cam site p ahead late before]

/-- Settles O24: the slot and the id are the first ones free, and `createCapture_eq` says all that changes. -/
theorem captureOpens : Obligations.CaptureOpens := by
  rintro s s' t cam site p head w rfl
  refine ⟨fun full => takeSlot_full t cam site p head w (freeSlot_none full), fun k free lowest => ?_⟩
  obtain ⟨n, small, id_eq, unheld, tried⟩ := freeCaptureId_first free s.captureIds
  rw [takeSlot_free t cam site p head w (freeSlot_lowest free lowest)]
  have named (i : Fin 32) (code : Half) (profile : p.profile = some (i, code)) :
      (newCapture s (openingOf t cam site p head w s)).profile = i
        ∧ (newCapture s (openingOf t cam site p head w s)).code = code := by
    simp [newCapture, openingOf, profile]
  have granted (profile : site.role = .profile) :
      (openingOf t cam site p head w s).workSet = grantedWorkSet s cam .profile :=
    congrArg (grantedWorkSet s cam) profile
  have noPassage := createCapture_noPassage (s := s) k (openingOf t cam site p head w s)
  have passage (q : Passage) := createCapture_passage (s := s) (q := q) k (openingOf t cam site p head w s)
  have tracks := (track_mapPlan (createCapture_tracks k (openingOf t cam site p head w s) s))
  rw [createCapture_eq] at noPassage passage tracks ⊢
  refine ⟨newCapture s (openingOf t cam site p head w s), upd_get_same .., fun j ne => upd_get_other _ _ ne.symm,
    fun j d held => slotOf_none unheld held, rfl, ⟨n, small, id_eq, tried⟩, rfl, rfl, rfl, rfl, rfl, rfl, rfl, rfl, rfl,
    rfl, rfl, rfl, rfl, rfl, rfl, rfl, rfl, rfl, rfl, rfl, rfl, rfl, rfl, rfl, rfl, rfl, rfl, rfl, named, rfl, rfl, rfl,
    noPassage, passage, tracks.2, ?_, upd_get_same .., fun j ne => upd_get_other _ _ ne.symm, upd_get_same ..,
    fun d ne => upd_get_other _ _ ne.symm, fun image => ?_, fun profile low high number next => ⟨fun free => ?_,
      fun held free => ?_, fun held full => ⟨?_, ?_⟩⟩, fun v given => ⟨?_, takenWorkSets_own given⟩,
    fun v other => takenWorkSets_other other, rfl⟩
  · exact (congrArg TrackRec.stray tracks.1).trans (mapPlan_stray ..)
  · exact ⟨congrArg (grantedWorkSet s cam) image, if_neg fun ⟨profile, _⟩ => nomatch image.symm.trans profile⟩
  · exact (granted profile).trans (grantedWorkSet_low number free)
  · exact (granted profile).trans (grantedWorkSet_high number next held free)
  · exact (granted profile).trans (grantedWorkSet_full number next held full)
  · exact if_pos ⟨profile, (granted profile).trans (grantedWorkSet_full number next held full)⟩
  · exact if_neg fun ⟨_, empty⟩ => nomatch empty.symm.trans given

end Sys2Proof.Settled
end

section
/-! SUPPORT. TRACK-CONTROL and ABANDON (R39 to R41, R187, R202): the track a byte names, the forms an owner takes, and
the row that runs each. -/

namespace Sys2Proof.Machine

variable {s : State}

/-! ### A reply that arrives alone (R194) -/

/-- Where nothing but the replies waits otherwise than before, at most a reply arrives. -/
theorem together_of_reply {u : State} (same : ∀ c, c ≠ .reply → waits u c = waits s c) : together s u = u := by
  have only : ∀ c ∈ arrivals s u, c = .reply := by
    intro c mem
    by_contra ne
    obtain ⟨listed, arrives⟩ := List.mem_filter.1 mem
    simp only [Bool.and_eq_true, List.all_eq_true] at arrives
    obtain ⟨⟨waiting, higher⟩, -⟩ := arrives
    have above := higher c listed
    rw [← same c ne, waiting] at above
    simp at above
  have once : (arrivals s u).Nodup := List.Nodup.filter _ (by decide : txClasses.Nodup)
  have few : (arrivals s u).length ≤ 1 :=
    (once.subperm (l₂ := [.reply]) fun c mem => List.mem_singleton.2 (only c mem)).length_le
  exact if_neg (Nat.not_le.2 (Nat.lt_succ_of_le few))

/-! ### The owners -/

theorem trackOf_eq_some_iff (b : Byte) (t : Track) : trackOf b = some t ↔ b.toNat = trackNumber t := by
  unfold trackOf
  split <;> cases t <;> simp_all [trackNumber]

section
variable {params : List Byte} {b : Byte} {t : Track}

theorem ownEnable_named (named : b.toNat = trackNumber t) (s : State) : ownEnable [b, 0x01#8] s = enableTrack t s := by
  unfold ownEnable
  dsimp only
  rw [(trackOf_eq_some_iff b t).2 named]
  rfl

theorem ownDisable_named (named : b.toNat = trackNumber t) (s : State) :
    ownDisable [b, 0x00#8] s = disableTrack t s := by
  unfold ownDisable
  dsimp only
  rw [(trackOf_eq_some_iff b t).2 named]
  rfl

theorem ownAbandon_named (named : b.toNat = trackNumber t) (s : State) : ownAbandon [b] s = abandonTrack t s := by
  unfold ownAbandon
  dsimp only
  rw [(trackOf_eq_some_iff b t).2 named]

/-- Any other form is refused (R202). -/
theorem ownEnable_malformed (other : ∀ (t : Track) (b : Byte), b.toNat = trackNumber t → params ≠ [b, 0x01#8])
    (s : State) : ownEnable params s = (s, answer .range) := by
  unfold ownEnable
  split
  · next track action =>
    split
    · rfl
    · next t named =>
      refine if_neg fun enable => ?_
      exact other t track ((trackOf_eq_some_iff track t).1 named) (by rw [enable])
  · rfl

theorem ownDisable_malformed (other : ∀ (t : Track) (b : Byte), b.toNat = trackNumber t → params ≠ [b, 0x00#8])
    (s : State) : ownDisable params s = (s, answer .range) := by
  unfold ownDisable
  split
  · next track action =>
    split
    · rfl
    · next t named =>
      refine if_neg fun disable => ?_
      exact other t track ((trackOf_eq_some_iff track t).1 named) (by rw [disable])
  · rfl

theorem ownAbandon_malformed (other : ∀ (t : Track) (b : Byte), b.toNat = trackNumber t → params ≠ [b])
    (s : State) : ownAbandon params s = (s, answer .range) := by
  unfold ownAbandon
  split
  · next track =>
    split
    · rfl
    · next t named => exact absurd rfl (other t track ((trackOf_eq_some_iff track t).1 named))
  · rfl

end

/-! ### What they do to a track -/

theorem enableTrack_off {t : Track} (off : (s.track t).state = .off) : enableTrack t s =
    if (s.siteTrack? t).isSome then (s.modTrack t fun r => { r with state := .idle }, answer .ok)
    else (s, answer .state) := by
  rw [enableTrack, off]
  rfl

theorem enableTrack_on {t : Track} (on : (s.track t).state ≠ .off) : enableTrack t s = (s, answer .ok) := by
  unfold enableTrack
  split
  · next off => exact absurd off on
  all_goals rfl

theorem disableTrack_active {t : Track} {p : Passage} (held : s.passage? t = some p) :
    disableTrack t s = (endPassage t .abandoned .off s, answer .ok) := by
  rw [disableTrack, (passage?_eq_some_iff ..).1 held]

theorem disableTrack_inactive {t : Track} (none : s.passage? t = none) :
    disableTrack t s = (s.modTrack t fun r => { r with state := .off }, answer .ok) := by
  unfold disableTrack
  split
  · next p active => cases none.symm.trans ((passage?_eq_some_iff ..).2 active)
  · next off =>
    exact congrArg (·, answer .ok) (modTrack_fixed (congrArg (fun x => { s.track t with state := x }) off.symm)).symm
  · rfl
  · rfl

theorem abandonTrack_active {t : Track} {p : Passage} (held : s.passage? t = some p) :
    abandonTrack t s = (endPassage t .abandoned .settling s, answer .ok) := by
  rw [abandonTrack, (passage?_eq_some_iff ..).1 held]

theorem abandonTrack_inactive {t : Track} (none : s.passage? t = none) : abandonTrack t s = (s, answer .state) := by
  unfold abandonTrack
  split
  · next p active => cases none.symm.trans ((passage?_eq_some_iff ..).2 active)
  all_goals rfl

/-! ### The rows (R185; log entry 4) -/

section
variable {c : Command} {rest : List Command} (ready : s.Ready c rest)
include ready

/-- A row whose command does not stand at the head of the queue has no effect. -/
theorem interpret_other {mine : Command → Bool} (other : mine c = false) (owner : Owner) :
    interpret mine owner s = s := by
  rw [interpret_ready ready, other]
  rfl

theorem interpretTogether_ready {mine : Command → Bool} (own : mine c = true) {owner : Owner} {u : State}
    {status : Status} (answered : owner c.params (s.taken c rest) = (u, answer status)) :
    interpretTogether mine owner s = together s (u.replied c status none []) := by
  rw [interpretTogether, interpret_ready ready, if_pos own, answered]
  rfl

theorem exec_trackControlEnable (code : c.code = 0x08#8) (second : c.params[1]? ≠ some 0x00#8) {u : State}
    {status : Status} (answered : ownEnable c.params (s.taken c rest) = (u, answer status)) :
    exec .trackControlEnable s = .next (u.replied c status none []) := by
  have own : (hasCode 8 c && !isDisable c) = true := by
    simp [hasCode, isDisable, code, second]
  refine (atOnce_interpret (mine := fun c => hasCode 8 c && !isDisable c) ready own ownEnable).trans ?_
  rw [answered]
  rfl

theorem exec_trackControlDisable (code : c.code = 0x08#8) (second : c.params[1]? = some 0x00#8) {u : State}
    {status : Status} (answered : ownDisable c.params (s.taken c rest) = (u, answer status)) :
    exec .trackControlDisable s = .next (together s (u.replied c status none [])) := by
  have own : (hasCode 8 c && isDisable c) = true := by
    simp [hasCode, isDisable, code, second]
  refine (atOnce_awake _ ready.awake).trans (congrArg _ ?_)
  exact interpretTogether_ready ready (mine := fun c => hasCode 8 c && isDisable c) own answered

theorem exec_abandon (code : c.code = 0x09#8) {u : State} {status : Status}
    (answered : ownAbandon c.params (s.taken c rest) = (u, answer status)) :
    exec .abandon s = .next (together s (u.replied c status none [])) :=
  (atOnce_awake _ ready.awake).trans (congrArg _ (interpretTogether_ready ready (hasCode_of_eq code) answered))

end

/-- One that changes nothing but a track replies alone. -/
theorem together_replied_modTrack (c : Command) (rest : List Command) (t : Track) (f : TrackRec → TrackRec)
    (status : Status) : together s (((s.taken c rest).modTrack t f).replied c status none [])
      = ((s.taken c rest).modTrack t f).replied c status none [] := together_of_reply fun d ne => by
  cases d with
  | reply => exact absurd rfl ne
  | alert | summary | note | capture => rfl

theorem together_replied (c : Command) (rest : List Command) (status : Status) :
    together s ((s.taken c rest).replied c status none []) = (s.taken c rest).replied c status none [] :=
  together_of_reply fun d ne => by
    cases d with
    | reply => exact absurd rfl ne
    | alert | summary | note | capture => rfl

end Sys2Proof.Machine

namespace Sys2Proof.Settled

open Sys2Proof.Machine

/-- Settles O48: each form of the parameters by its owner, each owner by the state of the track. -/
theorem trackCommands : Obligations.TrackCommands := by
  rintro s mid c rest ready rfl
  have enable := @exec_trackControlEnable s c rest ready
  have disable := @exec_trackControlDisable s c rest ready
  have abandon := @exec_abandon s c rest ready
  refine ⟨fun t b named => ⟨fun code params => ?_, fun code params => ?_, fun code params => ?_⟩,
    fun code second other => enable code second (ownEnable_malformed other _),
    fun code second other => (disable code second (ownDisable_malformed other _)).trans
      (congrArg _ (together_replied ..)),
    fun code second => ?_, fun code second => ?_,
    fun code other => (abandon code (ownAbandon_malformed other _)).trans (congrArg _ (together_replied ..))⟩
  · have second : c.params[1]? ≠ some 0x00#8 := by simp [params]
    have owner : ownEnable c.params (s.taken c rest) = enableTrack t (s.taken c rest) := by
      rw [params, ownEnable_named named]
    refine ⟨fun off valid => ?_, fun off invalid => ?_, fun on => ?_⟩
    · have taken := (enableTrack_off (s := s.taken c rest) off).trans (if_pos valid)
      exact enable code second (owner.trans taken)
    · have unnamed : ¬ (s.siteTrack? t).isSome = true := by rw [invalid]; exact Bool.false_ne_true
      have refused := (enableTrack_off (s := s.taken c rest) off).trans (if_neg unnamed)
      exact enable code second (owner.trans refused)
    · exact enable code second (owner.trans (enableTrack_on on))
  · have second : c.params[1]? = some 0x00#8 := by rw [params]; rfl
    have owner : ownDisable c.params (s.taken c rest) = disableTrack t (s.taken c rest) := by
      rw [params, ownDisable_named named]
    refine ⟨fun active => ?_, fun none => ?_⟩
    · obtain ⟨p, held⟩ := Option.isSome_iff_exists.1 active
      exact disable code second (owner.trans (disableTrack_active held))
    · exact (disable code second (owner.trans (disableTrack_inactive none))).trans
        (congrArg _ (together_replied_modTrack ..))
  · have owner : ownAbandon c.params (s.taken c rest) = abandonTrack t (s.taken c rest) := by
      rw [params, ownAbandon_named named]
    refine ⟨fun active => ?_, fun none => ?_⟩
    · obtain ⟨p, held⟩ := Option.isSome_iff_exists.1 active
      exact abandon code (owner.trans (abandonTrack_active held))
    · exact (abandon code (owner.trans (abandonTrack_inactive none))).trans (congrArg _ (together_replied ..))
  · refine (atOnce_awake _ ready.awake).trans (congrArg _ (interpret_other ready ?_ ownEnable))
    simp [isDisable, second]
  · refine (atOnce_awake _ ready.awake).trans (congrArg _ ?_)
    rw [interpretTogether, interpret_other ready (by simp [isDisable, second])]
    exact together_of_reply fun _ _ => rfl

end Sys2Proof.Settled
end

section
/-! SUPPORT. What every command keeps of the captures, the frame store and the delivery: the parts that most operations
leave alone (`StoreKeep`), and the induction over the commands, once for every property of these parts (`StoreClosed`). -/

namespace Sys2Proof.Machine

/-! ### The frame -/

/-- The captures with what is held for them, the frame store, the delivery, the tags and the record in transmission stand
as they stood. -/
structure StoreKeep (s t : State) : Prop extends SameStore s t where
  slots : t.slots = s.slots
  condRecords : t.condRecords = s.condRecords
  workSets : t.workSets = s.workSets
  store : t.store = s.store

theorem StoreKeep.refl (s : State) : StoreKeep s s :=
  ⟨⟨rfl, rfl, rfl, fun _ => rfl, fun _ => rfl, rfl⟩, rfl, rfl, rfl, rfl⟩

/-- A change of the tables, the lines, the tracks, the clock or the uplink that leaves the record in transmission alone. -/
theorem StoreKeep.of_eq {s t : State} (delivery : t.delivery = s.delivery) (sender : t.sender = s.sender)
    (freeList : t.freeList = s.freeList) (ports : t.ports = s.ports) (channels : t.channels = s.channels)
    (transmitter : t.uplink.transmitter = s.uplink.transmitter) (slots : t.slots = s.slots)
    (condRecords : t.condRecords = s.condRecords) (workSets : t.workSets = s.workSets) (store : t.store = s.store) :
    StoreKeep s t :=
  ⟨⟨delivery, sender, freeList, fun _ => by rw [ports], fun _ => by rw [channels], transmitter⟩, slots, condRecords,
    workSets, store⟩

theorem setUplink_storeKeep (s : State) {u : Uplink} (h : u.transmitter = s.uplink.transmitter) :
    StoreKeep s { s with uplink := u } := .of_eq rfl rfl rfl rfl rfl h rfl rfl rfl rfl

theorem setTables_storeKeep (s : State) (x : Tables) : StoreKeep s { s with tables := x } :=
  .of_eq rfl rfl rfl rfl rfl rfl rfl rfl rfl rfl

theorem modTrack_storeKeep (s : State) (t : Track) (f : TrackRec → TrackRec) : StoreKeep s (s.modTrack t f) :=
  .of_eq rfl rfl rfl rfl rfl rfl rfl rfl rfl rfl

theorem modLine_storeKeep (s : State) (l : Fin 8) (f : Line → Line) : StoreKeep s (s.modLine l f) :=
  .of_eq rfl rfl rfl rfl rfl rfl rfl rfl rfl rfl

theorem setStation_storeKeep (s : State) (i : Fin 4) (w : Option Wait) : StoreKeep s (s.setStation i w) :=
  .of_eq rfl rfl rfl rfl rfl rfl rfl rfl rfl rfl

theorem bumpUnpaired_storeKeep (s : State) (i : Fin 4) : StoreKeep s (s.bumpUnpaired i) :=
  .of_eq rfl rfl rfl rfl rfl rfl rfl rfl rfl rfl

theorem bumpGlitch_storeKeep (s : State) (l : Fin 8) : StoreKeep s (s.bumpGlitch l) :=
  .of_eq rfl rfl rfl rfl rfl rfl rfl rfl rfl rfl

theorem setFreeIndex_storeKeep (s : State) (n : Nat) : StoreKeep s { s with freeIndex := n } :=
  .of_eq rfl rfl rfl rfl rfl rfl rfl rfl rfl rfl

theorem setPending_storeKeep (s : State) (rest : List Instr) : StoreKeep s { s with pending := rest } :=
  .of_eq rfl rfl rfl rfl rfl rfl rfl rfl rfl rfl

theorem rstnRises_storeKeep (s : State) : StoreKeep s (rstnRises s) :=
  .of_eq rfl rfl rfl rfl rfl rfl rfl rfl rfl rfl

theorem together_storeKeep (s t : State) : StoreKeep t (together s t) := by
  obtain ⟨l, e⟩ := together_eq s t
  rw [e]
  exact .of_eq rfl rfl rfl rfl rfl rfl rfl rfl rfl rfl

/-- A change of the ports that leaves every outstanding trigger list alone. -/
theorem setPorts_storeKeep {s : State} {ports : Vector Port 4}
    (h : ∀ c : Fin 4, ports[c].outstanding = s.ports[c].outstanding) : StoreKeep s { s with ports := ports } :=
  ⟨⟨rfl, rfl, rfl, h, fun _ => rfl, rfl⟩, rfl, rfl, rfl, rfl⟩

theorem modPort_storeKeep (s : State) (cam : Fin 4) {f : Port → Port} (h : ∀ p, (f p).outstanding = p.outstanding) :
    StoreKeep s (s.modPort cam f) := by
  refine setPorts_storeKeep fun c => ?_
  rw [upd_get]
  split
  · exact h _
  · rfl

theorem StoreKeep.trans {s t u : State} (a : StoreKeep s t) (b : StoreKeep t u) : StoreKeep s u where
  delivery := b.delivery.trans a.delivery
  sender := b.sender.trans a.sender
  freeList := b.freeList.trans a.freeList
  outstanding c := (b.outstanding c).trans (a.outstanding c)
  openWindow c := (b.openWindow c).trans (a.openWindow c)
  transmitter := b.transmitter.trans a.transmitter
  slots := b.slots.trans a.slots
  condRecords := b.condRecords.trans a.condRecords
  workSets := b.workSets.trans a.workSets
  store := b.store.trans a.store

/-! ### Events and owners that keep it -/

theorem staleNow_storeKeep (t : Track) (s : State) : StoreKeep s (staleNow t s) := by
  unfold staleNow
  split
  · split
    · exact modTrack_storeKeep ..
    · exact .refl s
  · exact .refl s

theorem settleNow_storeKeep (t : Track) (s : State) : StoreKeep s (settleNow t s) := by
  unfold settleNow
  split
  · split
    · exact modTrack_storeKeep ..
    · exact .refl s
  all_goals exact .refl s

theorem cameraUp_storeKeep (cam : Fin 4) (heldNs : Nat) (s : State) : StoreKeep s (cameraUp cam heldNs s) := by
  unfold cameraUp
  split
  · exact .refl s
  · exact modPort_storeKeep s cam fun _ => rfl

theorem cameraDown_storeKeep (cam : Fin 4) (inReception : Bool) (s : State) :
    StoreKeep s (cameraDown cam inReception s) := by
  unfold cameraDown
  split
  · exact modPort_storeKeep s cam fun _ => rfl
  · exact .refl s

theorem sendMessage_outstanding (p : Port) : p.sendMessage.outstanding = p.outstanding := by
  unfold Port.sendMessage
  split
  · rfl
  · split <;> rfl

theorem failFrame_storeKeep (cam : Fin 4) (s : State) : StoreKeep s (failFrame cam s) :=
  modPort_storeKeep s cam fun _ => rfl

theorem goodNote_storeKeep (cam : Fin 4) (bytes : List Byte) (s : State) : StoreKeep s (goodNote cam bytes s) := by
  unfold goodNote
  split
  · exact setUplink_storeKeep _ rfl
  · exact modPort_storeKeep s cam fun _ => rfl

theorem uplinkUp_storeKeep (heldNs : Nat) (s : State) : StoreKeep s (uplinkUp heldNs s) := by
  unfold uplinkUp
  split
  · exact .refl s
  · exact setUplink_storeKeep _ rfl

theorem takeFrame_transmitter (f : ReceivedFrame) (u : Uplink) : (u.takeFrame f).transmitter = u.transmitter := by
  cases f with
  | receiveError | foreign => rfl
  | command c =>
    unfold Uplink.takeFrame Uplink.offerCommand
    dsimp only
    split <;> rfl

theorem frameArrives_storeKeep (fresh : Bool) (frame : List Byte) (s : State) :
    StoreKeep s (frameArrives fresh frame s) := by
  unfold frameArrives
  split
  · exact setUplink_storeKeep _ (takeFrame_transmitter ..)
  · exact .refl s

theorem ownTableRead_storeKeep (params : List Byte) (s : State) : StoreKeep s (ownTableRead params s).1 := by
  unfold ownTableRead
  split <;> exact .refl s

theorem ownStage_storeKeep (apply : TableId → List (Nat × Option TableEntry) → Images → Images) (params : List Byte)
    (s : State) : StoreKeep s (ownStage apply params s).1 := by
  unfold ownStage
  split
  · exact .refl s
  · exact setTables_storeKeep ..

theorem commitNamed_storeKeep (t : TableId) (s : State) : StoreKeep s (commitNamed t s).1 := by
  unfold commitNamed
  split
  · exact .refl s
  · split
    · exact .refl s
    · split
      · exact .refl s
      · exact setTables_storeKeep ..

theorem ownCommit_storeKeep (params : List Byte) (s : State) : StoreKeep s (ownCommit params s).1 := by
  unfold ownCommit clearLatch
  split
  · exact setTables_storeKeep ..
  · exact (commitNamed_storeKeep ..).trans (setTables_storeKeep ..)

theorem enableTrack_storeKeep (t : Track) (s : State) : StoreKeep s (enableTrack t s).1 := by
  unfold enableTrack
  split
  · split
    · exact modTrack_storeKeep ..
    · exact .refl s
  all_goals exact .refl s

theorem ownEnable_storeKeep (params : List Byte) (s : State) : StoreKeep s (ownEnable params s).1 := by
  unfold ownEnable
  split
  · split
    · exact .refl s
    · split
      · exact enableTrack_storeKeep ..
      · exact .refl s
  · exact .refl s

theorem clearCounters_storeKeep (s : State) : StoreKeep s (clearCounters s) :=
  ⟨⟨rfl, rfl, rfl, fun c => (congrArg Port.outstanding (map_get s.ports c Port.clearCounters)).trans rfl, fun _ => rfl,
    rfl⟩, rfl, rfl, rfl, rfl⟩

theorem ownClearConditions_storeKeep (params : List Byte) (s : State) : StoreKeep s (ownClearConditions params s).1 :=
  setUplink_storeKeep s rfl

theorem ownCameraPass_storeKeep (params : List Byte) (s : State) : StoreKeep s (ownCameraPass params s).1 := by
  unfold ownCameraPass
  split
  · exact .refl s
  · split
    · exact .refl s
    · split
      · exact modPort_storeKeep s _ fun _ => rfl
      · exact .refl s

/-- The end of a record that is no capture record does not concern the sender (R177). -/
theorem senderEnd_other {kind : TxKind} (h : kind.isCapture = false) (s : State) : senderEnd kind s = s := by
  unfold senderEnd
  split
  · rfl
  · cases kind with
    | reply | alert | summary | note => rfl
    | header | block | captureEnd => cases h

/-- What the end of a record brings: the sender's step, and after the RESET reply the soft reset (R174, R175, R191). -/
theorem recordEnds_cases (kind : TxKind) (s : State) :
    recordEnds kind s = senderEnd kind s ∨ recordEnds kind s = softReset (senderEnd kind s) := by
  cases kind with
  | reply code =>
    rw [senderEnd_other rfl]
    unfold recordEnds
    dsimp only
    split
    · exact .inr rfl
    · exact .inl rfl
  | alert | summary | note => exact .inl (senderEnd_other rfl s).symm
  | header | block | captureEnd => exact .inl rfl

/-! ### Properties that every command keeps -/

/-- A property of what `StoreKeep` speaks of that time, the resets and the operations on captures, rows and capture
records keep. -/
structure StoreClosed (P : State → Prop) : Prop where
  keep : ∀ {s t}, StoreKeep s t → P s → P t
  pass : ∀ {s} ns, P s → P (s.pass ns)
  softReset : ∀ {s}, P s → P (softReset s)
  hardReset : ∀ {s} low, P s → P (hardReset low s)
  crosses : ∀ {s} t x, P s → P (takeCrossing t x s)
  ends : ∀ {s} t r d, P s → P (endPassage t r d s)
  triggers : ∀ {s} cam, P s → P (triggerNow cam s)
  resolves : ∀ {s} cam hows, P s → P (resolveHeads cam hows s)
  takes : ∀ {s}, P s → P (senderTake s)
  sends : ∀ {s} {x : Transmission} (f : Uplink → Uplink), s.uplink.transmitter = some x →
    (f s.uplink).transmitter = none → P s → P (senderEnd x.kind (s.modUplink f))
  grants : ∀ {s} c, s.uplink.transmitter = none → P s → P (grantClass c s)

section
variable {P : State → Prop} (hP : StoreClosed P)
include hP

theorem StoreClosed.timed {after : Nat} {f : State → State} {s t : State} (hf : ∀ u, P u → P (f u))
    (e : timed after f s = .next t) (h : P s) : P t := atOnce_keeps (hP.pass after h) (hf _) e

/-! #### Lines, pulses and waits -/

theorem StoreClosed.takePulse (t : Track) (st : Station) (d : Detector) (time : Stamp) {s : State} (h : P s) :
    P (takePulse t st d time s) := by
  have waits (w : Option Wait) := hP.keep (setStation_storeKeep s (stationIndex t st) w) h
  unfold Machine.takePulse
  split
  · exact waits _
  · split
    · exact hP.crosses _ _ (hP.keep (bumpUnpaired_storeKeep ..) (waits _))
    · exact hP.crosses _ _ (waits _)

theorem StoreClosed.expireWait (t : Track) (st : Station) {s : State} (h : P s) : P (expireWait t st s) := by
  unfold Machine.expireWait
  split
  · exact h
  · split
    · exact hP.crosses _ _ (hP.keep ((setStation_storeKeep ..).trans (bumpUnpaired_storeKeep ..)) h)
    · exact h

theorem StoreClosed.acceptPulse (l : Fin 8) {s : State} (h : P s) : P (acceptPulse l s) := by
  unfold Machine.acceptPulse
  split
  · exact h
  · exact hP.takePulse _ _ _ _ (hP.keep (modLine_storeKeep ..) h)

theorem StoreClosed.trailingEdge (l : Fin 8) {s : State} (h : P s) : P (trailingEdge l s) := by
  unfold Machine.trailingEdge
  split
  · exact hP.keep ((modLine_storeKeep ..).trans (bumpGlitch_storeKeep ..)) h
  · exact hP.keep (modLine_storeKeep ..) (hP.acceptPulse l h)

theorem StoreClosed.lineEvent (l : Fin 8) (inReset : Line → Line) {live : State → State} {s : State} (h : P s)
    (edge : P (live s)) : P (lineEvent l inReset live s) := by
  unfold Machine.lineEvent
  split
  · exact hP.keep (modLine_storeKeep ..) h
  · exact edge

theorem StoreClosed.quietNow (t : Track) {s : State} (h : P s) : P (quietNow t s) := by
  unfold Machine.quietNow
  split
  · exact h
  · split
    · exact hP.ends _ _ _ h
    · exact h

/-! #### Camera ports -/

theorem StoreClosed.forwardJudged (cam : Fin 4) (f : ForwardFrame) {s : State} (h : P s) : P (forwardJudged cam f s) := by
  cases f with
  | row echo pixels =>
    show P (goodRow cam echo pixels s)
    unfold goodRow
    split
    · exact hP.keep (modPort_storeKeep s cam fun _ => rfl) h
    · exact hP.resolves _ _ h
  | badRow => exact hP.resolves _ _ (hP.keep (failFrame_storeKeep ..) h)
  | note bytes => exact hP.keep (goodNote_storeKeep ..) h
  | badNote | unknown => exact hP.keep (failFrame_storeKeep ..) h
  | nothing => exact h

theorem StoreClosed.forwardFrame (cam : Fin 4) (fresh : Bool) (frame : List Byte) {s : State} (h : P s) :
    P (forwardFrame cam fresh frame s) := by
  unfold Machine.forwardFrame
  split
  · exact hP.forwardJudged _ _ h
  · exact h

/-! #### The uplink -/

theorem StoreClosed.grant {s : State} (h : P s) : P (grant s) := by
  unfold Machine.grant
  split
  · next free =>
    unfold grantNext
    split
    · exact h
    · exact hP.grants (s := s.chosen _) _ free.2 (hP.keep (setFreeIndex_storeKeep ..) h)
  · exact h

theorem StoreClosed.recordEndNow {s : State} (h : P s) : P (recordEndNow s) := by
  unfold Machine.recordEndNow
  split
  · exact h
  · next x sent =>
    split
    · have ended := hP.sends (fun u => { u with transmitter := none }) sent rfl h
      rcases recordEnds_cases x.kind (s.modUplink fun u => { u with transmitter := none }) with e | e <;> rw [e]
      · exact ended
      · exact hP.softReset ended
    · exact h

theorem StoreClosed.uplinkDown (inReception : Bool) {s : State} (h : P s) : P (uplinkDown inReception s) := by
  have down : P (cutRecord s.uplink.transmitter (s.modUplink (Uplink.goDown inReception))) := by
    cases sent : s.uplink.transmitter with
    | none => exact hP.keep (setUplink_storeKeep s sent.symm) h
    | some x => exact hP.sends _ sent rfl h
  unfold Machine.uplinkDown
  split
  · dsimp only
    split
    · exact hP.softReset down
    · exact down
  · exact h

theorem StoreClosed.rstnFalls (lowNs : Nat) {s : State} (h : P s) : P (rstnFalls lowNs s) := by
  unfold Machine.rstnFalls
  split
  · exact hP.hardReset _ h
  · split
    · exact h
    · have counted := hP.keep (setFreeIndex_storeKeep s (s.freeIndex + 1)) h
      unfold shortPulse
      dsimp only
      split
      · exact hP.hardReset _ counted
      · exact counted

/-! #### The interpreter (R185) -/

theorem StoreClosed.runCommand {owner : Owner} (ho : ∀ params u, P u → P (owner params u).1) (c : Command) {s : State}
    (h : P s) : P (runCommand owner c s) :=
  hP.keep (setUplink_storeKeep _ rfl) (ho _ _ (hP.keep (setUplink_storeKeep s rfl) h))

theorem StoreClosed.interpret {owner : Owner} (ho : ∀ params u, P u → P (owner params u).1) (mine : Command → Bool)
    {s : State} (h : P s) : P (interpret mine owner s) := by
  unfold Machine.interpret
  split
  · exact h
  · split
    · exact hP.runCommand ho _ h
    · exact h

theorem StoreClosed.interpretTogether {owner : Owner} (ho : ∀ params u, P u → P (owner params u).1)
    (mine : Command → Bool) {s : State} (h : P s) : P (interpretTogether mine owner s) :=
  hP.keep (together_storeKeep ..) (hP.interpret ho mine h)

/-- A recorder's command whose owner leaves the captures, the store and the delivery alone. -/
theorem StoreClosed.interpretQuiet {owner : Owner} (ho : ∀ params u, StoreKeep u (owner params u).1)
    (mine : Command → Bool) {s : State} (h : P s) : P (Machine.interpret mine owner s) :=
  hP.interpret (fun params u => hP.keep (ho params u)) mine h

theorem StoreClosed.interpretReset {s : State} (h : P s) : P (interpretReset s) := by
  unfold Machine.interpretReset
  split
  · exact h
  · next c _ =>
    split
    · have run := hP.runCommand (owner := ownReset) (fun _ u => hP.keep (setUplink_storeKeep u rfl)) c h
      unfold resetIfDown
      split
      · exact hP.softReset run
      · exact run
    · exact h

theorem StoreClosed.disableTrack (t : Track) {s : State} (h : P s) : P (disableTrack t s).1 := by
  unfold Machine.disableTrack
  split
  · exact hP.ends _ _ _ h
  · exact h
  · exact hP.keep (modTrack_storeKeep ..) h
  · exact hP.keep (modTrack_storeKeep ..) h

theorem StoreClosed.abandonTrack (t : Track) {s : State} (h : P s) : P (abandonTrack t s).1 := by
  unfold Machine.abandonTrack
  split
  · exact hP.ends _ _ _ h
  all_goals exact h

theorem StoreClosed.ownDisable (params : List Byte) {s : State} (h : P s) : P (ownDisable params s).1 := by
  unfold Machine.ownDisable
  split
  · split
    · exact h
    · split
      · exact hP.disableTrack _ h
      · exact h
  · exact h

theorem StoreClosed.ownAbandon (params : List Byte) {s : State} (h : P s) : P (ownAbandon params s).1 := by
  unfold Machine.ownAbandon
  split
  · split
    · exact h
    · exact hP.abandonTrack _ h
  · exact h

theorem StoreClosed.setDrain (value : Bool) {s : State} (h : P s) : P (setDrain value s) :=
  hP.takes (hP.keep (setUplink_storeKeep s rfl) h)

theorem StoreClosed.ownDrainOn (params : List Byte) {s : State} (h : P s) : P (ownDrainOn params s).1 := by
  unfold Machine.ownDrainOn
  split
  · exact hP.setDrain _ h
  · exact h

theorem StoreClosed.ownDrainOff (params : List Byte) {s : State} (h : P s) : P (ownDrainOff params s).1 := by
  unfold Machine.ownDrainOff
  split
  · exact hP.setDrain _ h
  · exact h

/-! #### Every step -/

theorem StoreClosed.exec (c : Instr) {s t : State} (e : exec c s = .next t) (h : P s) : P t := by
  cases c with
  | powerOn => cases e; exact hP.hardReset _ h
  | rstnReset after lowNs => cases e; exact hP.rstnFalls lowNs (hP.pass after h)
  | rstnRelease after => cases e; exact hP.keep (rstnRises_storeKeep _) (hP.pass after h)
  | leadingEdge after l =>
    cases e
    exact hP.lineEvent l _ (hP.pass after h) (hP.keep (modLine_storeKeep ..) (hP.pass after h))
  | trailingEdge after l => cases e; exact hP.lineEvent l _ (hP.pass after h) (hP.trailingEdge l (hP.pass after h))
  | pulseAccepted after l => exact hP.timed (fun _ => hP.acceptPulse l) e h
  | pairTimeout after k st => exact hP.timed (fun _ => hP.expireWait k st) e h
  | staleExpiry after k => exact hP.timed (fun u => hP.keep (staleNow_storeKeep k u)) e h
  | quietDeadline after k => exact hP.timed (fun _ => hP.quietNow k) e h
  | settleExpiry after k => exact hP.timed (fun u => hP.keep (settleNow_storeKeep k u)) e h
  | trigger after cam => exact hP.timed (fun _ => hP.triggers cam) e h
  | rowTimeout after cam => exact hP.timed (fun _ => hP.resolves cam _) e h
  | rowFrame after cam fresh frame => exact hP.timed (fun _ => hP.forwardFrame cam fresh frame) e h
  | cameraNote after cam fresh frame => exact hP.timed (fun _ => hP.forwardFrame cam fresh frame) e h
  | cameraLinkUp after cam heldNs => exact hP.timed (fun u => hP.keep (cameraUp_storeKeep cam heldNs u)) e h
  | cameraLinkDown after cam inReception =>
    exact hP.timed (fun u => hP.keep (cameraDown_storeKeep cam inReception u)) e h
  | passThroughSend cam =>
    exact atOnce_closed (f := fun u => u.modPort cam Port.sendMessage)
      (hP.keep (modPort_storeKeep s cam sendMessage_outstanding)) e h
  | messageSent after cam =>
    exact hP.timed (f := fun u => u.modPort cam fun p => { p with lane := p.lane.finishMessage })
      (fun u => hP.keep (modPort_storeKeep u cam fun _ => rfl)) e h
  | uplinkLinkUp after heldNs => exact hP.timed (fun u => hP.keep (uplinkUp_storeKeep heldNs u)) e h
  | uplinkLinkDown after inReception => exact hP.timed (fun _ => hP.uplinkDown inReception) e h
  | frameReceived after fresh frame => exact hP.timed (fun u => hP.keep (frameArrives_storeKeep fresh frame u)) e h
  | recordGrant => exact atOnce_closed hP.grant e h
  | recordEnd after => exact hP.timed (fun _ => hP.recordEndNow) e h
  | status => exact atOnce_closed (hP.interpretQuiet (fun _ u => .refl u) _) e h
  | tableRead => exact atOnce_closed (hP.interpretQuiet ownTableRead_storeKeep _) e h
  | stageLoad => exact atOnce_closed (hP.interpretQuiet (ownStage_storeKeep _) _) e h
  | stagePatch => exact atOnce_closed (hP.interpretQuiet (ownStage_storeKeep _) _) e h
  | commitEnable => exact atOnce_closed (hP.interpretQuiet (fun _ u => setTables_storeKeep u _) _) e h
  | commitDisable => exact atOnce_closed (hP.interpretQuiet (fun _ u => setTables_storeKeep u _) _) e h
  | commit => exact atOnce_closed (hP.interpretQuiet ownCommit_storeKeep _) e h
  | trackControlEnable => exact atOnce_closed (hP.interpretQuiet ownEnable_storeKeep _) e h
  | trackControlDisable => exact atOnce_closed (hP.interpretTogether (fun params _ => hP.ownDisable params) _) e h
  | abandon => exact atOnce_closed (hP.interpretTogether (fun params _ => hP.ownAbandon params) _) e h
  | drainOn => exact atOnce_closed (hP.interpretTogether (fun params _ => hP.ownDrainOn params) _) e h
  | drainOff => exact atOnce_closed (hP.interpret (fun params _ => hP.ownDrainOff params) _) e h
  | clearStats => exact atOnce_closed (hP.interpretQuiet (fun _ u => clearCounters_storeKeep u) _) e h
  | clearConditions => exact atOnce_closed (hP.interpretQuiet ownClearConditions_storeKeep _) e h
  | cameraPass => exact atOnce_closed (hP.interpretQuiet ownCameraPass_storeKeep _) e h
  | reset => exact atOnce_closed hP.interpretReset e h
  | unknownCommand => exact atOnce_closed (hP.interpretQuiet (fun _ u => .refl u) _) e h

theorem StoreClosed.step {s t : State} (e : step s = .next t) (h : P s) : P t := by
  unfold Machine.step at e
  split at e
  · cases e; exact hP.pass _ h
  · next c rest _ => exact hP.exec c e (hP.keep (setPending_storeKeep s rest) h)

end

end Sys2Proof.Machine
end

section
/-! SUPPORT. The law of the frame store through every step (R83, R160, R161, R169, R171, R174): `StoreSound` with the
canonical form of the store, which storing a row keeps and no other operation touches. -/

namespace Sys2Proof.Machine

/-! ### The store outside of rows (R160) -/

theorem together_store (s t : State) : (together s t).store = t.store := (together_storeKeep s t).store

theorem senderTake_store (s : State) : (senderTake s).store = s.store := by
  unfold senderTake
  split
  · split
    · rfl
    · split <;> rfl
  · rfl

theorem conditionClose_store (k : Fin 32) (s : State) : (conditionClose k s).store = s.store := by
  unfold conditionClose
  split
  · rfl
  · exact senderTake_store _

theorem tryComplete_store (k : Fin 32) (s : State) : (tryComplete k s).store = s.store := by
  unfold tryComplete
  split
  · rfl
  · split
    · exact conditionClose_store ..
    · rfl

theorem completeCapture_store (id : CaptureId) (s : State) : (completeCapture id s).store = s.store := by
  unfold completeCapture
  split
  · rfl
  · exact tryComplete_store ..

theorem closeCapture_store (id : CaptureId) (r : CloseReason) (s : State) : (closeCapture id r s).store = s.store := by
  unfold closeCapture
  split
  · rfl
  · exact tryComplete_store ..

theorem closeWindow_store (cam : Fin 4) (r : CloseReason) (s : State) : (closeWindow cam r s).store = s.store := by
  unfold closeWindow
  split
  · rfl
  · exact closeCapture_store ..

theorem reportWindow_store (t : Track) (cam : Fin 4) (panto : Nat) (o : PlanOutcome) (s : State) :
    (reportWindow t cam panto o s).store = s.store := by rw [reportWindow_eq]; rfl

theorem takeSlot_store (t : Track) (cam : Fin 4) (site : SiteCamera) (p : Passage) (head : HeadClass) (w : Window)
    (s : State) : (takeSlot t cam site p head w s).store = s.store := by
  unfold takeSlot
  split
  · exact reportWindow_store ..
  · rw [createCapture_eq]

theorem openWindow_store (t : Track) (cam : Fin 4) (site : SiteCamera) (p : Passage) (w : Window) (s : State) :
    (openWindow t cam site p w s).store = s.store := by
  unfold openWindow
  split
  · rfl
  · exact (takeSlot_store ..).trans (closeWindow_store ..)

theorem examineWindows_store (t : Track) (cam : Fin 4) (site : SiteCamera) (p : Passage) (travel : Nat)
    (ws : List Window) (s : State) : (examineWindows t cam site p travel ws s).store = s.store := by
  induction ws generalizing s with
  | nil => rfl
  | cons w rest ih =>
    unfold examineWindows
    split
    · exact (ih _).trans (reportWindow_store ..)
    · split
      · exact openWindow_store ..
      · rfl

theorem closeReached_store (cam : Fin 4) (travel : Nat) (s : State) : (closeReached cam travel s).store = s.store := by
  unfold closeReached
  split
  · rfl
  · split
    · exact closeWindow_store ..
    · split
      · exact closeWindow_store ..
      · rfl

theorem tagTrigger_store (cam : Fin 4) (pitch : Bool) (s : State) : (tagTrigger cam pitch s).store = s.store := by
  unfold tagTrigger
  split
  · rfl
  · dsimp only
    split <;> rfl

theorem stopChannel_store (t : Track) (r : DropReason) (cam : Fin 4) (s : State) :
    (stopChannel t r cam s).store = s.store := by
  by_cases stopped : s.channels[cam].run = .stopped
  · rw [stopChannel_stopped t r stopped]
  · rw [stopChannel_running t r stopped]
    exact closeWindow_store ..

theorem stopChannels_store (t : Track) (r : DropReason) (s : State) : (stopChannels t r s).store = s.store :=
  (together_store ..).trans
    (inFreeOrder_induct (P := fun u => u.store = s.store) rfl fun _ _ h => (stopChannel_store ..).trans h)

theorem endPassage_store (t : Track) (r : EndReason) (d : EndTo) (s : State) :
    (endPassage t r d s).store = s.store := by
  unfold endPassage
  dsimp only
  split
  · exact stopChannels_store ..
  · exact (together_store ..).trans (stopChannels_store ..)

/-- Operations on cameras one after the other leave the store alone when each does. -/
theorem foldl_store {f : State → Fin 4 → State} (h : ∀ s c, (f s c).store = s.store) (cams : List (Fin 4)) (s : State) :
    (cams.foldl f s).store = s.store := by
  induction cams generalizing s with
  | nil => rfl
  | cons c rest ih => exact (ih _).trans (h s c)

theorem planPassage_store (t : Track) (profile : Fin 32) (m : MatchState) (p : Passage) (s : State) :
    (planPassage t profile m p s).store = s.store := by
  unfold planPassage
  refine (foldl_store (fun u cam => ?_) _ _).trans ?_ <;> rfl

theorem applyDecision_store (t : Track) (d : Decision) (p : Passage) (s : State) :
    (applyDecision t d p s).store = s.store := by
  cases d with
  | seeking => rfl
  | matched | fallback => exact planPassage_store ..

theorem appendAxle_store (t : Track) (x : Crossing) (p : Passage) (s : State) : (appendAxle t x p s).store = s.store := by
  unfold appendAxle
  split
  · dsimp only
    split
    · unfold matchSpacing
      split <;> exact applyDecision_store ..
    · rfl
  · rfl

theorem markReversed_store (t : Track) (s : State) : (markReversed t s).store = s.store := by
  unfold markReversed
  split
  · rfl
  · split
    · rfl
    · exact stopChannels_store ..

theorem crossActive_store (t : Track) (site : SiteTrack) (x : Crossing) (p : Passage) (s : State) :
    (crossActive t site x p s).store = s.store := by
  unfold crossActive
  dsimp only
  split
  · exact appendAxle_store ..
  · unfold axleOut
    dsimp only
    split
    · split
      · exact endPassage_store ..
      · rfl
    · rfl
  · refine (markReversed_store ..).trans ?_
    split <;> rfl
  · refine (markReversed_store ..).trans ?_
    split <;> rfl

theorem startChannel_store (t : Track) (pace : Nat) (cam : Fin 4) (s : State) :
    (startChannel t pace cam s).store = s.store := by
  unfold startChannel
  split <;> rfl

theorem startPassage_store (t : Track) (x : Crossing) (pace : Nat) (s : State) :
    (startPassage t x pace s).store = s.store := by
  unfold startPassage
  split
  · rfl
  · exact foldl_store (fun _ _ => startChannel_store ..) _ _

theorem crossIdle_store (t : Track) (x : Crossing) (s : State) : (crossIdle t x s).store = s.store := by
  unfold crossIdle
  split
  · exact startPassage_store ..
  all_goals rfl

theorem takeCrossing_store (t : Track) (x : Crossing) (s : State) : (takeCrossing t x s).store = s.store := by
  unfold takeCrossing
  split
  · rfl
  · rfl
  · exact crossIdle_store ..
  · split
    · rfl
    · exact crossActive_store ..

theorem senderEnd_store (kind : TxKind) (s : State) : (senderEnd kind s).store = s.store := by
  unfold senderEnd
  split
  · rfl
  · cases kind with
    | header | reply | alert | summary | note => rfl
    | block rows =>
      unfold releaseHead
      dsimp only
      split
      · split
        · rfl
        · split <;> rfl
      · rfl
    | captureEnd => exact senderTake_store _

theorem grantClass_store (c : TxClass) (s : State) : (grantClass c s).store = s.store := by
  cases c with
  | capture =>
    unfold grantClass grantCapture
    dsimp only
    split
    · rfl
    · split <;> rfl
  | reply | alert | summary | note => unfold grantClass; dsimp only; split <;> rfl

theorem pass_store (s : State) (ns : Nat) : (s.pass ns).store = s.store := by
  unfold State.pass
  split <;> rfl

/-! ### The frame store's law -/

/-- The law of the frame store with the canonical form of its contents. -/
structure StoreLaw (s : State) : Prop where
  sound : StoreSound s
  canonical : s.store.wf = true

/-- A number that stands in the free list or in a chain is one of the 512 (R161). -/
theorem SegmentsPartitioned.lt {s : State} (h : SegmentsPartitioned s) {g : Nat} (held : 0 < timesHeld s g) : g < 512 := by
  by_contra large
  rw [h g, if_neg large] at held
  exact absurd held (Nat.lt_irrefl 0)

theorem timesHeld_freeList {s : State} {g : Nat} (mem : g ∈ s.freeList) : 0 < timesHeld s g :=
  Nat.add_pos_left (List.count_pos_iff.2 mem) _

theorem timesHeld_chain {s : State} {k : Fin 32} {c : Capture} (holds : s.slots[k] = some c) {g : Nat}
    (mem : g ∈ c.chain) : 0 < timesHeld s g := by
  refine Nat.add_pos_right _ (Finset.sum_pos' (fun _ _ => Nat.zero_le _) ⟨k, Finset.mem_univ k, ?_⟩)
  rw [holds]
  exact List.count_pos_iff.2 mem

/-- With the segments partitioned, the ranges of the segment numbers need no claim of their own. -/
theorem storeLaw_iff (s : State) : StoreLaw s ↔ StoreSound s ∧ StoreInRange s :=
  ⟨fun h => ⟨h.sound, h.canonical, fun _ mem => h.sound.segments.lt (timesHeld_freeList mem),
      fun _ _ holds _ mem => h.sound.segments.lt (timesHeld_chain holds mem)⟩,
    fun h => ⟨h.1, h.2.store⟩⟩

/-- The law goes over to a sound state with the same store. -/
theorem StoreLaw.move {s t : State} (h : StoreLaw s) (sound : StoreSound t) (store : t.store = s.store) : StoreLaw t :=
  ⟨sound, store ▸ h.canonical⟩

theorem StoreLaw.keep {s t : State} (h : StoreLaw s) (k : StoreKeep s t) : StoreLaw t :=
  h.move (h.sound.congr k.toSameStore k.slots) k.store

/-! ### Rows (R99 to R101, R166) -/

/-- Storing a row keeps the canonical form: its segment is one of the free list or of the capture's chain. -/
theorem StoreLaw.storeRow_canonical {s : State} (h : StoreLaw s) (k : Fin 32) (row : StoredRow) :
    (storeRow k row s).store.wf = true := storeRow_wf ((storeLaw_iff s).1 h).2 k row

theorem StoreLaw.receiveRow_canonical {s : State} (h : StoreLaw s) (k : Fin 32) (e : Entry) (px : List Byte) :
    (receiveRow k e px s).store.wf = true := by
  have counted (f : Capture → Capture) (hf : ∀ c, SameCapture c (f c)) : StoreLaw (s.modSlot k f) :=
    h.move (h.sound.modSlotSame k f hf) rfl
  unfold Machine.receiveRow
  split
  · have stored := StoreLaw.storeRow_canonical (k := k)
      (counted (fun c => { c with received := c.received + 1, repairRun := 0 }) fun c => .of_state rfl rfl rfl rfl rfl)
    dsimp only
    split
    · unfold profileRow
      split <;> exact stored _
    · exact stored _
  · exact h.canonical

theorem StoreLaw.missRow_canonical {s : State} (h : StoreLaw s) (k : Fin 32) (e : Entry) :
    (missRow k e s).store.wf = true := by
  unfold Machine.missRow
  split
  · split
    · refine StoreLaw.storeRow_canonical (h.move (h.sound.modSlotSame k _ fun c => ?_) rfl) k _
      exact .of_state rfl rfl rfl rfl rfl
    · exact h.canonical
  · exact h.canonical

theorem StoreLaw.resolveEntry_canonical {s : State} (h : StoreLaw s) (e : Entry) (how : Resolution) :
    (resolveEntry e how s).store.wf = true := by
  unfold Machine.resolveEntry
  split
  · exact h.canonical
  · split
    · exact h.canonical
    · cases how with
      | received px => exact h.receiveRow_canonical ..
      | missing => exact h.missRow_canonical ..

theorem StoreLaw.takeHead {s : State} (h : StoreLaw s) (cam : Fin 4) (how : Resolution) :
    StoreLaw (takeHead cam how s) := by
  refine ⟨h.sound.takeHead cam how, ?_⟩
  unfold Machine.takeHead
  split
  · exact h.canonical
  · next e rest list =>
    refine StoreLaw.resolveEntry_canonical (h.move (h.sound.modPort cam _ fun x mem => ?_) rfl) e how
    rw [list]
    exact List.mem_cons_of_mem _ mem

theorem StoreLaw.takeHeads {s : State} (h : StoreLaw s) (cam : Fin 4) (hows : List Resolution) :
    StoreLaw (takeHeads cam hows s) := by
  induction hows generalizing s with
  | nil => exact h
  | cons how rest ih => exact ih (h.takeHead cam how)

theorem StoreLaw.resolveHeads {s : State} (h : StoreLaw s) (cam : Fin 4) (hows : List Resolution) :
    StoreLaw (resolveHeads cam hows s) := by
  refine StoreLaw.keep (inFreeOrder_induct ((h.takeHeads cam hows).keep (setFreeIndex_storeKeep ..))
    fun id u hu => ?_) (together_storeKeep ..)
  exact hu.move (hu.sound.completeCapture id) (completeCapture_store ..)

/-! ### The trigger (R70) -/

theorem StoreLaw.issueTrigger {s : State} (h : StoreLaw s) (cam : Fin 4) (site : SiteCamera) (travel : Nat) :
    StoreLaw (issueTrigger cam site travel s) := by
  refine ⟨h.sound.issueTrigger cam site travel, ?_⟩
  have counted : StoreLaw (s.modChannel cam fun c => { c with sequence := c.sequence + 1 }) :=
    h.move (h.sound.modChannel cam _ (.inl rfl)) rfl
  unfold Machine.issueTrigger portTrigger
  dsimp only
  split
  · exact h.canonical
  · exact (counted.resolveHeads cam [.missing]).canonical

theorem StoreLaw.triggerNow {s : State} (h : StoreLaw s) (cam : Fin 4) : StoreLaw (triggerNow cam s) := by
  unfold Machine.triggerNow
  split
  · exact h
  · split
    · split
      · unfold takeTrigger
        refine StoreLaw.issueTrigger (h.move (((((h.sound.modChannel _ _ (.inl rfl)).closeReached _ _).examineWindows
          ..).tagTrigger _ _)) ?_) ..
        exact (tagTrigger_store ..).trans ((examineWindows_store ..).trans (closeReached_store ..))
      · exact h
    · exact h

/-! ### Every step -/

theorem storeLaw_closed : StoreClosed StoreLaw where
  keep k h := h.keep k
  pass ns h := h.move (h.sound.pass ns) (pass_store ..)
  softReset h := h.move (.softReset _) rfl
  hardReset low h := h.move (.hardReset low _) rfl
  crosses t x h := h.move (h.sound.takeCrossing t x) (takeCrossing_store ..)
  ends t r d h := h.move (h.sound.endPassage t r d) (endPassage_store ..)
  triggers cam h := h.triggerNow cam
  resolves cam hows h := h.resolveHeads cam hows
  takes h := h.move h.sound.senderTake (senderTake_store _)
  sends f sent free h := h.move (h.sound.senderEnd sent f free) (senderEnd_store ..)
  grants c free h := h.move (h.sound.grantClass free c) (grantClass_store ..)

end Sys2Proof.Machine

namespace Sys2Proof.Settled

open Sys2Proof.Machine

/-- Settles O58: every command keeps `StoreLaw`, which says both invariants. -/
theorem stepsKeepStoreSound : Obligations.StepsKeepStoreSound := by
  intro s t sound range stepped
  exact (storeLaw_iff t).1 (storeLaw_closed.step stepped ((storeLaw_iff s).2 ⟨sound, range⟩))

end Sys2Proof.Settled
end

section
/-! SUPPORT. Travel (R74, R75): the step of an interval, and why the carry keeps it exact. -/

namespace Sys2Proof.Machine

theorem travelAfter_held (interval pace travel carry : Nat) :
    travelAfter true interval pace travel carry = (travel, carry) := rfl

theorem travelAfter_running (interval pace travel carry : Nat) : travelAfter false interval pace travel carry
    = (min (travel + (interval * 1000 + carry) / pace) travelMax, (interval * 1000 + carry) % pace) := rfl

/-- A quotient taken in two parts, the remainder of the first carried into the second. -/
theorem add_div_carry (a b : Nat) {pace : Nat} (positive : 0 < pace) :
    a / pace + (b + a % pace) / pace = (a + b) / pace := by
  have parts : b + a % pace + pace * (a / pace) = a + b := by rw [Nat.add_assoc, Nat.mod_add_div, Nat.add_comm]
  rw [← parts, Nat.add_mul_div_left _ _ positive, Nat.add_comm]

/-- A sum held at a largest value comes out the same when it has been held on the way too. -/
theorem held_largest (a b largest : Nat) : min (min a largest + b) largest = min (a + b) largest := by omega

/-- R74: with a constant period and pace, every step leaves the whole distance divided once. -/
theorem travel_exact {period pace : Nat} (positive : 0 < pace) {x : Nat → Nat × Nat} (start : x 0 = (0, 0))
    (next : ∀ k, x (k + 1) = travelAfter false period pace (x k).1 (x k).2) (n : Nat) :
    x n = (min (n * (period * 1000) / pace) travelMax, n * (period * 1000) % pace) := by
  induction n with
  | zero => simp [start]
  | succ n ih =>
    have distance := add_div_carry (n * (period * 1000)) (period * 1000) positive
    rw [next, ih, travelAfter_running, Nat.succ_mul]
    refine Prod.ext ?_ ?_
    · rw [← distance]
      exact held_largest ..
    · rw [Nat.add_comm (n * _)]
      exact Nat.add_mod_mod ..

end Sys2Proof.Machine

namespace Sys2Proof.Settled

open Sys2Proof.Machine

/-- Settles O22: the travel and the carry of `travel_exact`, which a HELD interval leaves alone. -/
theorem travelIsExact : Obligations.TravelIsExact := by
  intro period pace n x positive start next
  have exactly := travel_exact positive start next n
  exact ⟨congrArg Prod.fst exactly, congrArg Prod.snd exactly, travelAfter_held ..⟩

end Sys2Proof.Settled
end

section
/-! SUPPORT. Windows that close (R76, R78, R79, R81, R86, R87): which step of a trigger closes one, and what the close
does to its capture. -/

namespace Sys2Proof.Machine

variable {s : State} {cam : Fin 4}

/-! ### Which window closes (R78, R79, R81) -/

theorem closeReached_none (closed : s.channels[cam].openWindow = none) (travel : Nat) : closeReached cam travel s = s := by
  rw [closeReached, closed]

theorem closeReached_open {w : OpenWindow} (opened : s.channels[cam].openWindow = some w) (travel : Nat) :
    closeReached cam travel s = if w.tagged = w.rowLimit then closeWindow cam .limit s
      else if w.window.closePoint ≤ travel then closeWindow cam .none s else s := by
  rw [closeReached, opened]

/-- Neither the row limit nor the close point is reached: the window stays open (R78, R79). -/
theorem closeReached_stays {w : OpenWindow} (opened : s.channels[cam].openWindow = some w)
    (below : w.tagged ≠ w.rowLimit) {travel : Nat} (before : travel < w.window.closePoint) :
    closeReached cam travel s = s := by
  rw [closeReached_open opened, if_neg below, if_neg (Nat.not_le.2 before)]

theorem closeWindow_none (closed : s.channels[cam].openWindow = none) (r : CloseReason) : closeWindow cam r s = s := by
  rw [closeWindow, closed]

theorem closeWindow_open {w : OpenWindow} (opened : s.channels[cam].openWindow = some w) (r : CloseReason) :
    closeWindow cam r s = closeCapture w.capture r (s.modChannel cam fun c => { c with openWindow := none }) := by
  rw [closeWindow, opened]

/-- A window that opens: the OPEN one is cut first (R81). -/
theorem openWindow_named {v : Window} {head : HeadClass}
    (valid : s.tables.active.headClasses[v.headClass] = some head) (t : Track) (site : SiteCamera) (p : Passage) :
    openWindow t cam site p v s = takeSlot t cam site p head v (closeWindow cam .cut s) := by
  rw [openWindow, valid]

/-! ### The capture of a closed window (R87, R102, R165) -/

theorem isComplete_iff (s : State) (c : Capture) :
    isComplete s c = true ↔ c.state = .closing ∧ ∀ e ∈ s.ports[c.camera].outstanding, e.capture ≠ some c.id := by
  simp [isComplete]

/-- An OPEN capture at its CLOSING notice (R87, R165). -/
theorem Capture.closing_opened {c : Capture} (opened : c.state = .opened) (r : CloseReason) :
    c.closing r = { c with state := .closing, close := r, conditions := c.conditions ||| closeCond r } :=
  if_pos opened

/-- The capture in a slot waits for entries: it is not complete (R102). -/
theorem tryComplete_waits {k : Fin 32} {c : Capture} (held : s.slots[k] = some c)
    (waits : ∃ e ∈ s.ports[c.camera].outstanding, e.capture = some c.id) : tryComplete k s = s := by
  rw [tryComplete, held]
  refine if_neg fun complete => ?_
  obtain ⟨e, mem, tagged⟩ := waits
  exact ((isComplete_iff s c).1 complete).2 e mem tagged

/-- A CLOSING capture of which no entry is left completes (R102). -/
theorem tryComplete_done {k : Fin 32} {c : Capture} (held : s.slots[k] = some c) (closing : c.state = .closing)
    (done : ∀ e ∈ s.ports[c.camera].outstanding, e.capture ≠ some c.id) : tryComplete k s = conditionClose k s := by
  rw [tryComplete, held]
  exact if_pos ((isComplete_iff s c).2 ⟨closing, done⟩)

theorem modSlot_held {k : Fin 32} {c : Capture} (held : s.slots[k] = some c) (f : Capture → Capture) :
    s.modSlot k f = { s with slots := upd s.slots k fun _ => some (f c) } := by
  unfold State.modSlot
  rw [upd_congr (g := fun _ => some (f c)) (by rw [held]; rfl)]

/-- The CLOSING notice to the OPEN capture in a slot (R165). -/
theorem closeCapture_opened {id : CaptureId} {k : Fin 32} {c : Capture} (found : s.slotOf id = some k)
    (held : s.slots[k] = some c) (opened : c.state = .opened) (r : CloseReason) :
    closeCapture id r s = tryComplete k { s with
      slots := upd s.slots k fun _ =>
        some { c with state := .closing, close := r, conditions := c.conditions ||| closeCond r } } := by
  rw [closeCapture, found]
  dsimp only
  rw [modSlot_held held, Capture.closing_opened opened]

end Sys2Proof.Machine

namespace Sys2Proof.Settled

open Sys2Proof.Machine

/-- Settles O25: which window closes by the steps of a trigger, the capture of a closed window by its entries, and the
channel that stops by its run. -/
theorem windowCloses : Obligations.WindowCloses := by
  refine ⟨fun s cam w travel opened => ⟨fun full => ?_, fun below reached => ?_, fun below before => ?_,
    fun t site p v head valid => openWindow_named valid t site p, fun r k c n found held open_ noted => ?_⟩,
    fun s cam closed => ⟨fun r => closeWindow_none closed r, fun travel => closeReached_none closed travel,
      fun t site p v head valid => ?_⟩,
    fun s cam t why stopped => stopChannel_stopped t why stopped,
    fun s halted cam t k why held period off elapsed running halt => ?_⟩
  · rw [closeReached_open opened, if_pos full]
  · rw [closeReached_open opened, if_neg below, if_pos reached]
  · exact closeReached_stays opened below before
  · subst noted
    have noticed := closeCapture_opened (s := s.modChannel cam fun x => { x with openWindow := none }) found held open_ r
    rw [closeWindow_open opened, noticed]
    exact ⟨fun waits => tryComplete_waits (upd_get_same ..) waits,
      fun done => tryComplete_done (upd_get_same ..) rfl done⟩
  · rw [openWindow_named valid, closeWindow_none closed]
  · rw [stopChannel_running t why (by rw [running]; nofun), halt, foldl_reportWindow]

end Sys2Proof.Settled
end

section
/-! SUPPORT. The trigger (R70 to R73, R85, R93): when it is taken, and all it changes while no window closes, opens or is
dropped. -/

namespace Sys2Proof.Machine

variable {s : State} {cam : Fin 4}

/-! ### When a trigger is taken (R68, R70) -/

theorem exec_trigger (after : Nat) (cam : Fin 4) (awake : (s.pass after).rstnLow = false) :
    exec (.trigger after cam) s = .next (triggerNow cam (s.pass after)) := atOnce_awake (triggerNow cam) awake

theorem onClock_iff (s : State) : s.onClock = true ↔ s.subUs % 40 = 0 := decide_eq_true_iff

theorem triggerNow_stopped (stopped : s.channels[cam].run = .stopped) : triggerNow cam s = s := by
  rw [triggerNow, stopped]

section
variable {t : Track} {held offPitch : Bool} {period elapsed : Nat}
  (running : s.channels[cam].run = .running t held period offPitch elapsed)
include running

/-- An interval that has not ended, or a moment that is no edge of the clock (R68). -/
theorem triggerNow_early (early : elapsed < period ∨ s.subUs % 40 ≠ 0) : triggerNow cam s = s := by
  rw [triggerNow, running]
  refine if_neg fun ⟨ended, edge⟩ => ?_
  exact early.elim (Nat.not_lt.2 ended) fun off => off ((onClock_iff s).1 edge)

theorem triggerNow_taken (ended : period ≤ elapsed) (edge : s.subUs % 40 = 0) {site : SiteCamera} {p : Passage}
    (entry : s.siteCamera? cam = some site) (active : s.passage? t = some p) :
    triggerNow cam s = takeTrigger cam t site p period offPitch elapsed s := by
  rw [triggerNow, running]
  dsimp only
  rw [if_pos ⟨ended, (onClock_iff s).2 edge⟩, entry, active]

end

/-! ### PENDING windows that stay (R80) -/

theorem modChannel_fixed {f : Channel → Channel} (h : f s.channels[cam] = s.channels[cam]) : s.modChannel cam f = s := by
  unfold State.modChannel
  rw [upd_of_fixed h]

/-- The first PENDING window is not due: the list stays as it is, and nothing opens. -/
theorem examineWindows_waits (t : Track) (site : SiteCamera) (p : Passage) {travel : Nat}
    (waits : ∀ v, s.channels[cam].windows.head? = some v →
      v.late = false ∧ travel < v.openPoint ∧ travel < v.closePoint) :
    examineWindows t cam site p travel s.channels[cam].windows s = s := by
  cases list : s.channels[cam].windows with
  | nil => exact modChannel_fixed (by rw [← list])
  | cons w rest =>
    obtain ⟨late, before, ahead⟩ := waits w (by rw [list]; rfl)
    rw [examineWindows_stays t cam site p ahead late before]
    exact modChannel_fixed (by rw [← list])

/-! ### The tag (R85, R87) -/

theorem tagTrigger_none (closed : s.channels[cam].openWindow = none) (pitch : Bool) : tagTrigger cam pitch s = s := by
  rw [tagTrigger, closed]

theorem Capture.tag_eq (pitch : Bool) (c : Capture) : c.tag pitch = { c with
    tagged := c.tagged + 1
    conditions := if pitch then condAdd c.conditions .pitch else c.conditions } := by
  cases pitch with
  | true => rfl
  | false => simp [Capture.tag, condIf]

theorem tagTrigger_open {w : OpenWindow} {k : Fin 32} {c : Capture} (opened : s.channels[cam].openWindow = some w)
    (found : s.slotOf w.capture = some k) (held : s.slots[k] = some c) (pitch : Bool) :
    tagTrigger cam pitch s = { s.modChannel cam fun x => { x with openWindow := some { w with tagged := w.tagged + 1 } } with
      slots := upd s.slots k fun _ => some (c.tag pitch) } := by
  rw [tagTrigger, opened]
  dsimp only
  rw [found]
  exact modSlot_held (s := s.modChannel cam _) held _

/-! ### The port (R93 to R95) -/

/-- A token goes at once on a free lane, else it waits (R94, R201). -/
theorem ReturnLane.takeToken_eq (sequence : Half) (l : ReturnLane) : l.takeToken sequence =
    if l.item = none ∧ l.waiting = [] ∧ 8 ≤ l.idle then
      { item := some (.token sequence), elapsed := 0, waiting := [], idle := 0 }
    else { l with waiting := l.waiting ++ [sequence] } := by
  unfold ReturnLane.takeToken ReturnLane.isFree
  simp only [decide_eq_true_eq]
  rfl

/-- A port that takes a trigger: the entry at the tail of its list, and the token with the link UP (R93). -/
theorem Port.takeTrigger_eq (e : Entry) : Port.takeTrigger e = fun x => { x with
    outstanding := x.outstanding ++ [e]
    lane :=
      if x.up = false then x.lane
      else if x.lane.item = none ∧ x.lane.waiting = [] ∧ 8 ≤ x.lane.idle then
        { item := some (.token e.sequence), elapsed := 0, waiting := [], idle := 0 }
      else { x.lane with waiting := x.lane.waiting ++ [e.sequence] } } := by
  funext x
  rw [Port.takeTrigger, ReturnLane.takeToken_eq]
  cases x.up <;> rfl

/-- With room in the port's list nothing expires (R93). -/
theorem portTrigger_room (room : s.ports[cam].outstanding.length < 64) (e : Entry) :
    portTrigger cam e s = s.modPort cam (Port.takeTrigger e) := by
  rw [portTrigger, if_pos (show _ < outstandingPlaces from room)]

theorem issueTrigger_room (room : s.ports[cam].outstanding.length < 64) (site : SiteCamera) (travel : Nat) :
    issueTrigger cam site travel s = (s.modChannel cam fun c => { c with sequence := c.sequence + 1 }).modPort cam
      (Port.takeTrigger (triggerEntry s cam site travel)) :=
  portTrigger_room (s := s.modChannel cam fun c => { c with sequence := c.sequence + 1 }) room _

/-! ### A trigger that moves no window -/

/-- The steps of a trigger under which the OPEN window, if there is one, stays: `tagged` is the state after the tag, and
`tag` what the entry carries (R72, R85). -/
structure TagsAs (cam : Fin 4) (travel : Nat) (pitch : Bool) (s tagged : State) (tag : Option CaptureId) : Prop where
  stays : closeReached cam travel s = s
  tags : tagTrigger cam pitch s = tagged
  ports : tagged.ports = s.ports
  entry : ∀ site, triggerEntry tagged cam site travel =
    { sequence := s.channels[cam].sequence, capture := tag, travel := travel, issue := s.time
      expiry := later s.time site.rowTimeout }

/-- Without an OPEN window a trigger is untagged. -/
theorem TagsAs.untagged (closed : s.channels[cam].openWindow = none) (travel : Nat) (pitch : Bool) :
    TagsAs cam travel pitch s s none where
  stays := closeReached_none closed travel
  tags := tagTrigger_none closed pitch
  ports := rfl
  entry site := by rw [triggerEntry, closed]; rfl

/-- Under an OPEN window a trigger is tagged with its capture. -/
theorem TagsAs.opened {w : OpenWindow} {k : Fin 32} {c : Capture} (opened : s.channels[cam].openWindow = some w)
    (below : w.tagged ≠ w.rowLimit) {travel : Nat} (before : travel < w.window.closePoint)
    (found : s.slotOf w.capture = some k) (held : s.slots[k] = some c) (pitch : Bool) :
    TagsAs cam travel pitch s
      { s.modChannel cam fun x => { x with openWindow := some { w with tagged := w.tagged + 1 } } with
        slots := upd s.slots k fun _ => some (c.tag pitch) } (some w.capture) where
  stays := closeReached_stays opened below before
  tags := tagTrigger_open opened found held pitch
  ports := rfl
  entry site := by
    rw [triggerEntry]
    simp only [State.modChannel_channels, State.modChannel_time, upd_get_same]
    rfl

/-- R70 with no window that closes, opens or is dropped, and room in the port's list. -/
theorem TagsAs.issues {travel : Nat} {pitch : Bool} {tagged : State} {tag : Option CaptureId}
    (h : TagsAs cam travel pitch s tagged tag) (t : Track) (site : SiteCamera) (p : Passage)
    (waits : ∀ v, s.channels[cam].windows.head? = some v →
      v.late = false ∧ travel < v.openPoint ∧ travel < v.closePoint)
    (room : s.ports[cam].outstanding.length < 64) :
    issueTrigger cam site travel (tagTrigger cam pitch (examineWindows t cam site p travel
        (closeReached cam travel s).channels[cam].windows (closeReached cam travel s)))
      = (tagged.modChannel cam fun c => { c with sequence := c.sequence + 1 }).modPort cam (Port.takeTrigger
          { sequence := s.channels[cam].sequence, capture := tag, travel := travel, issue := s.time
            expiry := later s.time site.rowTimeout }) := by
  rw [h.stays, examineWindows_waits t site p waits, h.tags, issueTrigger_room (by rw [h.ports]; exact room), h.entry]

end Sys2Proof.Machine

namespace Sys2Proof.Settled

open Sys2Proof.Machine

/-- Settles O21: when a trigger is taken, its steps in order, and the untagged and the tagged trigger by `TagsAs`. -/
theorem triggerTaken : Obligations.TriggerTaken := by
  intro s now stepped after cam pass awake
  rw [exec_trigger after cam (pass ▸ awake), ← pass]
  refine ⟨fun stopped => by rw [triggerNow_stopped stopped], fun t held period offPitch elapsed running =>
    ⟨fun early => by rw [triggerNow_early running early], ?_⟩⟩
  intro site p travel carry ended edge entry active moved step
  have steps : triggerNow cam now = issueTrigger cam site travel (tagTrigger cam (offPitch || p.stale)
      (examineWindows t cam site p travel (closeReached cam travel stepped).channels[cam].windows
        (closeReached cam travel stepped))) := by
    have travels : travelAfter p.stale period p.pace now.channels[cam].travel now.channels[cam].carry = (travel, carry) :=
      moved.symm
    rw [triggerNow_taken running ended edge entry active, takeTrigger, travels, step]
  rw [steps]
  refine ⟨rfl, fun tag tagged waits room cases => ?_⟩
  have same : stepped.channels[cam].windows = now.channels[cam].windows
      ∧ stepped.channels[cam].openWindow = now.channels[cam].openWindow
      ∧ stepped.channels[cam].sequence = now.channels[cam].sequence := by
    rw [step, modChannel_same]
    exact ⟨rfl, rfl, rfl⟩
  obtain ⟨windows, open_, sequence⟩ := same
  have tags : TagsAs cam travel (offPitch || p.stale) stepped tagged tag := by
    rcases cases with ⟨closed, rfl, rfl⟩ | ⟨w, k, c, opened, below, before, found, holds, rfl, rfl⟩
    · exact .untagged (open_.trans closed) ..
    · rw [← Capture.tag_eq]
      subst step
      exact .opened (open_.trans opened) below before found holds _
  rw [tags.issues t site p (windows ▸ waits) (by rw [step]; exact room), sequence, Port.takeTrigger_eq, step]
  rfl

end Sys2Proof.Settled
end

section
/-! SUPPORT. The bounds of the queues, continued: time and the resets, lines and deadlines, the camera ports, the uplink, and
the interpreter, whose reply finds room because no owner's part touches the reply queue (R185, R186). -/

namespace Sys2Proof.Machine

variable {s : State}

/-! ### Time and the resets -/

/-- Time passes for the lanes and the transmitter, and for no queue. -/
theorem QueuesBounded.pass (h : QueuesBounded s) (ns : Nat) : QueuesBounded (s.pass ns) := by
  cases low : s.rstnLow with
  | true => rwa [pass_held ns low]
  | false =>
    have port := pass_port ns low
    have uplink := pass_uplink ns low
    constructor
    case outstanding => exact fun c => (congrArg (·.outstanding.length) (port c)).trans_le (h.outstanding c)
    case passQueues => exact fun c => (congrArg (·.passQueue.length) (port c)).trans_le (h.passQueues c)
    all_goals rw [uplink]
    exacts [h.commands, h.replies, h.alerts, h.summaries, h.notes]

theorem QueuesBounded.hardReset (low : Bool) (s : State) : QueuesBounded (hardReset low s) :=
  reset_queuesBounded.congr rfl rfl

/-- The soft reset empties every queue (R107, R191, R192). -/
theorem QueuesBounded.softReset (s : State) : QueuesBounded (softReset s) where
  commands := Nat.zero_le _
  replies := Nat.zero_le _
  alerts := Nat.zero_le _
  summaries := Nat.zero_le _
  notes := Nat.zero_le _
  outstanding c := by rw [softReset_port]; exact Nat.zero_le _
  passQueues c := by rw [softReset_port]; exact Nat.zero_le _

theorem QueuesBounded.rstnFalls (h : QueuesBounded s) (lowNs : Nat) : QueuesBounded (rstnFalls lowNs s) := by
  unfold Machine.rstnFalls
  split
  · exact .hardReset ..
  · split
    · exact h
    · unfold shortPulse
      dsimp only
      split
      · exact .hardReset ..
      · exact h.congr rfl rfl

/-! ### Lines, pulses and deadlines -/

theorem QueuesBounded.modLine (h : QueuesBounded s) (l : Fin 8) (f : Line → Line) : QueuesBounded (s.modLine l f) :=
  h.congr rfl rfl

theorem QueuesBounded.setStation (h : QueuesBounded s) (i : Fin 4) (w : Option Wait) :
    QueuesBounded (s.setStation i w) := h.congr rfl rfl

theorem QueuesBounded.bumpUnpaired (h : QueuesBounded s) (i : Fin 4) : QueuesBounded (s.bumpUnpaired i) :=
  h.congr rfl rfl

theorem QueuesBounded.takePulse (h : QueuesBounded s) (t : Track) (st : Station) (d : Detector) (time : Stamp) :
    QueuesBounded (takePulse t st d time s) := by
  unfold Machine.takePulse
  split
  · exact h.setStation ..
  · split
    · exact ((h.setStation ..).bumpUnpaired _).takeCrossing t _
    · exact (h.setStation ..).takeCrossing t _

theorem QueuesBounded.expireWait (h : QueuesBounded s) (t : Track) (st : Station) :
    QueuesBounded (expireWait t st s) := by
  unfold Machine.expireWait
  split
  · exact h
  · split
    · exact ((h.setStation ..).bumpUnpaired _).takeCrossing t _
    · exact h

theorem QueuesBounded.acceptPulse (h : QueuesBounded s) (l : Fin 8) : QueuesBounded (acceptPulse l s) := by
  unfold Machine.acceptPulse
  split
  · exact h
  · exact (h.modLine ..).takePulse ..

theorem QueuesBounded.trailingEdge (h : QueuesBounded s) (l : Fin 8) : QueuesBounded (trailingEdge l s) := by
  unfold Machine.trailingEdge
  split
  · exact h.congr rfl rfl
  · exact (h.acceptPulse l).modLine ..

theorem QueuesBounded.lineEvent (h : QueuesBounded s) (l : Fin 8) (inReset : Line → Line) {live : State → State}
    (edge : QueuesBounded (live s)) : QueuesBounded (lineEvent l inReset live s) := by
  unfold Machine.lineEvent
  split
  · exact h.modLine ..
  · exact edge

theorem QueuesBounded.staleNow (h : QueuesBounded s) (t : Track) : QueuesBounded (staleNow t s) := by
  unfold Machine.staleNow
  split
  · split
    · exact h.setPassage ..
    · exact h
  · exact h

theorem QueuesBounded.quietNow (h : QueuesBounded s) (t : Track) : QueuesBounded (quietNow t s) := by
  unfold Machine.quietNow
  split
  · exact h
  · split
    · exact h.endPassage ..
    · exact h

theorem QueuesBounded.settleNow (h : QueuesBounded s) (t : Track) : QueuesBounded (settleNow t s) := by
  unfold Machine.settleNow
  split
  · split
    · exact h.modTrack ..
    · exact h
  all_goals exact h

theorem QueuesBounded.triggerNow (h : QueuesBounded s) (cam : Fin 4) : QueuesBounded (triggerNow cam s) := by
  unfold Machine.triggerNow
  split
  · exact h
  · split
    · split
      · exact h.takeTrigger ..
      · exact h
    · exact h

/-! ### The camera ports -/

/-- A change of a port that lengthens neither of its queues. -/
theorem QueuesBounded.modPortShrink (h : QueuesBounded s) (cam : Fin 4) (f : Port → Port)
    (outstanding : (f s.ports[cam]).outstanding.length ≤ s.ports[cam].outstanding.length)
    (passQueue : (f s.ports[cam]).passQueue.length ≤ s.ports[cam].passQueue.length) :
    QueuesBounded (s.modPort cam f) :=
  h.modPort cam f (outstanding.trans (h.outstanding cam)) (passQueue.trans (h.passQueues cam))

theorem QueuesBounded.failFrame (h : QueuesBounded s) (cam : Fin 4) : QueuesBounded (failFrame cam s) :=
  h.modPortShrink cam _ le_rfl le_rfl

theorem QueuesBounded.goodRow (h : QueuesBounded s) (cam : Fin 4) (echo : Half) (pixels : List Byte) :
    QueuesBounded (goodRow cam echo pixels s) := by
  unfold Machine.goodRow
  split
  · exact h.modPortShrink cam _ le_rfl le_rfl
  · exact h.resolveHeads ..

/-- A note joins its queue within the 8 places (R105). -/
theorem QueuesBounded.goodNote (h : QueuesBounded s) (cam : Fin 4) (bytes : List Byte) :
    QueuesBounded (goodNote cam bytes s) := by
  unfold Machine.goodNote notePlaces
  split
  · next room =>
    refine h.modUplink _ h.commands h.replies h.alerts h.summaries ?_
    rw [List.length_append]
    exact room
  · exact h.modPortShrink cam _ le_rfl le_rfl

theorem QueuesBounded.forwardFrame (h : QueuesBounded s) (cam : Fin 4) (fresh : Bool) (frame : List Byte) :
    QueuesBounded (forwardFrame cam fresh frame s) := by
  unfold Machine.forwardFrame
  split
  · cases judgeForward frame with
    | row echo pixels => exact h.goodRow ..
    | badRow => exact (h.failFrame cam).resolveHead ..
    | note bytes => exact h.goodNote ..
    | badNote | unknown => exact h.failFrame cam
    | nothing => exact h
  · exact h

theorem QueuesBounded.cameraUp (h : QueuesBounded s) (cam : Fin 4) (heldNs : Nat) :
    QueuesBounded (cameraUp cam heldNs s) := by
  unfold Machine.cameraUp
  split
  · exact h
  · exact h.modPortShrink cam _ le_rfl le_rfl

theorem QueuesBounded.cameraDown (h : QueuesBounded s) (cam : Fin 4) (inReception : Bool) :
    QueuesBounded (cameraDown cam inReception s) := by
  unfold Machine.cameraDown
  split
  · exact h.modPortShrink cam _ le_rfl (Nat.zero_le _)
  · exact h

theorem sendMessage_passQueue (p : Port) : p.sendMessage.passQueue.length ≤ p.passQueue.length := by
  unfold Port.sendMessage
  split
  · exact le_rfl
  · next m rest queue =>
    split
    · rw [queue]
      exact Nat.le_succ _
    · exact le_rfl

theorem QueuesBounded.sendMessage (h : QueuesBounded s) (cam : Fin 4) :
    QueuesBounded (s.modPort cam Port.sendMessage) :=
  h.modPortShrink cam _ (congrArg List.length (sendMessage_outstanding _)).le (sendMessage_passQueue _)

/-! ### The uplink -/

theorem QueuesBounded.uplinkUp (h : QueuesBounded s) (heldNs : Nat) : QueuesBounded (uplinkUp heldNs s) := by
  unfold Machine.uplinkUp
  split
  · exact h
  · exact h.modUplink _ h.commands h.replies h.alerts h.summaries h.notes

theorem QueuesBounded.uplinkDown (h : QueuesBounded s) (inReception : Bool) :
    QueuesBounded (uplinkDown inReception s) := by
  have cut (x : Option Transmission) : QueuesBounded (cutRecord x (s.modUplink (Uplink.goDown inReception))) := by
    have down := h.modUplink (Uplink.goDown inReception) h.commands h.replies h.alerts h.summaries h.notes
    cases x with
    | none => exact down
    | some x => exact down.senderEnd x.kind
  unfold Machine.uplinkDown
  split
  · dsimp only
    split
    · exact .softReset _
    · exact cut _
  · exact h

/-- A command joins its queue within the 4 places (R184). -/
theorem takeFrame_commands (f : ReceivedFrame) {u : Uplink} (h : u.commands.length ≤ 4) :
    (u.takeFrame f).commands.length ≤ 4 := by
  cases f with
  | receiveError | foreign => exact h
  | command c =>
    unfold Uplink.takeFrame Uplink.offerCommand commandPlaces
    dsimp only
    split
    · next room => rw [List.length_append]; exact room
    · exact h

/-- A received frame changes the command queue and counters alone (R183, R184). -/
theorem takeFrame_keeps (f : ReceivedFrame) (u : Uplink) : u.takeFrame f = { u with
    commands := (u.takeFrame f).commands
    commandsLost := (u.takeFrame f).commandsLost
    foreignFrames := (u.takeFrame f).foreignFrames
    receiveErrors := (u.takeFrame f).receiveErrors } := by
  cases f with
  | receiveError | foreign => rfl
  | command c =>
    unfold Uplink.takeFrame Uplink.offerCommand
    dsimp only
    split <;> rfl

theorem QueuesBounded.frameArrives (h : QueuesBounded s) (fresh : Bool) (frame : List Byte) :
    QueuesBounded (frameArrives fresh frame s) := by
  unfold Machine.frameArrives
  split
  · have keeps := takeFrame_keeps (sortFrame frame) s.uplink
    refine h.modUplink _ (takeFrame_commands _ h.commands) ?_ ?_ ?_ ?_ <;> rw [keeps]
    exacts [h.replies, h.alerts, h.summaries, h.notes]
  · exact h

/-- A grant takes the head of one queue, or a capture record from the sender (R193). -/
theorem QueuesBounded.grantClass (h : QueuesBounded s) (c : TxClass) : QueuesBounded (grantClass c s) := by
  have shorter {α : Type} {l rest : List α} {x : α} {places : Nat} (queue : l = x :: rest) (bound : l.length ≤ places) :
      rest.length ≤ places := by
    rw [queue] at bound
    exact (Nat.le_succ _).trans bound
  unfold Machine.grantClass
  split
  · split
    · exact h
    · next queue => exact h.modUplink _ h.commands (shorter queue h.replies) h.alerts h.summaries h.notes
  · split
    · exact h
    · next queue => exact h.modUplink _ h.commands h.replies (shorter queue h.alerts) h.summaries h.notes
  · split
    · exact h
    · next queue => exact h.modUplink _ h.commands h.replies h.alerts (shorter queue h.summaries) h.notes
  · split
    · exact h
    · next queue => exact h.modUplink _ h.commands h.replies h.alerts h.summaries (shorter queue h.notes)
  · unfold grantCapture
    split
    · exact h
    · split
      · exact ⟨h.commands, h.replies, h.alerts, h.summaries, h.notes, h.outstanding, h.passQueues⟩
      · exact h

theorem QueuesBounded.grant (h : QueuesBounded s) : QueuesBounded (grant s) := by
  unfold Machine.grant grantNext
  split
  · split
    · exact h
    · exact QueuesBounded.grantClass (s := s.chosen _) (h.congr rfl rfl) _
  · exact h

theorem QueuesBounded.recordEndNow (h : QueuesBounded s) : QueuesBounded (recordEndNow s) := by
  unfold Machine.recordEndNow
  split
  · exact h
  · next x _ =>
    split
    · have ended := h.modUplink (fun u => { u with transmitter := none }) h.commands h.replies h.alerts h.summaries
        h.notes
      rcases recordEnds_cases x.kind (s.modUplink fun u => { u with transmitter := none }) with e | e <;> rw [e]
      · exact ended.senderEnd _
      · exact .softReset _
    · exact h

/-! ### Replies beside the captures that complete (R186) -/

theorem conditionClose_replies (k : Fin 32) (s : State) :
    (conditionClose k s).uplink.replies = s.uplink.replies := by
  unfold conditionClose
  split
  · rfl
  · dsimp only
    rw [senderTake_uplink, takeClose_keeps]

theorem closeCapture_replies (id : CaptureId) (r : CloseReason) (s : State) :
    (closeCapture id r s).uplink.replies = s.uplink.replies := by
  unfold closeCapture tryComplete
  split
  · rfl
  · split
    · rfl
    · split
      · exact conditionClose_replies ..
      · rfl

theorem closeWindow_replies (cam : Fin 4) (r : CloseReason) (s : State) :
    (closeWindow cam r s).uplink.replies = s.uplink.replies := by
  unfold closeWindow
  split
  · rfl
  · exact closeCapture_replies ..

theorem stopChannel_replies (t : Track) (r : DropReason) (cam : Fin 4) (s : State) :
    (stopChannel t r cam s).uplink.replies = s.uplink.replies := by
  by_cases stopped : s.channels[cam].run = .stopped
  · rw [stopChannel_stopped t r stopped]
  · rw [stopChannel_running t r stopped]
    exact closeWindow_replies ..

theorem together_replies (s t : State) : (together s t).uplink.replies = t.uplink.replies := by
  obtain ⟨l, e⟩ := together_eq s t
  rw [e]

theorem stopChannels_replies (t : Track) (r : DropReason) (s : State) :
    (stopChannels t r s).uplink.replies = s.uplink.replies := by
  unfold stopChannels
  rw [together_replies]
  exact inFreeOrder_induct (P := fun u => u.uplink.replies = s.uplink.replies) rfl
    fun cam u h => (stopChannel_replies t r cam u).trans h

theorem endPassage_replies (t : Track) (r : EndReason) (d : EndTo) (s : State) :
    (endPassage t r d s).uplink.replies = s.uplink.replies := by
  have summary (x : Summary) (u : Uplink) : (u.pushSummary x).replies = u.replies := by
    unfold Uplink.pushSummary
    split <;> rfl
  unfold endPassage
  dsimp only
  split
  · exact stopChannels_replies ..
  · rw [together_replies]
    exact (summary ..).trans (stopChannels_replies ..)

/-! ### The interpreter (R185, R186) -/

/-- What an owner's part of a command does to the queues: it keeps them within their places, and the replies as they are. -/
structure OwnerSound (s t : State) : Prop where
  bounded : QueuesBounded s → QueuesBounded t
  replies : t.uplink.replies = s.uplink.replies

theorem OwnerSound.congr {t : State} (uplink : t.uplink = s.uplink) (ports : t.ports = s.ports) : OwnerSound s t :=
  ⟨fun h => h.congr uplink ports, by rw [uplink]⟩

theorem OwnerSound.refl (s : State) : OwnerSound s s := .congr rfl rfl

/-- One execution: a command leaves its queue, and its reply has room because the replies stand as they stood. -/
theorem QueuesBounded.runCommand (h : QueuesBounded s) (room : s.uplink.replies.length < 4) {owner : Owner}
    (sound : ∀ params u, OwnerSound u (owner params u).1) (c : Command) : QueuesBounded (runCommand owner c s) := by
  have shorter : s.uplink.commands.tail.length ≤ 4 := by
    rw [List.length_tail]
    exact (Nat.sub_le ..).trans h.commands
  have popped := h.modUplink (Uplink.popCommand c) shorter h.replies h.alerts h.summaries h.notes
  have done := sound c.params (s.modUplink (Uplink.popCommand c))
  have bounded := done.bounded popped
  refine ⟨bounded.commands, ?_, bounded.alerts, bounded.summaries, bounded.notes, bounded.outstanding,
    bounded.passQueues⟩
  unfold Machine.runCommand pushReply
  dsimp only [State.modUplink_uplink]
  rw [done.replies, List.length_append]
  exact room

/-- The next command is executed only while the reply queue has room (R185). -/
theorem nextCommand_room {u : Uplink} {c : Command} (h : nextCommand u = some c) : u.replies.length < 4 := by
  unfold nextCommand replyPlaces at h
  split at h
  · next ready => exact ready.2
  · cases h

theorem QueuesBounded.interpret (h : QueuesBounded s) {owner : Owner}
    (sound : ∀ params u, OwnerSound u (owner params u).1) (mine : Command → Bool) :
    QueuesBounded (interpret mine owner s) := by
  unfold Machine.interpret
  split
  · exact h
  · next c ready =>
    split
    · exact h.runCommand (nextCommand_room ready) sound c
    · exact h

theorem QueuesBounded.interpretTogether (h : QueuesBounded s) {owner : Owner}
    (sound : ∀ params u, OwnerSound u (owner params u).1) (mine : Command → Bool) :
    QueuesBounded (interpretTogether mine owner s) := (h.interpret sound mine).together s

theorem ownReset_sound (params : List Byte) (s : State) : OwnerSound s (ownReset params s).1 :=
  ⟨fun h => ⟨h.commands, h.replies, h.alerts, h.summaries, h.notes, h.outstanding, h.passQueues⟩, rfl⟩

theorem QueuesBounded.interpretReset (h : QueuesBounded s) : QueuesBounded (interpretReset s) := by
  unfold Machine.interpretReset
  split
  · exact h
  · next c ready =>
    split
    · unfold resetIfDown
      split
      · exact .softReset _
      · exact h.runCommand (nextCommand_room ready) ownReset_sound c
    · exact h

/-! ### The owners -/

theorem ownTableRead_sound (params : List Byte) (s : State) : OwnerSound s (ownTableRead params s).1 := by
  unfold ownTableRead
  split <;> exact .refl s

theorem ownStage_sound (apply : TableId → List (Nat × Option TableEntry) → Images → Images) (params : List Byte)
    (s : State) : OwnerSound s (ownStage apply params s).1 := by
  unfold ownStage
  split <;> exact .congr rfl rfl

theorem ownCommit_sound (params : List Byte) (s : State) : OwnerSound s (ownCommit params s).1 := by
  unfold ownCommit clearLatch
  split
  · exact .congr rfl rfl
  · unfold commitNamed
    split
    · exact .congr rfl rfl
    · split
      · exact .congr rfl rfl
      · split <;> exact .congr rfl rfl

theorem enableTrack_sound (t : Track) (s : State) : OwnerSound s (enableTrack t s).1 := by
  unfold enableTrack
  split
  · split <;> exact .congr rfl rfl
  all_goals exact .refl s

theorem endPassage_sound (t : Track) (r : EndReason) (d : EndTo) (s : State) : OwnerSound s (endPassage t r d s) :=
  ⟨fun h => h.endPassage t r d, endPassage_replies t r d s⟩

theorem disableTrack_sound (t : Track) (s : State) : OwnerSound s (disableTrack t s).1 := by
  unfold disableTrack
  split
  · exact endPassage_sound ..
  all_goals exact .congr rfl rfl

theorem abandonTrack_sound (t : Track) (s : State) : OwnerSound s (abandonTrack t s).1 := by
  unfold abandonTrack
  split
  · exact endPassage_sound ..
  all_goals exact .refl s

theorem ownEnable_sound (params : List Byte) (s : State) : OwnerSound s (ownEnable params s).1 := by
  unfold ownEnable
  split
  · split
    · exact .refl s
    · split
      · exact enableTrack_sound ..
      · exact .refl s
  · exact .refl s

theorem ownDisable_sound (params : List Byte) (s : State) : OwnerSound s (ownDisable params s).1 := by
  unfold ownDisable
  split
  · split
    · exact .refl s
    · split
      · exact disableTrack_sound ..
      · exact .refl s
  · exact .refl s

theorem ownAbandon_sound (params : List Byte) (s : State) : OwnerSound s (ownAbandon params s).1 := by
  unfold ownAbandon
  split
  · split
    · exact .refl s
    · exact abandonTrack_sound ..
  · exact .refl s

theorem setDrain_sound (value : Bool) (s : State) : OwnerSound s (setDrain value s) :=
  ⟨fun h => (h.modUplink (fun u => { u with drain := value }) h.commands h.replies h.alerts h.summaries
    h.notes).senderTake, (congrArg Uplink.replies (senderTake_uplink _)).trans rfl⟩

theorem ownDrainOn_sound (params : List Byte) (s : State) : OwnerSound s (ownDrainOn params s).1 := by
  unfold ownDrainOn
  split
  · exact setDrain_sound ..
  · exact .refl s

theorem ownDrainOff_sound (params : List Byte) (s : State) : OwnerSound s (ownDrainOff params s).1 := by
  unfold ownDrainOff
  split
  · exact setDrain_sound ..
  · exact .refl s

theorem clearCounters_sound (s : State) : OwnerSound s (clearCounters s) where
  bounded h := ⟨h.commands, h.replies, h.alerts, h.summaries, h.notes,
    fun c => (congrArg (·.outstanding.length) (map_get s.ports c Port.clearCounters)).trans_le (h.outstanding c),
    fun c => (congrArg (·.passQueue.length) (map_get s.ports c Port.clearCounters)).trans_le (h.passQueues c)⟩
  replies := rfl

theorem ownClearConditions_sound (params : List Byte) (s : State) : OwnerSound s (ownClearConditions params s).1 :=
  ⟨fun h => ⟨h.commands, h.replies, h.alerts, h.summaries, h.notes, h.outstanding, h.passQueues⟩, rfl⟩

/-- A message joins its queue within the 4 places (R104). -/
theorem ownCameraPass_sound (params : List Byte) (s : State) : OwnerSound s (ownCameraPass params s).1 := by
  unfold ownCameraPass passPlaces
  split
  · exact .refl s
  · next cam bytes _ =>
    split
    · exact .refl s
    · split
      · next room =>
        refine ⟨fun h => h.modPort cam _ (h.outstanding cam) ?_, rfl⟩
        rw [List.length_append]
        exact room
      · exact .refl s

/-! ### Every step -/

theorem QueuesBounded.timed (h : QueuesBounded s) {after : Nat} {f : State → State} {t : State}
    (hf : ∀ u, QueuesBounded u → QueuesBounded (f u)) (e : timed after f s = .next t) : QueuesBounded t :=
  atOnce_keeps (h.pass after) (hf _) e

theorem QueuesBounded.exec (h : QueuesBounded s) (c : Instr) {t : State} (e : exec c s = .next t) :
    QueuesBounded t := by
  cases c with
  | powerOn => cases e; exact .hardReset ..
  | rstnReset after lowNs => cases e; exact (h.pass after).rstnFalls lowNs
  | rstnRelease after => cases e; exact (h.pass after).congr rfl rfl
  | leadingEdge after l => cases e; exact (h.pass after).lineEvent l _ ((h.pass after).modLine ..)
  | trailingEdge after l => cases e; exact (h.pass after).lineEvent l _ ((h.pass after).trailingEdge l)
  | pulseAccepted after l => exact h.timed (fun _ hu => hu.acceptPulse l) e
  | pairTimeout after k st => exact h.timed (fun _ hu => hu.expireWait k st) e
  | staleExpiry after k => exact h.timed (fun _ hu => hu.staleNow k) e
  | quietDeadline after k => exact h.timed (fun _ hu => hu.quietNow k) e
  | settleExpiry after k => exact h.timed (fun _ hu => hu.settleNow k) e
  | trigger after cam => exact h.timed (fun _ hu => hu.triggerNow cam) e
  | rowTimeout after cam => exact h.timed (fun _ hu => hu.expireHeads cam) e
  | rowFrame after cam fresh frame => exact h.timed (fun _ hu => hu.forwardFrame cam fresh frame) e
  | cameraNote after cam fresh frame => exact h.timed (fun _ hu => hu.forwardFrame cam fresh frame) e
  | cameraLinkUp after cam heldNs => exact h.timed (fun _ hu => hu.cameraUp cam heldNs) e
  | cameraLinkDown after cam inReception => exact h.timed (fun _ hu => hu.cameraDown cam inReception) e
  | passThroughSend cam => exact atOnce_keeps (f := fun u => u.modPort cam Port.sendMessage) h (·.sendMessage cam) e
  | messageSent after cam =>
    exact h.timed (f := fun u => u.modPort cam fun p => { p with lane := p.lane.finishMessage })
      (fun _ hu => hu.modPortShrink cam _ le_rfl le_rfl) e
  | uplinkLinkUp after heldNs => exact h.timed (fun _ hu => hu.uplinkUp heldNs) e
  | uplinkLinkDown after inReception => exact h.timed (fun _ hu => hu.uplinkDown inReception) e
  | frameReceived after fresh frame => exact h.timed (fun _ hu => hu.frameArrives fresh frame) e
  | recordGrant => exact atOnce_keeps h (fun hu => hu.grant) e
  | recordEnd after => exact h.timed (fun _ hu => hu.recordEndNow) e
  | status => exact atOnce_keeps h (fun hu => hu.interpret (fun _ u => .refl u) _) e
  | tableRead => exact atOnce_keeps h (fun hu => hu.interpret ownTableRead_sound _) e
  | stageLoad => exact atOnce_keeps h (fun hu => hu.interpret (ownStage_sound _) _) e
  | stagePatch => exact atOnce_keeps h (fun hu => hu.interpret (ownStage_sound _) _) e
  | commitEnable => exact atOnce_keeps h (fun hu => hu.interpret (fun _ _ => .congr rfl rfl) _) e
  | commitDisable => exact atOnce_keeps h (fun hu => hu.interpret (fun _ _ => .congr rfl rfl) _) e
  | commit => exact atOnce_keeps h (fun hu => hu.interpret ownCommit_sound _) e
  | trackControlEnable => exact atOnce_keeps h (fun hu => hu.interpret ownEnable_sound _) e
  | trackControlDisable => exact atOnce_keeps h (fun hu => hu.interpretTogether ownDisable_sound _) e
  | abandon => exact atOnce_keeps h (fun hu => hu.interpretTogether ownAbandon_sound _) e
  | drainOn => exact atOnce_keeps h (fun hu => hu.interpretTogether ownDrainOn_sound _) e
  | drainOff => exact atOnce_keeps h (fun hu => hu.interpret ownDrainOff_sound _) e
  | clearStats => exact atOnce_keeps h (fun hu => hu.interpret (fun _ u => clearCounters_sound u) _) e
  | clearConditions => exact atOnce_keeps h (fun hu => hu.interpret ownClearConditions_sound _) e
  | cameraPass => exact atOnce_keeps h (fun hu => hu.interpret ownCameraPass_sound _) e
  | reset => exact atOnce_keeps h (fun hu => hu.interpretReset) e
  | unknownCommand => exact atOnce_keeps h (fun hu => hu.interpret (fun _ u => .refl u) _) e

theorem QueuesBounded.step (h : QueuesBounded s) {t : State} (e : step s = .next t) : QueuesBounded t := by
  unfold Machine.step at e
  split at e
  · cases e; exact h.pass _
  · next c rest _ => exact QueuesBounded.exec (s := { s with pending := rest }) (h.congr rfl rfl) c e

end Sys2Proof.Machine

namespace Sys2Proof.Settled

open Sys2Proof.Machine

/-- Settles O53: time and every command keep the queues within their places, operation by operation. -/
theorem stepsKeepQueuesBounded : Obligations.StepsKeepQueuesBounded := fun _ _ bounded stepped => bounded.step stepped

end Sys2Proof.Settled
end

section
/-! SUPPORT. The frames of chapter 11 taken as what they encode (R200 to R202): numbers from their bytes, the check taken
byte by byte, the forward lane's row frames and notes, the return lane's tokens and messages, and a command frame. -/

namespace Sys2Proof.Machine

/-! ### Numbers and their bytes (R199) -/

/-- The bytes of a number do not see what stands above them. -/
theorem beBytes_add_mul (n v b : Nat) : beBytes n (b * 256 ^ n + v) = beBytes n v := by
  induction n generalizing b v with
  | zero => rfl
  | succ n ih =>
    have high : (b * 256 ^ (n + 1) + v) / 256 ^ n = b * 256 + v / 256 ^ n := by
      rw [pow_succ', ← mul_assoc, add_comm, Nat.add_mul_div_right _ _ (by positivity), add_comm]
    have digit : BitVec.ofNat 8 (b * 256 + v / 256 ^ n) = BitVec.ofNat 8 (v / 256 ^ n) := by
      apply BitVec.eq_of_toNat_eq
      simp only [BitVec.toNat_ofNat]
      omega
    rw [beBytes, beBytes, high, digit, pow_succ', ← mul_assoc, ih]

/-- Bytes are those of the number they hold. -/
theorem beBytes_beNat (bs : List Byte) : beBytes bs.length (beNat bs) = bs := by
  induction bs with
  | nil => rfl
  | cons b rest ih =>
    have first : (b.toNat * 256 ^ rest.length + beNat rest) / 256 ^ rest.length = b.toNat := by
      rw [add_comm, Nat.add_mul_div_right _ _ (by positivity), Nat.div_eq_of_lt (beNat_lt rest), zero_add]
    rw [beNat_cons, List.length_cons, beBytes, first, beBytes_add_mul, ih, BitVec.ofNat_toNat, BitVec.setWidth_eq]

/-- Bytes as many as a number's are its bytes exactly when they hold it. -/
theorem beNat_eq_iff {bs : List Byte} {n v : Nat} (length : bs.length = n) (fits : v < 256 ^ n) :
    beNat bs = v ↔ bs = beBytes n v := by
  constructor
  · rintro rfl
    rw [← length, beBytes_beNat]
  · rintro rfl
    rw [beNat_beBytes, Nat.mod_eq_of_lt fits]

theorem beNat_byte (b : Byte) : beNat [b] = b.toNat := by
  simp [beNat]

/-- A word is the number its bytes hold. -/
theorem ofNat_beNat_beBytes (n : Nat) {w : Nat} (v : BitVec w) (width : 2 ^ w = 256 ^ n) :
    BitVec.ofNat w (beNat (beBytes n v.toNat)) = v := by
  rw [beNat_beBytes, ← width, Nat.mod_eq_of_lt v.isLt, BitVec.ofNat_toNat, BitVec.setWidth_eq]

/-! ### The check (R200) -/

/-- The check is the recurrence of R200, whatever names its shift and its remainder have. -/
theorem check_of_recurrence {shift : BitVec 32 → BitVec 32} {remainder : List Byte → BitVec 32}
    (bit : ∀ r, shift r = if r.getLsbD 0 then (r >>> 1) ^^^ 0xEDB88320#32 else r >>> 1)
    (start : remainder [] = 0xFFFFFFFF#32)
    (next : ∀ bytes b, remainder (bytes ++ [b]) = shift^[8] (remainder bytes ^^^ b.setWidth 32)) (bytes : List Byte) :
    check bytes = ~~~ remainder bytes := by
  obtain rfl : shift = crcBit := funext bit
  unfold check
  congr 1
  induction bytes using List.reverseRecOn with
  | nil => exact start.symm
  | append_singleton bytes b ih => rw [List.foldl_append, ih, next]; rfl

theorem check_lt (bytes : List Byte) : (check bytes).toNat < 256 ^ 4 := (check bytes).isLt

/-! ### The forward lane (R201) -/

theorem judgeForward_row (rest : List Byte) : judgeForward (0xA5#8 :: rest) = judgeRow rest := rfl

theorem judgeForward_note (rest : List Byte) : judgeForward (0xC3#8 :: rest) = judgeNote rest := rfl

theorem judgeForward_unknown {start : Byte} (rest : List Byte) (row : start ≠ 0xA5#8) (note : start ≠ 0xC3#8) :
    judgeForward (start :: rest) = .unknown := by
  unfold judgeForward
  dsimp only
  rw [if_neg row, if_neg note]

theorem judgeRow_good (echo : Half) {pixels : List Byte} (length : pixels.length = 2048) :
    judgeRow (beBytes 2 echo.toNat ++ pixels ++ beBytes 4 (check (beBytes 2 echo.toNat ++ pixels)).toNat)
      = .row echo pixels := by
  have covered : (beBytes 2 echo.toNat ++ pixels).length = 2 + rowPixels := by
    rw [List.length_append, beBytes_length, length, rowPixels]
  unfold judgeRow
  rw [if_pos]
  · rw [List.append_assoc, List.take_left' (beBytes_length ..), List.drop_left' (beBytes_length ..),
      List.take_left' (length.trans rowPixels.eq_def.symm), ofNat_beNat_beBytes 2 echo (by norm_num)]
  · rw [List.length_append, covered, beBytes_length, List.drop_left' covered, List.take_left' covered, beNat_beBytes,
      Nat.mod_eq_of_lt (check_lt _)]
    exact ⟨rfl, rfl⟩

theorem judgeRow_bad {rest : List Byte}
    (bad : rest.length ≠ 2054 ∨ beNat (rest.drop 2050) ≠ (check (rest.take 2050)).toNat) : judgeRow rest = .badRow :=
  if_neg fun good => bad.elim (· good.1) (· good.2)

/-- The bytes of a camera note behind its start code: its length, its bytes and their check (R201). -/
def noteBytes (bytes : List Byte) : List Byte :=
  BitVec.ofNat 8 bytes.length :: (bytes ++ beBytes 4 (check (BitVec.ofNat 8 bytes.length :: bytes)).toNat)

theorem judgeNote_good {bytes : List Byte} (low : 1 ≤ bytes.length) (high : bytes.length ≤ 64) :
    judgeNote (noteBytes bytes) = .note bytes := by
  unfold judgeNote noteBytes
  dsimp only
  rw [byte_toNat (by omega : bytes.length < 256), List.take_left, List.drop_left, beNat_beBytes,
    Nat.mod_eq_of_lt (check_lt _), if_pos ⟨low, high, by rw [List.length_append, beBytes_length], rfl⟩]

/-- A note that is taken as good is that of its bytes. -/
theorem judgeNote_bad {rest : List Byte}
    (bad : ∀ bytes : List Byte, 1 ≤ bytes.length → bytes.length ≤ 64 → rest ≠ noteBytes bytes) :
    judgeNote rest = .badNote := by
  cases rest with
  | nil => rfl
  | cons l body =>
    refine if_neg ?_
    rintro ⟨low, high, length, sum⟩
    have count : (body.take l.toNat).length = l.toNat := List.length_take_of_le (by omega)
    have tail : body.drop l.toNat = beBytes 4 (check (l :: body.take l.toNat)).toNat :=
      (beNat_eq_iff (by rw [List.length_drop, length]; omega) (check_lt _)).1 sum
    refine bad (body.take l.toNat) (count.symm ▸ low) (count.symm ▸ high) ?_
    unfold noteBytes
    rw [count, BitVec.ofNat_toNat, BitVec.setWidth_eq, ← tail, List.take_append_drop]

/-! ### The return lane (R201) -/

theorem tokenBytes_layout (sequence : Half) :
    (tokenBytes sequence).length = 3 ∧ HoldsFields (tokenBytes sequence) [(0, 1, 0x3C), (1, 2, sequence.toNat)] := by
  have fields : tokenBytes sequence = spell [(1, 0x3C), (2, sequence.toNat)] ++ [] := by
    simp only [spell_cons, spell_nil, List.append_nil]
    rfl
  exact ⟨congrArg Nat.succ (beBytes_length ..), (BytesFrom.start fields).layout rfl⟩

/-- A pass-through message: its start code and its length, its bytes, and the check over length and bytes. -/
theorem messageBytes_eq (message : List Byte) : messageBytes message = spell [(1, 0x69), (1, message.length)]
    ++ (message ++ (spell [(4, (check (BitVec.ofNat 8 message.length :: message)).toNat)] ++ [])) := by
  have code (v : Nat) : beBytes 1 v = [BitVec.ofNat 8 v] := by simp [beBytes]
  simp only [messageBytes, spell_cons, spell_nil, List.append_nil, code, List.cons_append, List.nil_append]

theorem messageBytes_length (message : List Byte) : (messageBytes message).length = 6 + message.length := by
  rw [messageBytes_eq]
  simp only [List.length_append, spell_length, List.map_cons, List.map_nil, List.sum_cons, List.sum_nil, List.length_nil]
  omega

theorem messageBytes_layout (message : List Byte) :
    ((messageBytes message).drop 2).take message.length = message
      ∧ HoldsFields (messageBytes message) [(0, 1, 0x69), (1, 1, message.length), (2 + message.length, 4,
        (check (((messageBytes message).drop 1).take (1 + message.length))).toNat)] := by
  have head := BytesFrom.start (messageBytes_eq message)
  have behind := head.past (spell_length _)
  have covered : ((messageBytes message).drop 1).take (1 + message.length) = BitVec.ofNat 8 message.length :: message := by
    unfold messageBytes
    dsimp only
    rw [List.drop_one, List.tail_cons, List.take_left' (by rw [List.length_cons, Nat.add_comm])]
  refine ⟨behind.slice rfl, ?_⟩
  rw [covered]
  exact HoldsFields.append head.holds (behind.past rfl).holds

/-! ### Command frames (R183, R202) -/

/-- The body of a COMMAND record: its tag, its code and its parameters (R202). -/
def commandBody (c : Command) : List Byte := beBytes 2 c.tag.toNat ++ [c.code] ++ c.params

theorem commandBody_length (c : Command) : (commandBody c).length = 3 + c.params.length := by
  simp only [commandBody, List.length_append, beBytes_length, List.length_singleton]

/-- A payload of the record kind COMMAND, padded or not, is taken as its command. -/
theorem sortPayload_command (c : Command) (short : c.params.length ≤ 8992) (padding : List Byte) :
    sortPayload c.source (0x01#8 :: 0x00#8 :: 0x00#8 :: (beBytes 2 (3 + c.params.length) ++ (commandBody c ++ padding)))
      = .command c := by
  have length : beNat (beBytes 2 (3 + c.params.length)) = 3 + c.params.length := by
    rw [beNat_beBytes, Nat.mod_eq_of_lt (by omega)]
  have kind : beNat [0x01#8] = 1 := beNat_byte _
  have behind : commandBody c = beBytes 2 c.tag.toNat ++ ([c.code] ++ c.params) := List.append_assoc ..
  unfold sortPayload
  simp only [List.take_succ_cons, List.take_zero, List.drop_succ_cons, List.drop_zero,
    List.take_left' (beBytes_length ..), List.drop_left' (beBytes_length ..), length, kind]
  rw [if_neg (by simp [commandBody_length]), List.take_left' (commandBody_length c)]
  have rest : (commandBody c).drop 2 = [c.code] ++ c.params := by rw [behind, List.drop_left' (beBytes_length ..)]
  have params : (commandBody c).drop 3 = c.params := List.drop_left' (by simp)
  rw [params, rest, behind, List.take_left' (beBytes_length ..), List.take_left' (List.length_singleton ..), beNat_byte,
    ofNat_beNat_beBytes 2 c.tag (by norm_num), BitVec.ofNat_toNat, BitVec.setWidth_eq]

/-- A frame of the part's type, closed by its check, is sorted by its payload (R183). -/
theorem sortFrame_checked {destination payload : List Byte} (source : Mac) (address : destination.length = 6)
    (low : 46 ≤ payload.length) (high : payload.length ≤ 9000) {frame : List Byte}
    (covered : frame = destination ++ beBytes 6 source.toNat ++ beBytes 2 0x88B6 ++ payload) :
    sortFrame (frame ++ frameCheck frame) = sortPayload source payload := by
  have length : frame.length = 14 + payload.length := by
    rw [covered]
    simp only [List.length_append, address, beBytes_length]
  have size : (frame ++ frameCheck frame).length - 4 = frame.length := by
    rw [List.length_append, frameCheck_length, Nat.add_sub_cancel]
  have payloadAt : frame.drop 14 = payload := by
    rw [covered, List.drop_left' (by simp only [List.length_append, address, beBytes_length])]
  have whole : frame ++ frameCheck frame
      = destination ++ (beBytes 6 source.toNat ++ (beBytes 2 0x88B6 ++ (payload ++ frameCheck frame))) := by
    conv_lhs => rw [covered]
    simp only [List.append_assoc, covered]
  have behind := (BytesFrom.start whole).past address
  have sourceAt := behind.slice (beBytes_length ..)
  have typeAt := (behind.past (beBytes_length ..)).slice (beBytes_length ..)
  unfold sortFrame
  simp only [size, List.take_left, List.drop_left]
  rw [payloadAt, if_neg, typeAt, if_neg, sourceAt, ofNat_beNat_beBytes 6 source (by norm_num)]
  · rw [beNat_beBytes]
    decide
  · rw [List.length_append, frameCheck_length, length]
    push Not
    exact ⟨by omega, high, rfl⟩

theorem sortFrame_command {destination : List Byte} (address : destination.length = 6) (c : Command)
    (short : c.params.length ≤ 8992) {frame : List Byte}
    (covered : frame = destination ++ beBytes 6 c.source.toNat ++ beBytes 2 0x88B6 ++ padPayload
      (0x01#8 :: 0x00#8 :: 0x00#8 :: (beBytes 2 (3 + c.params.length) ++ beBytes 2 c.tag.toNat ++ [c.code] ++ c.params))) :
    sortFrame (frame ++ frameCheck frame) = .command c := by
  have payload (padding : List Byte) :
      (0x01#8 :: 0x00#8 :: 0x00#8 :: (beBytes 2 (3 + c.params.length) ++ beBytes 2 c.tag.toNat ++ [c.code] ++ c.params))
        ++ padding
      = 0x01#8 :: 0x00#8 :: 0x00#8 :: (beBytes 2 (3 + c.params.length) ++ (commandBody c ++ padding)) := by
    simp only [commandBody, List.cons_append, List.append_assoc]
  unfold padPayload at covered
  rw [payload] at covered
  rw [sortFrame_checked c.source address _ _ covered, sortPayload_command c short]
  all_goals
    simp only [List.length_cons, List.length_append, List.length_replicate, beBytes_length, commandBody_length,
      List.length_nil]
    omega

end Sys2Proof.Machine

namespace Sys2Proof.Settled

open Sys2Proof.Machine

/-- Settles O51: each kind of frame taken as what it encodes, the check by its recurrence, the return lane's frames by their
layouts. -/
theorem frameRoundTrip : Obligations.FrameRoundTrip := by
  refine ⟨fun destination c frame address short covered => sortFrame_command address c short covered,
    fun echo pixels length => judgeRow_good echo length, fun bytes low high => judgeNote_good low high,
    fun shift remainder bit start next bytes => check_of_recurrence bit start next bytes,
    fun bytes => ⟨frameCheck_length bytes, ?_⟩, fun sequence => ⟨rfl, tokenBytes_layout sequence⟩, ?_⟩
  · rw [frameCheck, List.reverse_reverse, beNat_beBytes, Nat.mod_eq_of_lt (check_lt bytes)]
  · rintro message frame rfl
    exact ⟨rfl, messageBytes_length message, messageBytes_layout message⟩

end Sys2Proof.Settled
end

section
/-! SUPPORT. The camera ports (R91 to R98, R105): the changes of a link, the return lane, triggers taken, row frames, notes and
expiry times. -/

namespace Sys2Proof.Machine

variable {s now : State} {cam : Fin 4}

/-- A timed command acts on the state at its moment. -/
theorem timed_at {after : Nat} (moment : now = s.pass after) (awake : now.rstnLow = false) (f : State → State) :
    timed after f s = .next (f now) := by
  rw [timed, ← moment, atOnce_awake f awake]

theorem modPort_same (s : State) (cam : Fin 4) (f : Port → Port) : (s.modPort cam f).ports[cam] = f s.ports[cam] :=
  upd_get_same ..

/-- Changes of a port that agree on it are one change. -/
theorem modPort_congr {f g : Port → Port} (h : f s.ports[cam] = g s.ports[cam]) : s.modPort cam f = s.modPort cam g := by
  unfold State.modPort
  rw [upd_congr h]

theorem modPort_fixed {f : Port → Port} (h : f s.ports[cam] = s.ports[cam]) : s.modPort cam f = s := by
  unfold State.modPort
  rw [upd_of_fixed h]

/-- One more on a counter that saturates at 65,535 (R106). -/
theorem bump_toNat (c : Half) : (bump c).toNat = min 65535 (c.toNat + 1) := by
  have range := c.isLt
  unfold bump
  split
  · next full => rw [full]; rfl
  · next below =>
    have less : c.toNat ≠ 65535 := fun full => below (BitVec.eq_of_toNat_eq full)
    rw [BitVec.toNat_add_of_lt (show c.toNat + 1 < 65536 by omega)]
    show c.toNat + 1 = _
    omega

/-! ### Link changes (R91, R92) -/

theorem cameraUp_held {heldNs : Nat} (down : s.ports[cam].up = false) (held : 1000000 ≤ heldNs) :
    cameraUp cam heldNs s = s.modPort cam fun p => { p with up := true } :=
  if_neg fun h => h.elim (fun up => by rw [down] at up; cases up) held.not_gt

theorem cameraUp_stays {heldNs : Nat} (stays : s.ports[cam].up = true ∨ heldNs < 1000000) :
    cameraUp cam heldNs s = s := if_pos stays

theorem cameraDown_up (inReception : Bool) (up : s.ports[cam].up = true) :
    cameraDown cam inReception s = s.modPort cam (Port.goDown inReception) := if_pos up

theorem cameraDown_down (inReception : Bool) (down : s.ports[cam].up = false) : cameraDown cam inReception s = s :=
  if_neg (by rw [down]; exact Bool.false_ne_true)

/-! ### The return lane (R94, R201) -/

theorem isFree_iff (l : ReturnLane) : l.isFree = true ↔ l.item = none ∧ l.waiting = [] ∧ 8 ≤ l.idle := decide_eq_true_iff

theorem sendMessage_head {p : Port} {m : List Byte} {rest : List (List Byte)} (queue : p.passQueue = m :: rest)
    (up : p.up = true) (free : p.lane.isFree = true) :
    p.sendMessage = { p with
      passQueue := rest
      lane := { item := some (.message m), elapsed := 0, waiting := [], idle := 0 } } := by
  unfold Port.sendMessage
  rw [queue]
  exact if_pos ⟨up, free⟩

theorem sendMessage_stays {p : Port} (stays : p.up = false ∨ p.passQueue = [] ∨ p.lane.isFree = false) :
    p.sendMessage = p := by
  unfold Port.sendMessage
  split
  · rfl
  · next m rest queue =>
    refine if_neg ?_
    rintro ⟨up, free⟩
    rcases stays with down | empty | busy
    · cases down.symm.trans up
    · cases empty.symm.trans queue
    · cases busy.symm.trans free

theorem finishMessage_ended {l : ReturnLane} {m : List Byte} (item : l.item = some (.message m))
    (ended : 8 * (6 + m.length) ≤ l.elapsed) :
    l.finishMessage = sendWaiting (l.elapsed - 8 * (6 + m.length)) l.waiting := by
  unfold ReturnLane.finishMessage
  rw [item]
  exact if_pos ended

theorem finishMessage_early {l : ReturnLane} {m : List Byte} (item : l.item = some (.message m))
    (early : l.elapsed < 8 * (6 + m.length)) : l.finishMessage = l := by
  unfold ReturnLane.finishMessage
  rw [item]
  exact if_neg early.not_ge

/-! ### Triggers (R93, R95) -/

/-- A full list loses its oldest entry first (R95). -/
theorem portTrigger_full (full : 64 ≤ s.ports[cam].outstanding.length) (e : Entry) :
    portTrigger cam e s = (resolveHead cam .missing s).modPort cam (Port.takeTrigger e) := by
  unfold portTrigger
  rw [if_neg (show ¬ s.ports[cam].outstanding.length < outstandingPlaces from full.not_gt)]

/-! ### Forward-lane frames (R97, R98, R105) -/

/-- A port in DOWN, or a frame that began too early, takes nothing (R91, R107). -/
theorem forwardFrame_discarded {fresh : Bool} (discarded : s.ports[cam].up = false ∨ fresh = false) (frame : List Byte) :
    forwardFrame cam fresh frame s = s := by
  refine if_neg ?_
  rintro ⟨up, began⟩
  rcases discarded with down | stale
  · cases down.symm.trans up
  · cases stale.symm.trans began

theorem forwardFrame_taken (up : s.ports[cam].up = true) (frame : List Byte) :
    forwardFrame cam true frame s = forwardJudged cam (judgeForward frame) s := if_pos ⟨up, rfl⟩

/-- The entries ahead of the first with a sequence (R97). -/
theorem entriesAhead_found {echo : Half} {older rest : List Entry} {e : Entry} (own : e.sequence = echo)
    (others : ∀ x ∈ older, x.sequence ≠ echo) : entriesAhead echo (older ++ e :: rest) = some older.length := by
  induction older with
  | nil => exact if_pos own
  | cons x older ih =>
    obtain ⟨first, later⟩ := List.forall_mem_cons.1 others
    rw [List.cons_append, entriesAhead, if_neg first, ih later]
    rfl

theorem entriesAhead_stray {echo : Half} {l : List Entry} (others : ∀ e ∈ l, e.sequence ≠ echo) :
    entriesAhead echo l = none := by
  induction l with
  | nil => rfl
  | cons x l ih =>
    obtain ⟨first, later⟩ := List.forall_mem_cons.1 others
    rw [entriesAhead, if_neg first, ih later]
    rfl

theorem goodRow_found {echo : Half} (pixels : List Byte) {older rest : List Entry} {e : Entry}
    (list : s.ports[cam].outstanding = older ++ e :: rest) (own : e.sequence = echo)
    (others : ∀ x ∈ older, x.sequence ≠ echo) :
    goodRow cam echo pixels s = resolveHeads cam (List.replicate older.length .missing ++ [.received pixels]) s := by
  unfold goodRow
  rw [list, entriesAhead_found own others]

theorem goodRow_stray {echo : Half} (pixels : List Byte) (others : ∀ e ∈ s.ports[cam].outstanding, e.sequence ≠ echo) :
    goodRow cam echo pixels s = s.modPort cam fun p => { p with strayRows := bump p.strayRows } := by
  unfold goodRow
  rw [entriesAhead_stray others]

theorem goodNote_room (bytes : List Byte) (room : s.uplink.notes.length < 8) :
    goodNote cam bytes s
      = { s with uplink := { s.uplink with
            notes := s.uplink.notes ++ [{ camera := cam, time := s.time, bytes := bytes }] } } := if_pos room

theorem goodNote_full (bytes : List Byte) (full : 8 ≤ s.uplink.notes.length) :
    goodNote cam bytes s = s.modPort cam fun p => { p with noteDrops := bump p.noteDrops } := if_neg full.not_gt

/-! ### Expiry times (R96) -/

/-- The entries that expire are those up to the first whose time has not come. -/
theorem expiredCount_eq {t : Stamp} {gone rest : List Entry} (come : ∀ e ∈ gone, (t - e.expiry).toNat < 2147483648)
    (waits : ∀ e, rest.head? = some e → 2147483648 ≤ (t - e.expiry).toNat) :
    expiredCount t (gone ++ rest) = gone.length := by
  have stops : rest.takeWhile (fun e => reached t e.expiry) = [] := by
    cases rest with
    | nil => rfl
    | cons e rest => exact List.takeWhile_cons_of_neg fun come => (of_decide_eq_true come).not_ge (waits e rfl)
  have all : ∀ e ∈ gone, reached t e.expiry = true := fun e mem => decide_eq_true (come e mem)
  unfold expiredCount
  rw [List.takeWhile_append_of_pos all, stops, List.append_nil]

/-- Entries that expire leave the list head first, each counted; the other ports stay (R96, R99). -/
theorem takeHeads_missing (cam : Fin 4) {gone rest : List Entry} {s : State}
    (list : s.ports[cam].outstanding = gone ++ rest) (u : State)
    (taken : u = takeHeads cam (List.replicate gone.length .missing) s) :
    u.ports[cam].outstanding = rest
      ∧ u.ports[cam].missingRows.toNat = min 65535 (s.ports[cam].missingRows.toNat + gone.length)
      ∧ ∀ c : Fin 4, c ≠ cam → u.ports[c] = s.ports[c] := by
  induction gone generalizing s with
  | nil =>
    obtain rfl : u = s := taken
    have range := u.ports[cam].missingRows.isLt
    exact ⟨list, by rw [List.length_nil]; omega, fun _ _ => rfl⟩
  | cons e gone ih =>
    have ports : (takeHead cam .missing s).ports = upd s.ports cam (Port.popEntry .missing (gone ++ rest)) := by
      rw [takeHead_ports, list]
      rfl
    have own : (takeHead cam .missing s).ports[cam] = s.ports[cam].popEntry .missing (gone ++ rest) := by
      rw [ports, upd_get_same]
    obtain ⟨left, counted, others⟩ := ih (s := takeHead cam .missing s) (by rw [own]; rfl) taken
    refine ⟨left, ?_, fun c ne => (others c ne).trans ?_⟩
    · rw [counted, own, List.length_cons]
      dsimp only [Port.popEntry]
      rw [bump_toNat]
      omega
    · rw [ports, upd_get_other _ _ ne.symm]

end Sys2Proof.Machine

namespace Sys2Proof.Settled

open Sys2Proof.Machine

/-- Settles O31: each change of a port's link, and those that find it changed already. -/
theorem cameraLink : Obligations.CameraLink := by
  intro s now after cam moment awake
  have up (heldNs : Nat) : exec (.cameraLinkUp after cam heldNs) s = .next (cameraUp cam heldNs now) :=
    timed_at moment awake _
  have down (inReception : Bool) :
      exec (.cameraLinkDown after cam inReception) s = .next (cameraDown cam inReception now) := timed_at moment awake _
  refine ⟨fun heldNs low held => ?_, fun heldNs stays => ?_, fun inReception high => ?_, fun inReception low => ?_⟩
  · rw [up, cameraUp_held low held]
  · rw [up, cameraUp_stays stays]
  · rw [down, cameraDown_up inReception high]
    rfl
  · rw [down, cameraDown_down inReception low]

/-- Settles O32: the message that starts, its end, and what time does to each item. -/
theorem returnLane : Obligations.ReturnLane := by
  refine ⟨fun s cam awake => ?_, ?_, fun s ns cam awake => pass_port ns awake cam, ?_⟩
  · have send : exec (.passThroughSend cam) s = .next (s.modPort cam Port.sendMessage) :=
      atOnce_awake (fun u => u.modPort cam Port.sendMessage) awake
    rw [send]
    refine ⟨fun m rest up queue item waiting idle => ?_, fun stays => ?_⟩
    · exact congrArg _ (modPort_congr (sendMessage_head queue up ((isFree_iff _).2 ⟨item, waiting, idle⟩)))
    · rw [modPort_fixed (sendMessage_stays (stays.imp_right (Or.imp_right fun busy => ?_)))]
      rw [← Bool.not_eq_true, isFree_iff]
      rintro ⟨item, waiting, idle⟩
      exact busy.elim (· item) (·.elim (· waiting) (fun short => short.not_ge idle))
  · intro s now after cam m moment awake item
    have ends : exec (.messageSent after cam) s
        = .next (now.modPort cam fun p => { p with lane := p.lane.finishMessage }) :=
      timed_at moment awake fun u => u.modPort cam fun p => { p with lane := p.lane.finishMessage }
    rw [ends, messageBytes_length]
    refine ⟨fun ended => ?_, fun early => ?_⟩
    · refine congrArg _ (modPort_congr ?_)
      rw [finishMessage_ended item ended, ReturnLane.pass_idle, Nat.zero_add]
    · refine congrArg _ (modPort_fixed ?_)
      rw [finishMessage_early item early]
  · intro ns elapsed idle token waiting
    refine ⟨fun sends => ?_, fun sent => ?_, rfl, fun early => ?_, fun ready => ?_, fun m => rfl⟩
    · rw [ReturnLane.pass_token, sendToken, if_pos (show elapsed + ns < tokenNs from sends)]
    · rw [ReturnLane.pass_token, sendToken, if_neg (show ¬ elapsed + ns < tokenNs from sent.not_gt),
        ReturnLane.pass_idle, Nat.zero_add]
      rfl
    · rw [ReturnLane.pass_idle, sendWaiting, if_pos (show idle + ns < wordNs from early)]
    · rw [ReturnLane.pass_idle, sendWaiting, if_neg (show ¬ idle + ns < wordNs from ready.not_gt),
        ReturnLane.pass_token, Nat.zero_add]
      rfl

/-- Settles O26: a list with room and a full one, then the entry at the tail. -/
theorem portTakesTrigger : Obligations.PortTakesTrigger := by
  intro s room cam e free full
  have taken : portTrigger cam e s = room.modPort cam (Port.takeTrigger e) := by
    by_cases fits : s.ports[cam].outstanding.length < 64
    · rw [portTrigger_room fits, free fits]
    · rw [portTrigger_full (Nat.le_of_not_lt fits), full (Nat.le_of_not_lt fits)]
  refine ⟨by rw [taken, Port.takeTrigger_eq], fun bounded => ⟨(bounded.portTrigger cam e).outstanding cam, ?_⟩⟩
  rw [taken, modPort_same]
  exact List.getLast?_concat

/-- Settles O27: the entries counted by their times, then what leaves the list. -/
theorem rowTimeout : Obligations.RowTimeout := by
  intro s now t after cam gone rest moment awake list come waits
  have expires : exec (.rowTimeout after cam) s = .next (expireHeads cam now) := timed_at moment awake _
  refine ⟨?_, ?_⟩
  · rw [expires, expireHeads, list, expiredCount_eq come waits]
  · rintro rfl
    have frame := resolveHeads_frame cam (List.replicate gone.length .missing) now
    obtain ⟨left, counted, others⟩ := takeHeads_missing cam list _ rfl
    rw [resolveHeads_ports]
    exact ⟨left, counted, others, frame.channels, frame.tracks, frame.tables, frame.time⟩

/-- Settles O28: each kind of frame by how it is judged. -/
theorem rowFrame : Obligations.RowFrame := by
  intro s now after cam fresh frame moment awake
  have ends : exec (.rowFrame after cam fresh frame) s = .next (forwardFrame cam fresh frame now) :=
    timed_at moment awake _
  rw [ends]
  refine ⟨fun discarded => by rw [forwardFrame_discarded discarded], ?_⟩
  rintro up rfl
  rw [forwardFrame_taken up]
  refine ⟨?_, ?_, ?_⟩
  · rintro echo pixels length rfl
    rw [judgeForward_row, judgeRow_good echo length]
    exact ⟨fun older rest e list own others => congrArg _ (goodRow_found pixels list own others),
      fun others => congrArg _ (goodRow_stray pixels others)⟩
  · rintro rest rfl bad
    rw [judgeForward_row, judgeRow_bad bad]
    rfl
  · rintro start rest rfl row note
    rw [judgeForward_unknown rest row note]
    rfl

/-- Settles O29: a note taken with room and without, and the notes that fail. -/
theorem cameraNote : Obligations.CameraNote := by
  intro s now after cam moment awake
  have ends (fresh : Bool) (frame : List Byte) :
      exec (.cameraNote after cam fresh frame) s = .next (forwardFrame cam fresh frame now) := timed_at moment awake _
  refine ⟨fun fresh frame discarded => by rw [ends, forwardFrame_discarded discarded], fun up => ⟨?_, ?_⟩⟩
  · rintro bytes low high frame rfl
    have good : judgeForward (0xC3#8 :: noteBytes bytes) = .note bytes := judgeNote_good low high
    rw [ends, forwardFrame_taken up]
    unfold noteBytes at good
    rw [good]
    exact ⟨fun room => congrArg _ (goodNote_room bytes room), fun full => congrArg _ (goodNote_full bytes full)⟩
  · intro rest bad
    rw [ends, forwardFrame_taken up, judgeForward_note, judgeNote_bad bad]
    rfl

end Sys2Proof.Settled
end

section
/-! SUPPORT. Rows and the captures they complete: storing a row (R100, R166, R167), the resolution of entries (R99 to R101),
the captures declared complete, and the order of their closes (R102, R151, R170). -/

namespace Sys2Proof.Machine

variable {s : State} {k : Fin 32} {c : Capture}

/-! ### Storing a row (R166, R167) -/

/-- The first row of a segment goes to the head of the free list, any other to the tail segment (R166). -/
theorem segmentFor_eq_some {g : Nat} : segmentFor s c = some g
    ↔ (c.stored % 64 = 0 ∧ s.freeList.head? = some g) ∨ (c.stored % 64 ≠ 0 ∧ c.chain.getLast? = some g) := by
  unfold segmentFor rowsPerSegment
  split
  · next first => simp [first]
  · next later => simp [later]

theorem segmentFor_eq_none (first : c.stored % 64 = 0) (empty : s.freeList = []) : segmentFor s c = none := by
  unfold segmentFor rowsPerSegment
  rw [if_pos first, empty]
  rfl

theorem storeRow_room (held : s.slots[k] = some c) {g : Nat} (segment : segmentFor s c = some g) (row : StoredRow) :
    storeRow k row s = { s with
      store := s.store.write (64 * g + c.stored % 64) row
      freeList := if c.stored % 64 = 0 then s.freeList.tail else s.freeList
      slots := upd s.slots k fun _ => some (c.rowWritten g) } := by
  have slots : upd s.slots k (Option.map (Capture.rowWritten g)) = upd s.slots k fun _ => some (c.rowWritten g) :=
    upd_congr (congrArg _ held)
  unfold storeRow
  rw [held]
  dsimp only
  rw [segment]
  dsimp only
  rw [slots]
  rfl

theorem storeRow_full (held : s.slots[k] = some c) (segment : segmentFor s c = none) (row : StoredRow) :
    storeRow k row s = { s with slots := upd s.slots k fun _ => some (c.raise .trunc) } := by
  unfold storeRow
  rw [held]
  dsimp only
  rw [segment]
  exact modSlot_held held _

/-- The segment a row is written in stands at the tail of the chain (R166). -/
theorem rowWritten_last {g : Nat} (segment : segmentFor s c = some g) : (c.rowWritten g).chain.getLast? = some g := by
  unfold Capture.rowWritten rowsPerSegment
  dsimp only
  rcases segmentFor_eq_some.1 segment with ⟨first, -⟩ | ⟨later, last⟩
  · rw [if_pos first, List.getLast?_concat]
  · rw [if_neg later, last]

theorem lastStoredRow_none (empty : c.stored = 0) (s : State) : lastStoredRow s c = none := if_pos empty

theorem lastStoredRow_last (stored : 0 < c.stored) {g : Nat} (last : c.chain.getLast? = some g) (s : State) :
    lastStoredRow s c = s.store.read (64 * g + (c.stored - 1) % 64) := by
  unfold lastStoredRow
  rw [if_neg stored.ne', last]
  rfl

/-! ### Resolution of an entry (R99 to R101) -/

variable {e : Entry}

theorem resolveEntry_untagged (untagged : e.capture = none) (how : Resolution) (s : State) :
    resolveEntry e how s = s := by
  unfold resolveEntry
  rw [untagged]

theorem resolveEntry_tagged {id : CaptureId} (tagged : e.capture = some id) (found : s.slotOf id = some k)
    (how : Resolution) : resolveEntry e how s = resolveRow k e how s := by
  unfold resolveEntry
  rw [tagged]
  dsimp only
  rw [found]

section
variable {r : CondRecord} (held : s.slots[k] = some c) (record : s.condRecords[k] = some r)
include held record

theorem receiveRow_eq (e : Entry) (pixels : List Byte) {out : State}
    (stored : out = storeRow k
      { sequence := e.sequence, rowIndex := rowIndexOf c e, repaired := false
        pixels := storedPixels r.kept r.fill r.blank pixels }
      { s with slots := upd s.slots k fun _ => some { c with received := c.received + 1, repairRun := 0 } }) :
    receiveRow k e pixels s
      = if r.role = .profile ∧ r.hasWorkSet then profileRow c.workSet (rowIndexOf c e) e.travel pixels out else out := by
  unfold receiveRow
  rw [held, record]
  dsimp only
  rw [modSlot_held held, stored]

theorem missRow_repaired (e : Entry) (below : c.repairRun < c.repairLimit) :
    missRow k e s = storeRow k
      { sequence := e.sequence, rowIndex := rowIndexOf c e, repaired := true, pixels := repairPixels s c r }
      { s with slots := upd s.slots k fun _ => some { c with
          repaired := c.repaired + 1
          repairRun := c.repairRun + 1
          conditions := condAdd c.conditions .repaired } } := by
  unfold missRow
  rw [held, record]
  dsimp only
  rw [if_pos below, modSlot_held held]
  rfl

theorem missRow_omitted (e : Entry) (reached : c.repairLimit ≤ c.repairRun) :
    missRow k e s = { s with slots := upd s.slots k fun _ => some { c with
      omitted := c.omitted + 1
      conditions := condAdd c.conditions .gap } } := by
  unfold missRow
  rw [held, record]
  dsimp only
  rw [if_neg reached.not_gt, modSlot_held held]
  rfl

end

/-! ### Heads (R99) -/

theorem takeHead_empty {cam : Fin 4} (empty : s.ports[cam].outstanding = []) (how : Resolution) :
    takeHead cam how s = s := by
  unfold takeHead
  rw [empty]

theorem takeHead_cons {cam : Fin 4} {rest : List Entry} (list : s.ports[cam].outstanding = e :: rest)
    (how : Resolution) : takeHead cam how s = resolveEntry e how (s.modPort cam (Port.popEntry how rest)) := by
  unfold takeHead
  rw [list]

/-! ### Completion (R102) -/

theorem isComplete_eq_false (waits : c.state ≠ .closing ∨ ∃ x ∈ s.ports[c.camera].outstanding, x.capture = some c.id) :
    isComplete s c = false := by
  rw [← Bool.not_eq_true, isComplete_iff]
  rintro ⟨closing, left⟩
  exact waits.elim (· closing) fun ⟨x, mem, tagged⟩ => left x mem tagged

theorem completeCapture_missing {id : CaptureId} (missing : s.slotOf id = none) : completeCapture id s = s := by
  unfold completeCapture
  rw [missing]

theorem completeCapture_held {id : CaptureId} (found : s.slotOf id = some k) (held : s.slots[k] = some c) :
    completeCapture id s = if isComplete s c then conditionClose k s else s := by
  unfold completeCapture tryComplete
  rw [found]
  dsimp only
  rw [held]

/-- The slot of an id is the first that holds a capture of it. -/
theorem slotOf_iff (s : State) (id : CaptureId) (k : Fin 32) : s.slotOf id = some k
    ↔ (∃ c, s.slots[k] = some c ∧ c.id = id) ∧ ∀ j, j < k → ∀ d, s.slots[j] = some d → d.id ≠ id := by
  constructor
  · intro found
    refine ⟨slotOf_some found, fun j below d held same => ?_⟩
    obtain ⟨-, i, inside, here, before⟩ := List.find?_eq_some_iff_getElem.1 found
    have position : k = ⟨i, by simpa using inside⟩ := by simpa using here.symm
    have skipped := before j (by rw [position] at below; exact below)
    simp only [List.getElem_finRange, Fin.eta, Fin.cast_mk] at skipped
    rw [held] at skipped
    simp [same] at skipped
  · rintro ⟨⟨c, held, rfl⟩, first⟩
    refine findIndex_eq_some ?_ fun j below => ?_
    · rw [held]
      exact beq_self_eq_true _
    · cases other : s.slots[j] with
      | none => rfl
      | some d => exact beq_eq_false_iff_ne.2 (first j below d other)

/-! ### Captures declared (R102) -/

section
variable {cam : Fin 4} {how : Resolution} {u : State} (taken : u = takeHead cam how s)
include taken

theorem declaredAtHead_none
    (absent : ∀ e id, s.ports[cam].outstanding.head? = some e → e.capture = some id → u.slotOf id = none) :
    declaredAtHead cam how s = [] := by
  unfold declaredAtHead
  rw [← taken]
  cases head : s.ports[cam].outstanding.head? with
  | none => rfl
  | some e =>
    cases tag : e.capture with
    | none => simp only [Option.bind_some, tag, Option.filter_none, Option.toList_none]
    | some id => simp only [Option.bind_some, tag, Option.filter_some, absent e id head tag, Option.bind_none,
        Option.any_none, Bool.false_eq_true, if_false, Option.toList_none]

theorem declaredAtHead_tagged {id : CaptureId} (head : s.ports[cam].outstanding.head? = some e)
    (tag : e.capture = some id) (found : u.slotOf id = some k) (held : u.slots[k] = some c) :
    declaredAtHead cam how s = if isComplete u c then [id] else [] := by
  unfold declaredAtHead
  rw [← taken, head, Option.bind_some, tag, Option.filter_some, found, Option.bind_some, held, Option.any_some]
  split <;> rfl

end

/-- One capture CUT another (R81, R85). -/
theorem cutBy_of_held {cut cutter : CaptureId} {j : Fin 32} {d : Capture} (foundCut : s.slotOf cut = some j)
    (foundCutter : s.slotOf cutter = some k) (heldCut : s.slots[j] = some c) (heldCutter : s.slots[k] = some d)
    (close : c.close = .cut) (camera : d.camera = c.camera)
    (follows : d.firstSequence = c.firstSequence + BitVec.ofNat 16 c.tagged) : cutBy s cut cutter = true := by
  unfold cutBy
  rw [foundCut, foundCutter, Option.bind_some, Option.bind_some, heldCut, heldCutter]
  simp only [close, camera, follows, beq_self_eq_true, Bool.and_self]

/-- The closes of the captures declared, each once, in some order that keeps a CUT capture ahead of the one that cut it
(R151, R170). -/
theorem resolveHeads_order (cam : Fin 4) (hows : List Resolution) (s : State) :
    ∃ order : List CaptureId, order.Perm (declared cam hows s)
      ∧ (∀ cut cutter, cutBy (takeHeads cam hows s) cut cutter = true →
          [cut, cutter].Sublist (declared cam hows s) → [cut, cutter].Sublist order)
      ∧ resolveHeads cam hows s = together s (order.foldl (fun x id => completeCapture id x)
          { takeHeads cam hows s with freeIndex := s.freeIndex + (order.length - 1) }) := by
  obtain ⟨order, perm, ahead, run⟩ := inFreeOrder_spec BitVec.toNat (cutBy (takeHeads cam hows s))
    (declared cam hows s) completeCapture (takeHeads cam hows s)
  refine ⟨order, perm, ahead, ?_⟩
  unfold resolveHeads
  dsimp only
  rw [run, ← perm.length_eq, State.chosen, (takeHeads_keeps ..).freeIndex]

end Sys2Proof.Machine

namespace Sys2Proof.Settled

open Sys2Proof.Machine

/-- Settles O37: the row with a segment and without one, then the last stored row. -/
theorem rowStored : Obligations.RowStored := by
  refine ⟨?_, fun s c => ⟨fun empty => lastStoredRow_none empty s, fun g stored last => lastStoredRow_last stored last s⟩⟩
  rintro s s' k c row held rfl
  refine ⟨fun g place => ?_, fun first g head => ?_, fun later g last => ?_, fun first empty => ?_, fun canonical small => ?_⟩
  · have segment := segmentFor_eq_some.2 place
    rw [storeRow_room held segment]
    refine ⟨Memory.read_write_same .., fun key ne => Memory.read_write_other _ _ ne, fun d slot => ?_⟩
    dsimp only at slot
    rw [upd_get_same] at slot
    obtain rfl := Option.some.inj slot
    rw [lastStoredRow_last (Nat.succ_pos _) (rowWritten_last segment)]
    exact Memory.read_write_same ..
  · rw [storeRow_room held (segmentFor_eq_some.2 (.inl ⟨first, head⟩)), if_pos first, Capture.rowWritten, rowsPerSegment,
      if_pos first]
  · rw [storeRow_room held (segmentFor_eq_some.2 (.inr ⟨later, last⟩)), if_neg later, Capture.rowWritten,
      rowsPerSegment, if_neg later]
  · rw [storeRow_full held (segmentFor_eq_none first empty)]
    refine ⟨rfl, fun d slot => ?_⟩
    dsimp only at slot
    rw [upd_get_same] at slot
    obtain rfl := Option.some.inj slot
    rfl
  · cases segment : segmentFor s c with
    | none => rw [storeRow_full held segment]; exact canonical
    | some g =>
      have inside : g ∈ s.freeList ++ c.chain := List.mem_append.2 <|
        (segmentFor_eq_some.1 segment).imp (fun h => List.mem_of_head? h.2) (fun h => List.mem_of_getLast? h.2)
      rw [storeRow_room held segment]
      exact Memory.write_wf _ _ (rowKey_lt (small g inside) (Nat.mod_lt _ (by decide))) canonical

/-- Settles O30: one entry, the heads in order, the captures declared, their slots, and each close. -/
theorem entryResolved : Obligations.EntryResolved := by
  refine ⟨fun s out e k c r pixels => ?_, fun s cam how hows => ?_, ?_, slotOf_iff, fun s id => ?_⟩
  · refine ⟨fun untagged => ⟨resolveEntry_untagged untagged _ s, resolveEntry_untagged untagged _ s⟩, ?_⟩
    intro tagged found held record
    refine ⟨fun stored => ?_, fun below => ?_, fun reached => ?_⟩
    · rw [resolveEntry_tagged tagged found, resolveRow, receiveRow_eq held record e pixels stored]
      refine ⟨fun profile works v set => ?_, fun unprofiled => if_neg ?_⟩
      · rw [if_pos ⟨profile, works⟩, set]
        rfl
      · rintro ⟨profile, works⟩
        rcases unprofiled with image | without
        · cases image.symm.trans profile
        · cases without.symm.trans works
    · rw [resolveEntry_tagged tagged found]
      exact missRow_repaired held record e below
    · rw [resolveEntry_tagged tagged found]
      exact missRow_omitted held record e reached
  · obtain ⟨order, perm, ahead, run⟩ := resolveHeads_order cam hows s
    refine ⟨fun empty => takeHead_empty empty how, fun e rest list => takeHead_cons list how, rfl, rfl, rfl,
      order, perm, ?_, run⟩
    intro cut cutter j k c d foundCut foundCutter heldCut heldCutter close camera follows
    exact ahead cut cutter (cutBy_of_held foundCut foundCutter heldCut heldCutter close camera follows)
  · intro s u cam how hows taken
    have next : declared cam (how :: hows) s = declaredAtHead cam how s ++ declared cam hows u := by rw [taken]; rfl
    refine ⟨rfl, fun absent => by rw [next, declaredAtHead_none taken absent, List.nil_append], ?_⟩
    intro e id k c head tag found held
    rw [next, declaredAtHead_tagged taken head tag found held]
    refine ⟨fun closing left => ?_, fun waits => ?_⟩
    · rw [if_pos ((isComplete_iff ..).2 ⟨closing, left⟩)]
      rfl
    · rw [isComplete_eq_false waits]
      rfl
  · refine ⟨completeCapture_missing, fun k c found held => ?_⟩
    rw [completeCapture_held found held]
    exact ⟨fun closing left => if_pos ((isComplete_iff ..).2 ⟨closing, left⟩),
      fun waits => if_neg (by rw [isComplete_eq_false waits]; exact Bool.false_ne_true)⟩

end Sys2Proof.Settled
end

section
/-! SUPPORT. DRAIN and CAMERA-PASS (R104, R171, R176, R188): the sender's take, the rows of a DRAIN, and the parameters of a
CAMERA-PASS. -/

namespace Sys2Proof.Machine

variable {s : State}

/-! ### The sender's take (R171) -/

/-- A capture being sent, an empty queue or DRAIN OFF leaves the sender as it is. -/
theorem senderTake_stays (stays : s.sender.capture ≠ none ∨ s.uplink.drain = false ∨ s.delivery = []) :
    senderTake s = s := by
  unfold senderTake
  split
  · next takes =>
    obtain ⟨free, on⟩ := takes
    rcases stays with sending | off | empty
    · exact absurd (Option.isNone_iff_eq_none.1 free) sending
    · cases off.symm.trans on
    · rw [empty]
  · rfl

theorem senderTake_head {id : CaptureId} {queue : List CaptureId} {k : Fin 32} {x : Capture}
    (free : s.sender.capture = none) (on : s.uplink.drain = true) (delivery : s.delivery = id :: queue)
    (found : s.slotOf id = some k) (held : s.slots[k] = some x) :
    senderTake s = { s with
      slots := upd s.slots k fun _ => some { x with state := .sending }
      sender := { capture := some id, next := .header, inTransmission := false, rowsSent := 0 } } := by
  unfold senderTake
  rw [if_pos ⟨Option.isNone_iff_eq_none.2 free, on⟩]
  split
  · next empty => cases empty.symm.trans delivery
  · next i _ list =>
    obtain ⟨rfl, -⟩ := List.cons.inj (list.symm.trans delivery)
    rw [found]
    dsimp only
    rw [modSlot_held held]

theorem together_self (s : State) : together s s = s := together_of_reply fun _ _ => rfl

/-! ### The rows of a DRAIN (log entry 4) -/

theorem isOff_iff (c : Command) : isOff c = true ↔ c.params.head? = some 0x00#8 := by
  rw [isOff, beq_iff_eq, List.head?_eq_getElem?]

section
variable {c : Command} {rest : List Command} (ready : s.Ready c rest) (code : c.code = 0x0A#8)
include ready code

theorem exec_drainOff (off : c.params.head? = some 0x00#8) {u : State} {status : Status}
    (answered : ownDrainOff c.params (s.taken c rest) = (u, answer status)) :
    exec .drainOff s = .next (u.replied c status none []) := by
  have own : (hasCode 10 c && isOff c) = true := Bool.and_eq_true_iff.2 ⟨hasCode_of_eq code, (isOff_iff c).2 off⟩
  refine (atOnce_interpret (mine := fun c => hasCode 10 c && isOff c) ready own ownDrainOff).trans ?_
  rw [answered]
  rfl

theorem exec_drainOn (on : c.params.head? ≠ some 0x00#8) {u : State} {status : Status}
    (answered : ownDrainOn c.params (s.taken c rest) = (u, answer status)) :
    exec .drainOn s = .next (together s (u.replied c status none [])) := by
  have own : (hasCode 10 c && !isOff c) = true := by
    rw [Bool.eq_false_iff.2 ((isOff_iff c).not.2 on)]
    exact Bool.and_eq_true_iff.2 ⟨hasCode_of_eq code, rfl⟩
  exact (atOnce_awake _ ready.awake).trans
    (congrArg _ (interpretTogether_ready ready (mine := fun c => hasCode 10 c && !isOff c) own answered))

omit code in
theorem exec_drainOff_other (on : c.params.head? ≠ some 0x00#8) : exec .drainOff s = .next s := by
  have other : (hasCode 10 c && isOff c) = false := by
    rw [Bool.eq_false_iff.2 ((isOff_iff c).not.2 on), Bool.and_false]
  exact (atOnce_awake _ ready.awake).trans
    (congrArg _ (interpret_other ready (mine := fun c => hasCode 10 c && isOff c) other ownDrainOff))

omit code in
theorem exec_drainOn_other (off : c.params.head? = some 0x00#8) : exec .drainOn s = .next s := by
  have other : (hasCode 10 c && !isOff c) = false := by
    rw [(isOff_iff c).2 off, Bool.not_true, Bool.and_false]
  refine (atOnce_awake _ ready.awake).trans (congrArg _ ?_)
  rw [interpretTogether, interpret_other ready (mine := fun c => hasCode 10 c && !isOff c) other, together_self]

end

theorem ownDrainOn_range {params : List Byte} (bad : params ≠ [0x01#8]) (s : State) :
    ownDrainOn params s = (s, answer .range) := if_neg bad

theorem ownDrainOff_range {params : List Byte} (bad : params ≠ [0x00#8]) (s : State) :
    ownDrainOff params s = (s, answer .range) := if_neg bad

/-! ### CAMERA-PASS (R104) -/

/-- The parameters of a CAMERA-PASS that spells a camera and a message (R202). -/
def spellPass (cam : Fin 4) (message : List Byte) : List Byte :=
  BitVec.ofNat 8 cam.val :: BitVec.ofNat 8 message.length :: message

/-- The parameters in range are those that spell a camera and a message of 1 to 64 bytes. -/
theorem passParams_eq_some {params message : List Byte} {cam : Fin 4} : passParams params = some (cam, message)
    ↔ 1 ≤ message.length ∧ message.length ≤ 64 ∧ params = spellPass cam message := by
  constructor
  · intro taken
    unfold passParams at taken
    split at taken
    · next camera length bytes =>
      split at taken
      · split at taken
        · next fits =>
          obtain ⟨low, high, whole⟩ := fits
          obtain ⟨rfl, rfl⟩ := Prod.mk.inj (Option.some.inj taken)
          refine ⟨whole ▸ low, whole ▸ high, ?_⟩
          unfold spellPass
          rw [whole, BitVec.ofNat_toNat, BitVec.setWidth_eq, BitVec.ofNat_toNat, BitVec.setWidth_eq]
        · cases taken
      · cases taken
    · cases taken
  · rintro ⟨low, high, rfl⟩
    have camera : (BitVec.ofNat 8 cam.val).toNat = cam.val := byte_toNat (by omega)
    have length : (BitVec.ofNat 8 message.length).toNat = message.length := byte_toNat (by omega)
    unfold passParams spellPass
    dsimp only
    rw [dif_pos (by rw [camera]; exact cam.isLt), if_pos ⟨by rwa [length], by rwa [length], length.symm⟩]
    simp only [camera, Fin.eta]

section
variable {cam : Fin 4} {params message : List Byte}

theorem ownCameraPass_range (bad : passParams params = none) (s : State) :
    ownCameraPass params s = (s, answer .range) := by
  unfold ownCameraPass
  rw [bad]
  rfl

variable (good : passParams params = some (cam, message))
include good

theorem ownCameraPass_down (down : s.ports[cam].up = false) : ownCameraPass params s = (s, answer .state) := by
  unfold ownCameraPass
  rw [good]
  exact if_pos down

theorem ownCameraPass_full (up : s.ports[cam].up = true) (full : 4 ≤ s.ports[cam].passQueue.length) :
    ownCameraPass params s = (s, answer .full) := by
  unfold ownCameraPass
  rw [good]
  dsimp only
  rw [if_neg (by rw [up]; exact Bool.true_eq_false_eq_False), if_neg (show ¬ _ < passPlaces from full.not_gt)]
  rfl

theorem ownCameraPass_room (up : s.ports[cam].up = true) (room : s.ports[cam].passQueue.length < 4) :
    ownCameraPass params s
      = (s.modPort cam fun p => { p with passQueue := p.passQueue ++ [message] }, answer .ok) := by
  unfold ownCameraPass
  rw [good]
  dsimp only
  rw [if_neg (by rw [up]; exact Bool.true_eq_false_eq_False), if_pos (show _ < passPlaces from room)]

end

theorem exec_cameraPass {c : Command} {rest : List Command} (ready : s.Ready c rest) (code : c.code = 0x0D#8)
    {u : State} {status : Status} (answered : ownCameraPass c.params (s.taken c rest) = (u, answer status)) :
    exec .cameraPass s = .next (u.replied c status none []) := by
  refine (atOnce_interpret ready (hasCode_of_eq code) ownCameraPass).trans ?_
  rw [answered]
  rfl

end Sys2Proof.Machine

namespace Sys2Proof.Settled

open Sys2Proof.Machine

/-- Settles O49: each form of a DRAIN by its row and its owner, and a CAMERA-PASS by its parameters and its port. -/
theorem drainAndCameraPass : Obligations.DrainAndCameraPass := by
  constructor
  · rintro s _ c rest ready rfl code
    refine ⟨fun off => ?_, fun on => ?_, exec_drainOn_other ready, exec_drainOff_other ready, ?_, ?_⟩
    · refine exec_drainOff ready code (by rw [off]; rfl) ?_
      rw [ownDrainOff, if_pos off, setDrain, senderTake_stays (.inr (.inl rfl))]
      rfl
    · have row : c.params.head? ≠ some 0x00#8 := by rw [on]; decide
      have set : ownDrainOn c.params (s.taken c rest) = (setDrain true (s.taken c rest), answer .ok) := if_pos on
      refine ⟨fun stays => ?_, fun id queue k x free delivery found held => ?_⟩
      · refine exec_drainOn ready code row (set.trans ?_)
        rw [setDrain, senderTake_stays (s := (s.taken c rest).modUplink _) (stays.imp_right .inr)]
        rfl
      · refine exec_drainOn ready code row (set.trans ?_)
        rw [setDrain, senderTake_head (s := (s.taken c rest).modUplink _) free rfl delivery found held]
        rfl
    · intro _ notOn row
      rw [exec_drainOn ready code row (ownDrainOn_range notOn _), together_replied]
    · intro notOff row
      exact exec_drainOff ready code row (ownDrainOff_range notOff _)
  · rintro s _ c rest ready rfl code
    refine ⟨fun cam message low high params => ?_, fun bad => ?_⟩
    · have good : passParams c.params = some (cam, message) := passParams_eq_some.2 ⟨low, high, params⟩
      exact ⟨fun down => exec_cameraPass ready code (ownCameraPass_down good down),
        fun up full => exec_cameraPass ready code (ownCameraPass_full good up full),
        fun up room => exec_cameraPass ready code (ownCameraPass_room good up room)⟩
    · have unread : passParams c.params = none := by
        refine Option.eq_none_iff_forall_ne_some.2 fun ⟨cam, message⟩ good => ?_
        obtain ⟨low, high, params⟩ := passParams_eq_some.1 good
        exact bad cam message low high params
      exact exec_cameraPass ready code (ownCameraPass_range unread _)

end Sys2Proof.Settled
end

section
/-! SUPPORT. Slots, conditioning records and working sets through every step (R108, R118, R120, R121, R123, R175). Only a
capture that opens, a slot that is freed and a reset change who holds what; every other operation leaves the holdings alone
(`HoldingsKeep`). -/

namespace Sys2Proof.Machine

/-! ### Who holds what -/

/-- What a conditioning record and a working set must agree with in their capture. -/
def Capture.holding (c : Capture) : CaptureId × Fin 4 × Role × Option (Fin 8) := (c.id, c.camera, c.role, c.workSet)

/-- The capture that a working set was given to, and its slot. -/
def WorkSet.holder (x : WorkSet) : CaptureId × Fin 32 := (x.capture, x.slot)

/-- The captures in the slots, the conditioning records and the holders of the working sets stand as they stood. -/
structure HoldingsKeep (s t : State) : Prop where
  captures : ∀ k : Fin 32, t.slots[k].map Capture.holding = s.slots[k].map Capture.holding
  records : t.condRecords = s.condRecords
  holders : ∀ w : Fin 8, t.workSets[w].map WorkSet.holder = s.workSets[w].map WorkSet.holder

section
variable {s t u : State}

theorem HoldingsKeep.of_eq (slots : t.slots = s.slots) (records : t.condRecords = s.condRecords)
    (sets : t.workSets = s.workSets) : HoldingsKeep s t :=
  ⟨fun _ => by rw [slots], records, fun _ => by rw [sets]⟩

theorem HoldingsKeep.refl (s : State) : HoldingsKeep s s := .of_eq rfl rfl rfl

theorem HoldingsKeep.trans (a : HoldingsKeep s t) (b : HoldingsKeep t u) : HoldingsKeep s u where
  captures k := (b.captures k).trans (a.captures k)
  records := b.records.trans a.records
  holders w := (b.holders w).trans (a.holders w)

/-- An operation that comes after a change elsewhere. -/
theorem HoldingsKeep.after (b : HoldingsKeep t u) (slots : t.slots = s.slots) (records : t.condRecords = s.condRecords)
    (sets : t.workSets = s.workSets) : HoldingsKeep s u := .trans (.of_eq slots records sets) b

/-- A slot whose capture changes in nothing that is held for it. -/
theorem HoldingsKeep.of_slot {k : Fin 32} {f : Option Capture → Option Capture} (slots : t.slots = upd s.slots k f)
    (records : t.condRecords = s.condRecords) (sets : t.workSets = s.workSets)
    (same : (f s.slots[k]).map Capture.holding = s.slots[k].map Capture.holding) : HoldingsKeep s t := by
  refine ⟨fun j => ?_, records, fun _ => by rw [sets]⟩
  rw [slots, upd_get]
  split
  · next at_k => rw [← at_k]; exact same
  · rfl

theorem HoldingsKeep.of_capture {k : Fin 32} {f : Capture → Capture} (slots : t.slots = upd s.slots k (Option.map f))
    (records : t.condRecords = s.condRecords) (sets : t.workSets = s.workSets)
    (same : ∀ c, (f c).holding = c.holding) : HoldingsKeep s t := by
  refine .of_slot slots records sets ?_
  rw [Option.map_map]
  exact Option.map_congr fun c _ => same c

theorem HoldingsKeep.held (h : HoldingsKeep s t) {k : Fin 32} {d : Capture} (holds : t.Holds k d) :
    ∃ c, s.Holds k c ∧ c.holding = d.holding :=
  Option.map_eq_some_iff.1 ((h.captures k).symm.trans (congrArg _ holds))

theorem HoldingsKeep.symm (h : HoldingsKeep s t) : HoldingsKeep t s where
  captures k := (h.captures k).symm
  records := h.records.symm
  holders w := (h.holders w).symm

theorem HoldingsKeep.holder (h : HoldingsKeep s t) {w : Fin 8} {y : WorkSet} (given : t.workSets[w] = some y) :
    ∃ x, s.workSets[w] = some x ∧ x.holder = y.holder :=
  Option.map_eq_some_iff.1 ((h.holders w).symm.trans (congrArg _ given))

theorem Capture.holding_inj {c d : Capture} :
    c.holding = d.holding ↔ c.id = d.id ∧ c.camera = d.camera ∧ c.role = d.role ∧ c.workSet = d.workSet := by
  simp [Capture.holding]

theorem WorkSet.holder_inj {x y : WorkSet} : x.holder = y.holder ↔ x.capture = y.capture ∧ x.slot = y.slot := by
  simp [WorkSet.holder]

/-- The law looks at nothing but the holdings. -/
theorem SlotsSound.keep (h : SlotsSound s) (same : HoldingsKeep s t) : SlotsSound t where
  records k d holds := by
    obtain ⟨c, held, agree⟩ := same.held holds
    obtain ⟨id, camera, role, set⟩ := Capture.holding_inj.1 agree
    rw [same.records, ← id, ← camera, ← role, ← set]
    exact h.records k c held
  freeRecords k free := by
    rw [same.records]
    refine h.freeRecords k (Option.map_eq_none_iff.1 ((same.captures k).symm.trans ?_))
    rw [free]
    rfl
  workSets k d w holds given := by
    obtain ⟨c, held, agree⟩ := same.held holds
    obtain ⟨id, camera, -, set⟩ := Capture.holding_inj.1 agree
    obtain ⟨own, x, stands, capture, slot⟩ := h.workSets k c w held (set.trans given)
    obtain ⟨y, stands', agree'⟩ := same.symm.holder stands
    obtain ⟨capture', slot'⟩ := WorkSet.holder_inj.1 agree'
    exact ⟨camera ▸ own, y, stands', (capture'.trans capture).trans id, slot'.trans slot⟩
  heldSets w y given := by
    obtain ⟨x, stands, agree⟩ := same.holder given
    obtain ⟨c, held, set⟩ := h.heldSets w x stands
    obtain ⟨d, held', agree'⟩ := same.symm.held held
    obtain ⟨-, -, -, set'⟩ := Capture.holding_inj.1 agree'
    rw [← (WorkSet.holder_inj.1 agree).2]
    exact ⟨d, held', set'.trans set⟩

end

/-! ### Operations that leave the holdings alone -/

theorem modSlot_holdings (s : State) (k : Fin 32) {f : Capture → Capture} (same : ∀ c, (f c).holding = c.holding) :
    HoldingsKeep s (s.modSlot k f) := .of_capture rfl rfl rfl same

theorem modTrack_holdings (s : State) (t : Track) (f : TrackRec → TrackRec) : HoldingsKeep s (s.modTrack t f) :=
  .of_eq rfl rfl rfl

theorem modChannel_holdings (s : State) (c : Fin 4) (f : Channel → Channel) : HoldingsKeep s (s.modChannel c f) :=
  .of_eq rfl rfl rfl

theorem modPort_holdings (s : State) (c : Fin 4) (f : Port → Port) : HoldingsKeep s (s.modPort c f) := .of_eq rfl rfl rfl

theorem modUplink_holdings (s : State) (f : Uplink → Uplink) : HoldingsKeep s (s.modUplink f) := .of_eq rfl rfl rfl

theorem StoreKeep.holdings {s t : State} (h : StoreKeep s t) : HoldingsKeep s t := .of_eq h.slots h.condRecords h.workSets

theorem together_holdings (s t : State) : HoldingsKeep t (together s t) := (together_storeKeep s t).holdings

/-- Operations in a free order leave the holdings alone when each does. -/
theorem inFreeOrder_holdings {α : Type} {number : α → Nat} {must : α → α → Bool} {items : List α}
    {f : α → State → State} {s : State} (each : ∀ x u, HoldingsKeep u (f x u)) :
    HoldingsKeep s (inFreeOrder number must items f s) :=
  inFreeOrder_induct (.of_eq rfl rfl rfl) fun x u h => h.trans (each x u)

/-! #### Completion (R148, R165, R171) -/

theorem senderTake_holdings (s : State) : HoldingsKeep s (senderTake s) := by
  unfold senderTake
  split
  · split
    · exact .refl s
    · split
      · exact .refl s
      · exact .of_capture rfl rfl rfl fun _ => rfl
  · exact .refl s

theorem conditionClose_holdings (k : Fin 32) (s : State) : HoldingsKeep s (conditionClose k s) := by
  unfold conditionClose
  split
  · exact .refl s
  · next c held => 
    refine .trans ?_ (senderTake_holdings _)
    refine .of_slot (f := fun _ => some (c.closed s.time (resultRecord s c))) rfl rfl rfl ?_
    rw [held]
    rfl

theorem tryComplete_holdings (k : Fin 32) (s : State) : HoldingsKeep s (tryComplete k s) := by
  unfold tryComplete
  split
  · exact .refl s
  · split
    · exact conditionClose_holdings ..
    · exact .refl s

theorem completeCapture_holdings (id : CaptureId) (s : State) : HoldingsKeep s (completeCapture id s) := by
  unfold completeCapture
  split
  · exact .refl s
  · exact tryComplete_holdings ..

theorem closing_holding (r : CloseReason) (c : Capture) : (c.closing r).holding = c.holding := by
  unfold Capture.closing
  split <;> rfl

theorem closeCapture_holdings (id : CaptureId) (r : CloseReason) (s : State) : HoldingsKeep s (closeCapture id r s) := by
  unfold closeCapture
  split
  · exact .refl s
  · exact (modSlot_holdings s _ (closing_holding r)).trans (tryComplete_holdings ..)

theorem closeWindow_holdings (cam : Fin 4) (r : CloseReason) (s : State) : HoldingsKeep s (closeWindow cam r s) := by
  unfold closeWindow
  split
  · exact .refl s
  · exact (closeCapture_holdings ..).after rfl rfl rfl

/-! #### Rows (R99 to R101, R114, R166) -/

theorem storeRow_holdings (k : Fin 32) (row : StoredRow) (s : State) : HoldingsKeep s (storeRow k row s) := by
  rcases storeRow_cases k row s with ⟨-, e⟩ | ⟨c, -, ⟨-, e⟩ | ⟨g, -, e⟩⟩ <;> rw [e]
  · exact .refl s
  · exact modSlot_holdings s k fun _ => rfl
  · exact .of_capture rfl rfl rfl fun _ => rfl

/-- A profiled row moves the columns of a working set, not its holder. -/
theorem profileRow_holdings (w : Option (Fin 8)) (i travel : Nat) (px : List Byte) (s : State) :
    HoldingsKeep s (profileRow w i travel px s) := by
  unfold profileRow
  split
  · exact .refl s
  · refine ⟨fun _ => rfl, rfl, fun v => ?_⟩
    dsimp only
    rw [upd_get]
    split
    · rw [Option.map_map]
      rfl
    · rfl

theorem receiveRow_holdings (k : Fin 32) (e : Entry) (px : List Byte) (s : State) :
    HoldingsKeep s (receiveRow k e px s) := by
  unfold receiveRow
  split
  · have stored (row : StoredRow) := (modSlot_holdings s k
      (f := fun c => { c with received := c.received + 1, repairRun := 0 }) fun _ => rfl).trans (storeRow_holdings k row _)
    dsimp only
    split
    · exact (stored _).trans (profileRow_holdings ..)
    · exact stored _
  · exact .refl s

theorem missRow_holdings (k : Fin 32) (e : Entry) (s : State) : HoldingsKeep s (missRow k e s) := by
  unfold missRow
  split
  · split
    · refine .trans (modSlot_holdings s k fun c => ?_) (storeRow_holdings ..)
      rfl
    · exact modSlot_holdings s k fun _ => rfl
  · exact .refl s

theorem resolveEntry_holdings (e : Entry) (how : Resolution) (s : State) : HoldingsKeep s (resolveEntry e how s) := by
  unfold resolveEntry
  split
  · exact .refl s
  · split
    · exact .refl s
    · cases how with
      | received px => exact receiveRow_holdings ..
      | missing => exact missRow_holdings ..

theorem takeHeads_holdings (cam : Fin 4) (hows : List Resolution) (s : State) : HoldingsKeep s (takeHeads cam hows s) := by
  induction hows generalizing s with
  | nil => exact .refl s
  | cons how rest ih =>
    refine HoldingsKeep.trans ?_ (ih _)
    unfold takeHead
    split
    · exact .refl s
    · exact (resolveEntry_holdings ..).after rfl rfl rfl

theorem resolveHeads_holdings (cam : Fin 4) (hows : List Resolution) (s : State) :
    HoldingsKeep s (resolveHeads cam hows s) :=
  ((takeHeads_holdings cam hows s).trans (inFreeOrder_holdings completeCapture_holdings)).trans (together_holdings ..)

/-! #### Channels and the trigger, but for windows that open (R70, R78, R85, R86) -/

theorem reportWindow_holdings (t : Track) (cam : Fin 4) (panto : Nat) (o : PlanOutcome) (s : State) :
    HoldingsKeep s (reportWindow t cam panto o s) := by
  rw [reportWindow_eq]
  exact .of_eq rfl rfl rfl

theorem closeReached_holdings (cam : Fin 4) (travel : Nat) (s : State) : HoldingsKeep s (closeReached cam travel s) := by
  unfold closeReached
  split
  · exact .refl s
  · split
    · exact closeWindow_holdings ..
    · split
      · exact closeWindow_holdings ..
      · exact .refl s

theorem tagTrigger_holdings (cam : Fin 4) (pitch : Bool) (s : State) : HoldingsKeep s (tagTrigger cam pitch s) := by
  unfold tagTrigger
  split
  · exact .refl s
  · dsimp only
    split
    · exact .of_eq rfl rfl rfl
    · exact .of_capture rfl rfl rfl fun _ => rfl

theorem issueTrigger_holdings (cam : Fin 4) (site : SiteCamera) (travel : Nat) (s : State) :
    HoldingsKeep s (issueTrigger cam site travel s) := by
  unfold issueTrigger portTrigger
  dsimp only
  split
  · exact .of_eq rfl rfl rfl
  · refine .trans ?_ (modPort_holdings ..)
    exact (resolveHeads_holdings ..).after rfl rfl rfl

theorem stopChannel_holdings (t : Track) (r : DropReason) (cam : Fin 4) (s : State) :
    HoldingsKeep s (stopChannel t r cam s) := by
  by_cases stopped : s.channels[cam].run = .stopped
  · rw [stopChannel_stopped t r stopped]
    exact .refl s
  · rw [stopChannel_running t r stopped]
    refine .trans (.trans ?_ (modTrack_holdings ..)) (modChannel_holdings ..)
    exact (closeWindow_holdings ..).after rfl rfl rfl

theorem stopChannels_holdings (t : Track) (r : DropReason) (s : State) : HoldingsKeep s (stopChannels t r s) :=
  (inFreeOrder_holdings (stopChannel_holdings t r)).trans (together_holdings ..)

/-! #### Passages (R43 to R60) -/

/-- Operations on cameras one after the other leave the holdings alone when each does. -/
theorem foldl_holdings {f : State → Fin 4 → State} (each : ∀ u c, HoldingsKeep u (f u c)) (cams : List (Fin 4))
    (s : State) : HoldingsKeep s (cams.foldl f s) := by
  induction cams generalizing s with
  | nil => exact .refl s
  | cons c rest ih => exact (each s c).trans (ih _)

theorem startPassage_holdings (t : Track) (x : Crossing) (pace : Nat) (s : State) :
    HoldingsKeep s (startPassage t x pace s) := by
  unfold startPassage
  split
  · exact .refl s
  · refine (foldl_holdings (fun u c => ?_) _ _).after rfl rfl rfl
    unfold startChannel
    split
    · exact .refl u
    · exact .of_eq rfl rfl rfl

theorem endPassage_holdings (t : Track) (r : EndReason) (d : EndTo) (s : State) :
    HoldingsKeep s (endPassage t r d s) := by
  unfold endPassage
  dsimp only
  split
  · exact stopChannels_holdings ..
  · refine .trans (.trans (.trans ?_ (modTrack_holdings ..)) (modUplink_holdings ..)) (together_holdings ..)
    exact stopChannels_holdings ..

theorem applyDecision_holdings (t : Track) (d : Decision) (p : Passage) (s : State) :
    HoldingsKeep s (applyDecision t d p s) := by
  have planned (profile : Fin 32) (m : MatchState) : HoldingsKeep s (planPassage t profile m p s) := by
    unfold planPassage
    exact (foldl_holdings (fun u _ => modChannel_holdings u ..) _ _).after rfl rfl rfl
  cases d with
  | seeking => exact .of_eq rfl rfl rfl
  | matched profile => exact planned ..
  | fallback => exact planned ..

theorem appendAxle_holdings (t : Track) (x : Crossing) (p : Passage) (s : State) :
    HoldingsKeep s (appendAxle t x p s) := by
  unfold appendAxle
  split
  · dsimp only
    split
    · unfold matchSpacing
      split <;> exact applyDecision_holdings ..
    · exact .of_eq rfl rfl rfl
  · exact .of_eq rfl rfl rfl

theorem axleOut_holdings (t : Track) (site : SiteTrack) (x : Crossing) (p : Passage) (s : State) :
    HoldingsKeep s (axleOut t site x p s) := by
  unfold axleOut
  dsimp only
  split
  · split
    · exact (endPassage_holdings ..).after rfl rfl rfl
    · exact .of_eq rfl rfl rfl
  · exact .of_eq rfl rfl rfl

theorem markReversed_holdings (t : Track) (s : State) : HoldingsKeep s (markReversed t s) := by
  unfold markReversed
  split
  · exact .refl s
  · split
    · exact .refl s
    · exact (stopChannels_holdings ..).after rfl rfl rfl

theorem crossActive_holdings (t : Track) (site : SiteTrack) (x : Crossing) (p : Passage) (s : State) :
    HoldingsKeep s (crossActive t site x p s) := by
  unfold crossActive
  dsimp only
  split
  · exact appendAxle_holdings ..
  · exact axleOut_holdings ..
  all_goals
    refine HoldingsKeep.trans ?_ (markReversed_holdings ..)
    split <;> exact .of_eq rfl rfl rfl

theorem takeCrossing_holdings (t : Track) (x : Crossing) (s : State) : HoldingsKeep s (takeCrossing t x s) := by
  unfold takeCrossing
  split
  · exact .of_eq rfl rfl rfl
  · exact .of_eq rfl rfl rfl
  · unfold crossIdle
    split
    · exact startPassage_holdings ..
    all_goals exact .of_eq rfl rfl rfl
  · split
    · exact .refl s
    · exact crossActive_holdings ..

/-! #### Time and grants (R173, R193) -/

theorem pass_holdings (s : State) (ns : Nat) : HoldingsKeep s (s.pass ns) := by
  unfold State.pass
  split
  · exact .refl s
  · exact .of_eq rfl rfl rfl

theorem grantClass_holdings (c : TxClass) (s : State) : HoldingsKeep s (grantClass c s) := by
  cases c with
  | capture =>
    unfold grantClass grantCapture
    dsimp only
    split
    · exact .refl s
    · split
      · exact .of_eq rfl rfl rfl
      · exact .refl s
  | reply | alert | summary | note =>
    unfold grantClass
    dsimp only
    split
    · exact .refl s
    · exact .of_eq rfl rfl rfl

theorem releaseHead_holdings (k : Fin 32) (s : State) : HoldingsKeep s (releaseHead k s) := by
  unfold releaseHead
  split
  · exact .refl s
  · split
    · exact .refl s
    · exact .of_capture rfl rfl rfl fun _ => rfl

/-! ### A capture opens (R84, R108, R121) -/

/-- A granted working set is a free one of the camera's two (R120, R121). -/
theorem grantedWorkSet_some {s : State} {cam : Fin 4} {role : Role} {w : Fin 8}
    (granted : grantedWorkSet s cam role = some w) : s.workSets[w] = none ∧ w.val / 2 = cam.val := by
  cases role with
  | image => cases granted
  | profile =>
    unfold grantedWorkSet freeWorkSet at granted
    dsimp only at granted
    split at granted
    · next low =>
      cases granted
      exact ⟨Option.isNone_iff_eq_none.1 low, Nat.mul_div_cancel_left _ Nat.two_pos⟩
    · split at granted
      · next high =>
        cases granted
        exact ⟨Option.isNone_iff_eq_none.1 high, by simp only [highWorkSet]; omega⟩
      · cases granted

section
variable {s : State} {k : Fin 32} {o : Opening}

theorem createCapture_holds {j : Fin 32} {d : Capture} :
    (createCapture k o s).Holds j d ↔ if j = k then newCapture s o = d else s.Holds j d := by
  rw [createCapture_eq, holds_upd (s := s) (f := fun _ => some (newCapture s o)) rfl, Option.some_inj]

theorem createCapture_holds_own : (createCapture k o s).Holds k (newCapture s o) := by
  rw [createCapture_holds, if_pos rfl]

theorem createCapture_condRecords (j : Fin 32) :
    (createCapture k o s).condRecords[j] = if k = j then some (newCondRecord s o) else s.condRecords[j] := by
  rw [createCapture_eq]
  exact upd_get ..

theorem createCapture_workSets : (createCapture k o s).workSets = takenWorkSets s k o := by rw [createCapture_eq]

theorem SlotsSound.createCapture (h : SlotsSound s) (free : s.slots[k] = none)
    (given : ∀ w, o.workSet = some w → s.workSets[w] = none ∧ w.val / 2 = o.camera.val) :
    SlotsSound (createCapture k o s) where
  records j d holds := by
    rw [createCapture_condRecords]
    rw [createCapture_holds] at holds
    by_cases at_k : j = k
    · rw [if_pos at_k] at holds
      rw [if_pos at_k.symm, ← holds]
      exact ⟨_, rfl, rfl, rfl, rfl, rfl⟩
    · rw [if_neg at_k] at holds
      rw [if_neg (Ne.symm at_k)]
      exact h.records j d holds
  freeRecords j empty := by
    have other : k ≠ j := by
      rintro rfl
      exact nomatch createCapture_holds_own.symm.trans empty
    rw [createCapture_condRecords, if_neg other]
    rw [createCapture_eq] at empty
    exact h.freeRecords j ((upd_get_other _ _ other).symm.trans empty)
  workSets j d w holds set := by
    rw [createCapture_workSets]
    rw [createCapture_holds] at holds
    split at holds
    · next at_k =>
      subst holds
      exact ⟨(given w set).2, newWorkSet k o, takenWorkSets_own set, rfl, at_k.symm⟩
    · obtain ⟨own, x, stands, holder⟩ := h.workSets j d w holds set
      have other : o.workSet ≠ some w := fun taken => nomatch stands.symm.trans (given w taken).1
      exact ⟨own, x, (takenWorkSets_other other).trans stands, holder⟩
  heldSets w x stands := by
    rw [createCapture_workSets] at stands
    by_cases taken : o.workSet = some w
    · cases (takenWorkSets_own taken).symm.trans stands
      exact ⟨newCapture s o, createCapture_holds_own, taken⟩
    · obtain ⟨c, held, set⟩ := h.heldSets w x ((takenWorkSets_other taken).symm.trans stands)
      have other : x.slot ≠ k := by
        rintro rfl
        exact nomatch held.symm.trans free
      exact ⟨c, createCapture_holds.2 (by rwa [if_neg other]), set⟩

end

theorem SlotsSound.takeSlot {s : State} (h : SlotsSound s) (t : Track) (cam : Fin 4) (site : SiteCamera) (p : Passage)
    (head : HeadClass) (w : Window) : SlotsSound (takeSlot t cam site p head w s) := by
  cases free : s.freeSlot with
  | none =>
    rw [takeSlot_full t cam site p head w free]
    exact h.keep (reportWindow_holdings ..)
  | some k =>
    rw [takeSlot_free t cam site p head w free]
    exact h.createCapture (freeSlot_free free) fun _ => grantedWorkSet_some

theorem SlotsSound.openWindow {s : State} (h : SlotsSound s) (t : Track) (cam : Fin 4) (site : SiteCamera) (p : Passage)
    (w : Window) : SlotsSound (openWindow t cam site p w s) := by
  unfold Machine.openWindow
  split
  · exact h
  · exact (h.keep (closeWindow_holdings ..)).takeSlot ..

theorem SlotsSound.examineWindows {s : State} (h : SlotsSound s) (t : Track) (cam : Fin 4) (site : SiteCamera)
    (p : Passage) (travel : Nat) (ws : List Window) : SlotsSound (examineWindows t cam site p travel ws s) := by
  have moved (f : Channel → Channel) : SlotsSound (s.modChannel cam f) := h.keep (.of_eq rfl rfl rfl)
  induction ws generalizing s with
  | nil => exact moved _
  | cons w rest ih =>
    unfold Machine.examineWindows
    split
    · have reported := h.keep (reportWindow_holdings t cam w.panto (.dropped .missed) s)
      exact ih reported fun _ => reported.keep (.of_eq rfl rfl rfl)
    · split
      · exact (moved _).openWindow ..
      · exact moved _

theorem SlotsSound.triggerNow {s : State} (h : SlotsSound s) (cam : Fin 4) : SlotsSound (triggerNow cam s) := by
  unfold Machine.triggerNow
  split
  · exact h
  · split
    · split
      · unfold takeTrigger
        refine SlotsSound.keep (.examineWindows (h.keep ?_) ..) ((tagTrigger_holdings ..).trans (issueTrigger_holdings ..))
        exact (closeReached_holdings ..).after rfl rfl rfl
      · exact h
    · exact h

/-! ### A slot is freed (R118, R123, R175) -/

section
variable {s : State} {k : Fin 32}

theorem freeSlotOf_holds {j : Fin 32} {d : Capture} : (freeSlotOf k s).Holds j d ↔ j ≠ k ∧ s.Holds j d := by
  rw [holds_upd (f := fun _ => none) rfl]
  by_cases at_k : j = k <;> simp [at_k]

/-- A slot gives up the working set of its capture, and no other. -/
theorem freeSlotOf_workSets (w : Fin 8) : (freeSlotOf k s).workSets[w]
    = if s.slots[k].bind Capture.workSet = some w then none else s.workSets[w] := by
  unfold freeSlotOf
  dsimp only
  split
  · next none => rw [none]; rfl
  · next v some =>
    rw [some, upd_get]
    simp only [Option.some_inj]

theorem SlotsSound.freeSlotOf (h : SlotsSound s) (k : Fin 32) : SlotsSound (freeSlotOf k s) where
  records j d holds := by
    obtain ⟨other, held⟩ := freeSlotOf_holds.1 holds
    obtain ⟨r, record, agree⟩ := h.records j d held
    exact ⟨r, (upd_get_other _ _ other.symm).trans record, agree⟩
  freeRecords j empty := by
    by_cases at_k : k = j
    · exact (upd_get ..).trans (if_pos at_k)
    · exact (upd_get_other _ _ at_k).trans (h.freeRecords j ((upd_get_other _ _ at_k).symm.trans empty))
  workSets j d w holds set := by
    obtain ⟨other, held⟩ := freeSlotOf_holds.1 holds
    obtain ⟨own, x, stands, capture, slot⟩ := h.workSets j d w held set
    have kept : s.slots[k].bind Capture.workSet ≠ some w := by
      intro freed
      obtain ⟨c, at_k, taken⟩ := Option.bind_eq_some_iff.1 freed
      obtain ⟨-, y, stands', -, slot'⟩ := h.workSets k c w at_k taken
      cases stands.symm.trans stands'
      exact other (slot.symm.trans slot')
    exact ⟨own, x, by rw [freeSlotOf_workSets, if_neg kept, stands], capture, slot⟩
  heldSets w x stands := by
    rw [freeSlotOf_workSets] at stands
    split at stands
    · cases stands
    · next kept =>
      obtain ⟨c, held, set⟩ := h.heldSets w x stands
      have other : x.slot ≠ k := fun at_k => kept (Option.bind_eq_some_iff.2 ⟨c, at_k ▸ held, set⟩)
      exact ⟨c, freeSlotOf_holds.2 ⟨other, held⟩, set⟩

/-- The end of a capture record: a segment at most goes back, and the end of the last one frees the slot (R174, R175). -/
theorem SlotsSound.senderEnd (h : SlotsSound s) (kind : TxKind) : SlotsSound (senderEnd kind s) := by
  unfold Machine.senderEnd
  split
  · exact h
  · cases kind with
    | header => exact h.keep (.of_eq rfl rfl rfl)
    | block rows =>
      dsimp only
      split
      · exact h.keep ((releaseHead_holdings ..).after rfl rfl rfl)
      · exact h.keep (.of_eq rfl rfl rfl)
    | captureEnd => exact (h.freeSlotOf _).keep (senderTake_holdings _)
    | reply | alert | summary | note => exact h

end

/-! ### Every step -/

/-- A part with no capture, no conditioning record and every working set free. -/
theorem SlotsSound.of_empty {t : State} (slots : t.slots = Vector.replicate 32 none)
    (records : t.condRecords = Vector.replicate 32 none) (sets : t.workSets = Vector.replicate 8 none) : SlotsSound t :=
  reset_slotsSound.keep (.of_eq slots records sets)

theorem slotsSound_closed : StoreClosed SlotsSound where
  keep k h := h.keep k.holdings
  pass ns h := h.keep (pass_holdings _ ns)
  softReset _ := .of_empty rfl rfl rfl
  hardReset _ _ := .of_empty rfl rfl rfl
  crosses t x h := h.keep (takeCrossing_holdings t x _)
  ends t r d h := h.keep (endPassage_holdings t r d _)
  triggers cam h := h.triggerNow cam
  resolves cam hows h := h.keep (resolveHeads_holdings cam hows _)
  takes h := h.keep (senderTake_holdings _)
  sends {s x} f _ _ h := (h.keep (t := s.modUplink f) (.of_eq rfl rfl rfl)).senderEnd x.kind
  grants c _ h := h.keep (grantClass_holdings c _)

end Sys2Proof.Machine

namespace Sys2Proof.Settled

open Sys2Proof.Machine

/-- Settles O59: the law of the slots is closed under every command by itself; that of the store is not needed for it. -/
theorem stepsKeepSlotsSound : Obligations.StepsKeepSlotsSound :=
  fun _ _ _ sound stepped => slotsSound_closed.step stepped sound

end Sys2Proof.Settled
end

section
/-! SUPPORT. The Strip Profiler up to its cells (R124 to R132): the edge search column by column, the thickness of a column, the
total of a cell and the cells of a band. -/

namespace Sys2Proof.Machine

/-! ### The edge search (R124, R125, R127) -/

section
variable (w : WorkSet) (rowIndex travel : Nat)

theorem searchColumns_length (bs : List Bool) (ps : List Byte) (cs : List Column) :
    (searchColumns w rowIndex travel bs ps cs).length = cs.length := by
  induction cs generalizing bs ps with
  | nil => cases bs <;> cases ps <;> rfl
  | cons c cs ih =>
    cases bs with
    | nil => rfl
    | cons b bs =>
      cases ps with
      | nil => rfl
      | cons p ps => exact congrArg (· + 1) (ih bs ps)

/-- Each column is searched with the blank flag and the pixel of its own place. -/
theorem searchColumns_at {bs : List Bool} {ps : List Byte} {cs : List Column} {i : Nat} {b : Bool} {p : Byte} {c : Column}
    (flag : bs[i]? = some b) (pixel : ps[i]? = some p) (column : cs[i]? = some c) :
    (searchColumns w rowIndex travel bs ps cs)[i]? = some (searchColumn w rowIndex travel b p c) := by
  induction i generalizing bs ps cs with
  | zero =>
    obtain ⟨bs, rfl⟩ := List.head?_eq_some_iff.1 (List.head?_eq_getElem?.trans flag)
    obtain ⟨ps, rfl⟩ := List.head?_eq_some_iff.1 (List.head?_eq_getElem?.trans pixel)
    obtain ⟨cs, rfl⟩ := List.head?_eq_some_iff.1 (List.head?_eq_getElem?.trans column)
    rfl
  | succ i ih =>
    cases bs with
    | nil => cases flag
    | cons _ bs =>
      cases ps with
      | nil => cases pixel
      | cons _ ps =>
        cases cs with
        | nil => cases column
        | cons _ cs => exact ih flag pixel column

variable (pixel : Byte)

theorem searchColumn_blanked (c : Column) : searchColumn w rowIndex travel true pixel c = c := rfl

theorem searchColumn_seekReference : searchColumn w rowIndex travel false pixel .seekReference
    = if w.referenceThreshold < pixel.toNat then .seekStrip rowIndex travel else .seekReference := rfl

theorem searchColumn_seekStrip (r tr : Nat) : searchColumn w rowIndex travel false pixel (.seekStrip r tr)
    = if r + w.minGap ≤ rowIndex ∧ pixel.toNat < w.stripThreshold then .found r tr travel else .seekStrip r tr := rfl

theorem searchColumn_found (blanked : Bool) (r tr ts : Nat) :
    searchColumn w rowIndex travel blanked pixel (.found r tr ts) = .found r tr ts := by
  cases blanked <;> rfl

end

/-! ### Column thickness (R128) -/

theorem measureColumn_blanked (slope : Nat) (c : Column) : measureColumn slope true c = .blanked := rfl

theorem measureColumn_found (slope r tr ts : Nat) : measureColumn slope false (.found r tr ts)
    = .valid (min ((ts - tr) * slope / 10240) 65535) (decide (65535 < (ts - tr) * slope / 10240)) := by
  show (if 65535 < (ts - tr) * slope / 10240 then _ else _) = _
  split
  · next large => rw [min_eq_right large.le, decide_eq_true large]
  · next fits => rw [min_eq_left (Nat.not_lt.1 fits), decide_eq_false fits]

theorem measureColumn_invalid (slope : Nat) {c : Column} (seeks : ∀ r tr ts, c ≠ .found r tr ts) :
    measureColumn slope false c = .invalid := by
  cases c with
  | seekReference => rfl
  | seekStrip r tr => rfl
  | found r tr ts => exact absurd rfl (seeks r tr ts)

/-! ### The total of a cell (R131) -/

/-- A number held in 16 bits with saturation, and its mark. -/
def clamped (n : Nat) : Nat × Bool := (min n 65535, decide (65535 < n))

theorem clamped_of_le {n : Nat} (fits : n ≤ 65535) : clamped n = (n, false) := by
  rw [clamped, min_eq_left fits, decide_eq_false fits.not_gt]

theorem clamped_of_lt {n : Nat} (large : 65535 < n) : clamped n = (65535, true) := by
  rw [clamped, min_eq_right large.le, decide_eq_true large]

/-- Saturation at a node of the tree loses nothing that saturation at its root would keep. -/
theorem satAdd_clamped (a b : Nat) : satAdd (clamped a) (clamped b) = clamped (a + b) := by
  unfold satAdd clamped
  dsimp only
  split
  · next large => exact Prod.ext (show 65535 = _ by omega) (decide_eq_true (show 65535 < a + b by omega)).symm
  · next fits =>
    refine Prod.ext (show _ + _ = min (a + b) 65535 by omega) ?_
    rw [← Bool.decide_or]
    exact decide_eq_decide.2 (by omega)

/-- The tree of additions gives the exact sum of the eight amounts, saturated once (R131). -/
theorem cellTotal_eq {columns : List Measured} (eight : columns.length = 8) (small : ∀ m ∈ columns, m.amount ≤ 65535) :
    cellTotal (fun k => (columns.getD k .invalid).amount) = clamped (columns.map Measured.amount).sum := by
  obtain ⟨a, b, c, d, e, f, g, h, rfl⟩ : ∃ a b c d e f g h, columns = [a, b, c, d, e, f, g, h] := by
    match columns, eight with
    | [a, b, c, d, e, f, g, h], _ => exact ⟨a, b, c, d, e, f, g, h, rfl⟩
  have leaf : ∀ m ∈ [a, b, c, d, e, f, g, h], (m.amount, false) = clamped m.amount :=
    fun m mem => (clamped_of_le (small m mem)).symm
  simp only [List.forall_mem_cons] at leaf
  obtain ⟨la, lb, lc, ld, le, lf, lg, lh, -⟩ := leaf
  show satAdd (satAdd (satAdd (a.amount, false) (b.amount, false)) (satAdd (c.amount, false) (d.amount, false)))
      (satAdd (satAdd (e.amount, false) (f.amount, false)) (satAdd (g.amount, false) (h.amount, false))) = _
  rw [la, lb, lc, ld, le, lf, lg, lh]
  simp only [satAdd_clamped, List.map_cons, List.map_nil, List.sum_cons, List.sum_nil, Nat.add_assoc, Nat.add_zero]

theorem Measured.amount_le {columns : List Measured} (small : ∀ t ov, .valid t ov ∈ columns → t ≤ 65535) :
    ∀ m ∈ columns, m.amount ≤ 65535
  | .valid t ov, mem => small t ov mem
  | .blanked, _ | .invalid, _ => Nat.zero_le _

/-! ### Cells (R130 to R132) -/

section
variable {minValid : Nat} {columns : List Measured}

theorem makeCell_blanked (all : columns.countP (fun m => !m.isBlanked) = 0) : makeCell minValid columns = .blanked :=
  if_pos all

theorem makeCell_sparse (unblanked : 0 < columns.countP (fun m => !m.isBlanked))
    (few : columns.countP Measured.isValid < min (columns.countP fun m => !m.isBlanked) minValid) :
    makeCell minValid columns = .sparse :=
  (if_neg unblanked.ne').trans (if_pos few)

/-- A cell with enough valid columns takes the exact total of its amounts. -/
theorem makeCell_summed (eight : columns.length = 8) (small : ∀ t ov, .valid t ov ∈ columns → t ≤ 65535)
    (unblanked : 0 < columns.countP (fun m => !m.isBlanked))
    (enough : min (columns.countP fun m => !m.isBlanked) minValid ≤ columns.countP Measured.isValid) :
    makeCell minValid columns = if 65535 < (columns.map Measured.amount).sum then .saturated
      else .present ((columns.map Measured.amount).sum / columns.countP Measured.isValid) := by
  refine ((if_neg unblanked.ne').trans (if_neg enough.not_gt)).trans ?_
  rw [cellTotal_eq eight (Measured.amount_le small)]
  by_cases large : 65535 < (columns.map Measured.amount).sum
  · rw [clamped_of_lt large, if_pos large]
    rfl
  · rw [clamped_of_le (Nat.not_lt.1 large), if_neg large]
    rfl

end

/-! ### The cells of a band (R125, R139) -/

theorem inCells_of_le {α : Type} {l : List α} (more : 8 ≤ l.length) : inCells l = l.take 8 :: inCells (l.drop 8) := by
  match l, more with
  | _ :: _ :: _ :: _ :: _ :: _ :: _ :: _ :: _, _ => rfl

theorem inCells_length {α : Type} {n : Nat} {l : List α} (whole : l.length = 8 * n) : (inCells l).length = n := by
  induction n generalizing l with
  | zero =>
    obtain rfl := List.eq_nil_of_length_eq_zero whole
    rfl
  | succ n ih =>
    rw [inCells_of_le (by omega), List.length_cons, ih (by rw [List.length_drop]; omega)]

/-- Cell `i` holds the items from 8 i on. -/
theorem inCells_at {α : Type} {n : Nat} {l : List α} (whole : l.length = 8 * n) {i : Nat} (inside : i < n) :
    (inCells l)[i]? = some ((l.drop (8 * i)).take 8) := by
  induction n generalizing l i with
  | zero => exact absurd inside (Nat.not_lt_zero i)
  | succ n ih =>
    rw [inCells_of_le (by omega)]
    cases i with
    | zero => rfl
    | succ i =>
      rw [List.getElem?_cons_succ, ih (by rw [List.length_drop]; omega) (by omega), List.drop_drop, Nat.mul_succ,
        Nat.add_comm]

section
variable {w : WorkSet} {cells : Nat}

/-- The columns of a working set's band, measured. -/
def bandColumns (w : WorkSet) : List Measured :=
  List.zipWith (measureColumn w.slope) (w.blank.drop (8 * w.firstCell)) w.columns

theorem measuredCells_eq (w : WorkSet) : measuredCells w = inCells (bandColumns w) := rfl

theorem bandColumns_at {i : Nat} {b : Bool} {c : Column} (flag : w.blank[8 * w.firstCell + i]? = some b)
    (column : w.columns[i]? = some c) : (bandColumns w)[i]? = some (measureColumn w.slope b c) := by
  rw [bandColumns, List.getElem?_zipWith, List.getElem?_drop, flag, column]

variable (blank : w.blank.length = 2048) (band : 8 * w.firstCell + 8 * cells ≤ 2048) (columns : w.columns.length = 8 * cells)
include blank band columns

theorem bandColumns_length : (bandColumns w).length = 8 * cells := by
  rw [bandColumns, List.length_zipWith, List.length_drop]
  omega

theorem measuredCells_length : (measuredCells w).length = cells := by
  rw [measuredCells_eq, inCells_length (bandColumns_length blank band columns)]

theorem measuredCells_at {i : Nat} (inside : i < cells) :
    (measuredCells w)[i]? = some (((bandColumns w).drop (8 * i)).take 8) := by
  rw [measuredCells_eq, inCells_at (bandColumns_length blank band columns) inside]

end

end Sys2Proof.Machine

namespace Sys2Proof.Settled

open Sys2Proof.Machine

/-- Settles O34: the search of a row is the search of each column of the band in its own stage. -/
theorem edgeSearch : Obligations.EdgeSearch := by
  rintro w _ rowIndex travel pixels - - - - - rfl
  refine ⟨rfl, searchColumns_length .., fun i c pixel blanked column light flag => ?_⟩
  have searched : (searchRow rowIndex travel pixels w).columns[i]?
      = some (searchColumn w rowIndex travel blanked pixel c) :=
    searchColumns_at w rowIndex travel (List.getElem?_drop.trans flag) (List.getElem?_drop.trans light) column
  rw [searched]
  refine ⟨?_, ?_, ?_, ?_⟩
  · rintro rfl
    rw [searchColumn_blanked]
  · rintro rfl rfl
    rw [searchColumn_seekReference]
  · rintro rfl r tr rfl
    rw [searchColumn_seekStrip]
  · rintro r tr ts rfl
    rw [searchColumn_found]

/-- Settles O35: the columns by their stage, a cell by its exact total, and the band cut into cells of eight. -/
theorem cellsMeasured : Obligations.CellsMeasured := by
  refine ⟨fun slope r tr ts _ => measureColumn_found .., ?_, fun slope c =>
    ⟨measureColumn_blanked slope c, measureColumn_invalid slope⟩, ?_, ?_⟩
  · rintro slope b c (rfl | seeks)
    · rw [measureColumn_blanked]
      rfl
    · cases b with
      | true => rw [measureColumn_blanked]; rfl
      | false => rw [measureColumn_invalid slope seeks]; rfl
  · rintro minValid _ _ _ columns eight least small rfl rfl rfl
    refine ⟨makeCell_blanked, makeCell_sparse, fun unblanked enough large => ?_, fun unblanked enough fits => ?_⟩
    · rw [makeCell_summed eight small unblanked enough, if_pos large]
    · rw [makeCell_summed eight small unblanked enough, if_neg fits.not_gt]
      exact ⟨rfl, (le_min unblanked least).trans enough, (Nat.div_le_self ..).trans fits⟩
  · rintro w cells blank ordered last rfl columns
    have band : 8 * w.firstCell + 8 * (w.lastCell + 1 - w.firstCell) ≤ 2048 := by omega
    refine ⟨measuredCells_length blank band columns, ?_, fun i inside => ?_⟩
    · rw [cellList, List.length_map, measuredCells_length blank band columns]
    · have cell := measuredCells_at blank band columns inside
      refine ⟨_, cell, ?_, ?_, fun position within blanked c flag column => ?_⟩
      · rw [List.length_take, List.length_drop, bandColumns_length blank band columns]
        omega
      · rw [cellList, List.getElem?_map, cell]
        rfl
      · rw [List.getElem?_take_of_lt within, List.getElem?_drop]
        exact bandColumns_at (by rwa [← Nat.add_assoc, ← Nat.mul_add]) column

end Sys2Proof.Settled
end

section
/-! SUPPORT. The capture result and the measurement marks (R133 to R138): the cells that count, the lowest of the minimum, the
mean, the steps, and the conditions a set holds. -/

namespace Sys2Proof.Machine

/-! ### Present, unsaturated cells (R134) -/

/-- The value of a present, unsaturated cell. -/
def Cell.value : Cell → Option Nat
  | .present v => some v
  | .blanked | .sparse | .saturated => none

theorem Cell.value_eq_some {x : Cell} {v : Nat} : x.value = some v ↔ x = .present v := by
  cases x <;> simp [Cell.value]

theorem presentCells_cons (i : Nat) (x : Cell) (rest : List Cell) :
    presentCells i (x :: rest) = (x.value.map (i, ·)).toList ++ presentCells (i + 1) rest := by
  cases x <;> rfl

theorem mem_presentCells {i j v : Nat} {cells : List Cell} :
    (j, v) ∈ presentCells i cells ↔ ∃ n, j = i + n ∧ cells[n]? = some (.present v) := by
  induction cells generalizing i with
  | nil => simp [presentCells]
  | cons x rest ih =>
    have here : (j, v) ∈ (x.value.map (i, ·)).toList ↔ j = i ∧ x = .present v := by
      rw [Option.mem_toList, Option.map_eq_some_iff, ← Cell.value_eq_some]
      constructor
      · rintro ⟨_, value, same⟩
        obtain ⟨rfl, rfl⟩ := Prod.mk.inj same
        exact ⟨rfl, value⟩
      · rintro ⟨rfl, value⟩
        exact ⟨v, value, rfl⟩
    rw [presentCells_cons, List.mem_append, here, ih]
    constructor
    · rintro (⟨rfl, rfl⟩ | ⟨n, rfl, cell⟩)
      · exact ⟨0, rfl, rfl⟩
      · exact ⟨n + 1, by omega, cell⟩
    · rintro ⟨n, rfl, cell⟩
      cases n with
      | zero => exact .inl ⟨rfl, Option.some.inj cell⟩
      | succ n => exact .inr ⟨n, by omega, cell⟩

theorem presentCells_ascend (i : Nat) (cells : List Cell) :
    (presentCells i cells).Pairwise fun x y => x.1 < y.1 := by
  induction cells generalizing i with
  | nil => exact .nil
  | cons x rest ih =>
    rw [presentCells_cons]
    cases value : x.value with
    | none => exact ih (i + 1)
    | some v =>
      refine .cons (fun y later => ?_) (ih (i + 1))
      obtain ⟨n, above, -⟩ := mem_presentCells.1 later
      show i < y.1
      omega

theorem presentCells_values (i : Nat) (cells : List Cell) :
    (presentCells i cells).map Prod.snd = cells.filterMap Cell.value := by
  induction cells generalizing i with
  | nil => rfl
  | cons x rest ih =>
    rw [presentCells_cons, List.map_append, ih]
    cases x <;> rfl

theorem presentCells_eq_nil {i : Nat} {cells : List Cell} : presentCells i cells = [] ↔ ∀ v, Cell.present v ∉ cells := by
  rw [← List.map_eq_nil_iff (f := Prod.snd), presentCells_values, List.filterMap_eq_nil_iff]
  constructor
  · intro none v mem
    cases none _ mem
  · rintro none (v | _ | _ | _) mem
    · exact absurd mem (none v)
    all_goals rfl

theorem mem_values {v : Nat} {cells : List Cell} : v ∈ cells.filterMap Cell.value ↔ Cell.present v ∈ cells := by
  rw [List.mem_filterMap]
  constructor
  · rintro ⟨x, mem, value⟩
    exact Cell.value_eq_some.1 value ▸ mem
  · exact fun mem => ⟨_, mem, rfl⟩

/-! ### The minimum and its cell (R135) -/

/-- An item holds the least value of a list and the lowest index of that value. -/
def IsLowest (low : Nat × Nat) (l : List (Nat × Nat)) : Prop :=
  low ∈ l ∧ ∀ x ∈ l, low.2 ≤ x.2 ∧ (x.2 = low.2 → low.1 ≤ x.1)

/-- Dropping the worse of the two first items of an ascending list leaves the lowest. -/
theorem IsLowest.of_drop {low best x : Nat × Nat} {rest : List (Nat × Nat)} (first : best.1 < x.1)
    (h : IsLowest low ((if x.2 < best.2 then x else best) :: rest)) : IsLowest low (best :: x :: rest) := by
  obtain ⟨mem, least⟩ := h
  rw [List.forall_mem_cons] at least
  obtain ⟨head, tail⟩ := least
  refine ⟨?_, List.forall_mem_cons.2 ⟨?_, List.forall_mem_cons.2 ⟨?_, tail⟩⟩⟩
  · split at mem <;> simp only [List.mem_cons] at mem ⊢ <;> tauto
  all_goals split at head <;> omega

theorem minimumCell_isLowest (best : Nat × Nat) (rest : List (Nat × Nat))
    (ascend : (best :: rest).Pairwise fun x y => x.1 < y.1) : IsLowest (minimumCell best rest) (best :: rest) := by
  induction rest generalizing best with
  | nil => exact ⟨List.mem_singleton_self _, fun x mem => List.mem_singleton.1 mem ▸ ⟨le_rfl, fun _ => le_rfl⟩⟩
  | cons x rest ih =>
    obtain ⟨first, later⟩ := List.pairwise_cons.1 ascend
    refine .of_drop (first x List.mem_cons_self) (ih _ ?_)
    split
    · exact later
    · exact .cons (fun y mem => first y (List.mem_cons_of_mem _ mem)) later.of_cons

/-! ### The mean (R136) -/

/-- A mean rounded down lies between a lower bound of its values and the largest of them. -/
theorem mean_between {values : List Nat} (nonempty : values ≠ []) {least : Nat} (lower : ∀ v ∈ values, least ≤ v) :
    least ≤ values.sum / values.length ∧ ∃ v ∈ values, values.sum / values.length ≤ v := by
  have positive : 0 < values.length := List.length_pos_iff.2 nonempty
  constructor
  · rw [Nat.le_div_iff_mul_le positive, Nat.mul_comm]
    exact List.card_nsmul_le_sum values least lower
  · have total : (values.map fun _ => values.sum / values.length).sum ≤ (values.map id).sum := by
      rw [List.map_id, List.map_const', List.sum_replicate, smul_eq_mul]
      exact Nat.mul_div_le ..
    exact List.exists_le_of_sum_le nonempty _ id total

/-! ### Steps (R138) -/

/-- The cells `i` and `i + 1` are both present and unsaturated and differ by more than the step limit. -/
def stepAt (limit : Nat) (cells : List Cell) (i : Nat) : Bool :=
  match cells[i]?, cells[i + 1]? with
  | some (.present a), some (.present b) => decide (a + limit < b ∨ b + limit < a)
  | _, _ => false

theorem stepAt_eq_true {limit : Nat} {cells : List Cell} {i : Nat} : stepAt limit cells i = true
    ↔ ∃ a b, cells[i]? = some (.present a) ∧ cells[i + 1]? = some (.present b) ∧ (a + limit < b ∨ b + limit < a) := by
  unfold stepAt
  split
  · next a b here next =>
    rw [decide_eq_true_iff, here, next]
    simp
  · next other =>
    refine ⟨nofun, ?_⟩
    rintro ⟨a, b, here, next, -⟩
    exact (other a b here next).elim

/-- The pairs of a list are the pair at its front and those behind it. -/
theorem stepPairs_cons (limit : Nat) (x : Cell) (rest : List Cell) :
    stepPairs limit (x :: rest) = (if stepAt limit (x :: rest) 0 then 1 else 0) + stepPairs limit rest := by
  match x, rest with
  | .present a, .present b :: rest =>
    have far : limit < max a b - min a b ↔ stepAt limit (.present a :: .present b :: rest) 0 = true := by
      show _ ↔ decide _ = true
      rw [decide_eq_true_iff]
      omega
    rw [stepPairs]
    simp only [far]
  | .present a, [] | .present a, .blanked :: rest | .present a, .sparse :: rest | .present a, .saturated :: rest
  | .blanked, rest | .sparse, rest | .saturated, rest => exact (Nat.zero_add _).symm

theorem stepPairs_eq_countP (limit : Nat) (cells : List Cell) :
    stepPairs limit cells = (List.range cells.length).countP (stepAt limit cells) := by
  induction cells with
  | nil => rfl
  | cons x rest ih =>
    rw [stepPairs_cons, ih, List.length_cons, List.range_succ_eq_map, List.countP_cons, List.countP_map, Nat.add_comm]
    rfl

theorem stepPairs_eq_zero {limit : Nat} {cells : List Cell} : stepPairs limit cells = 0
    ↔ ∀ i a b, cells[i]? = some (.present a) → cells[i + 1]? = some (.present b) → a ≤ b + limit ∧ b ≤ a + limit := by
  rw [stepPairs_eq_countP, List.countP_eq_zero]
  constructor
  · intro none i a b here next
    have inside : i < cells.length := (List.getElem?_eq_some_iff.1 here).1
    have near := none i (List.mem_range.2 inside)
    rw [stepAt_eq_true] at near
    by_contra far
    exact near ⟨a, b, here, next, by omega⟩
  · intro near i _ step
    obtain ⟨a, b, here, next, far⟩ := stepAt_eq_true.1 step
    have := near i a b here next
    omega

/-! ### The result (R134 to R138) -/

theorem captureResult_eq_none {w : WorkSet} {cells : List Cell} :
    captureResult w cells = none ↔ ∀ v, Cell.present v ∉ cells := by
  rw [← presentCells_eq_nil (i := w.firstCell), captureResult]
  split <;> simp_all

/-- A result that is present: its minimum and cell are the lowest of the cells that count, and its other fields follow. -/
theorem captureResult_eq_some {w : WorkSet} {cells : List Cell} {r : WearResult} (present : captureResult w cells = some r) :
    IsLowest (r.cell, r.minimum) (presentCells w.firstCell cells)
      ∧ r = { r with
          mean := (cells.filterMap Cell.value).sum / (cells.filterMap Cell.value).length
          wear := w.nominal - r.minimum
          steps := min 255 (stepPairs w.stepLimit cells) } := by
  have ascend := presentCells_ascend w.firstCell cells
  rw [← presentCells_values w.firstCell cells]
  unfold captureResult at present
  split at present
  · cases present
  · next first rest list =>
    obtain rfl := Option.some.inj present
    rw [list] at ascend ⊢
    exact ⟨minimumCell_isLowest first rest ascend, rfl⟩

section
variable {w : WorkSet} {cells : List Cell} {r : WearResult} (present : captureResult w cells = some r)
include present

/-- The minimum and its cell, by the places of the cell list (R135). -/
theorem captureResult_lowest :
    (w.firstCell ≤ r.cell ∧ cells[r.cell - w.firstCell]? = some (.present r.minimum))
    ∧ ∀ i v, cells[i]? = some (.present v) → r.minimum ≤ v ∧ (v = r.minimum → r.cell ≤ w.firstCell + i) := by
  obtain ⟨⟨held, least⟩, -⟩ := captureResult_eq_some present
  obtain ⟨n, index, cell⟩ := mem_presentCells.1 held
  refine ⟨⟨index ▸ Nat.le_add_right .., ?_⟩, fun i v at_i => least _ (mem_presentCells.2 ⟨i, rfl, at_i⟩)⟩
  rwa [index, Nat.add_sub_cancel_left]

theorem captureResult_mean : r.mean = (cells.filterMap Cell.value).sum / (cells.filterMap Cell.value).length :=
  congrArg WearResult.mean (captureResult_eq_some present).2

theorem captureResult_wear : r.wear = w.nominal - r.minimum :=
  congrArg WearResult.wear (captureResult_eq_some present).2

theorem captureResult_steps : r.steps = min 255 (stepPairs w.stepLimit cells) :=
  congrArg WearResult.steps (captureResult_eq_some present).2

/-- The mean lies between the minimum and the largest value (R136). -/
theorem captureResult_mean_between : r.minimum ≤ r.mean ∧ ∃ v, Cell.present v ∈ cells ∧ r.mean ≤ v := by
  obtain ⟨⟨-, held⟩, lower⟩ := captureResult_lowest present
  have nonempty : cells.filterMap Cell.value ≠ [] := List.ne_nil_of_mem (mem_values.2 (List.mem_of_getElem? held))
  obtain ⟨above, v, mem, below⟩ := mean_between nonempty (least := r.minimum) fun v mem => by
    obtain ⟨i, at_i⟩ := List.mem_iff_getElem?.1 (mem_values.1 mem)
    exact (lower i v at_i).1
  rw [captureResult_mean present]
  exact ⟨above, v, mem_values.1 mem, below⟩

end

/-! ### The marks of a set (R145, R199) -/

/-- The conditions in the order of their numbers (8.1). -/
def condsInOrder : List Cond :=
  [.unmatched, .late, .cut, .short, .limit, .pitch, .repaired, .gap, .trunc, .norows, .sparse, .overMark, .sat, .nocell,
    .wear, .step]

theorem condsInOrder_at (c : Cond) : condsInOrder[condNumber c]? = some c := by
  cases c <;> rfl

theorem condNumber_injective : Function.Injective condNumber := fun c d same =>
  Option.some.inj ((condsInOrder_at c).symm.trans (same ▸ condsInOrder_at d))

theorem condNumber_lt (c : Cond) : condNumber c < 16 := by
  cases c <;> decide

@[simp] theorem condHas_zero (d : Cond) : condHas 0 d = false := BitVec.getLsbD_zero

@[simp] theorem condHas_or (a b : Half) (d : Cond) : condHas (a ||| b) d = (condHas a d || condHas b d) :=
  BitVec.getLsbD_or

@[simp] theorem condHas_condBit (c d : Cond) : condHas (condBit c) d = decide (d = c) := by
  rw [condHas, condBit, BitVec.getLsbD_twoPow, decide_eq_true (condNumber_lt c), Bool.true_and]
  exact decide_eq_decide.2 (condNumber_injective.eq_iff.trans eq_comm)

@[simp] theorem condHas_condIf (test : Bool) (c d : Cond) : condHas (condIf test c) d = (test && decide (d = c)) := by
  cases test
  · exact condHas_zero d
  · exact condHas_condBit c d

theorem cellOver_iff (minValid : Nat) (columns : List Measured) : cellOver minValid columns = true
    ↔ makeCell minValid columns ≠ .blanked ∧ makeCell minValid columns ≠ .sparse
      ∧ ∃ thickness, Measured.valid thickness true ∈ columns := by
  have marked : columns.any Measured.isOver = true ↔ ∃ thickness, Measured.valid thickness true ∈ columns := by
    rw [List.any_eq_true]
    constructor
    · rintro ⟨m, mem, isOver⟩
      cases m with
      | valid t ov => cases (show ov = true from isOver); exact ⟨t, mem⟩
      | blanked | invalid => cases isOver
    · rintro ⟨t, mem⟩
      exact ⟨_, mem, rfl⟩
  unfold cellOver
  split <;> simp_all

/-- The marks that the cells alone give, whatever the result. -/
def cellMarks (w : WorkSet) : Half :=
  condIf ((cellList w).any fun c => c == .sparse) .sparse ||| condIf ((cellList w).any fun c => c == .saturated) .sat
    ||| condIf ((measuredCells w).any (cellOver w.minValid)) .overMark

theorem condHas_cellMarks (w : WorkSet) (mark : Cond) : condHas (cellMarks w) mark = true
    ↔ (mark = .sparse ∧ Cell.sparse ∈ cellList w) ∨ (mark = .sat ∧ Cell.saturated ∈ cellList w)
      ∨ (mark = .overMark ∧ ∃ columns ∈ measuredCells w, makeCell w.minValid columns ≠ .blanked
          ∧ makeCell w.minValid columns ≠ .sparse ∧ ∃ thickness, Measured.valid thickness true ∈ columns) := by
  simp only [cellMarks, condHas_or, condHas_condIf, Bool.or_eq_true, Bool.and_eq_true, decide_eq_true_iff, List.any_beq',
    List.contains_iff_mem, List.any_eq_true, cellOver_iff, or_assoc, and_comm]

theorem measurementMarks_none {w : WorkSet} (absent : captureResult w (cellList w) = none) :
    measurementMarks w = cellMarks w ||| condBit .nocell := by
  unfold measurementMarks
  dsimp only
  rw [absent]
  rfl

theorem measurementMarks_some {w : WorkSet} {r : WearResult} (present : captureResult w (cellList w) = some r) :
    measurementMarks w
      = cellMarks w ||| condIf (r.minimum < w.wearLimit) .wear ||| condIf (1 ≤ r.steps) .step := by
  unfold measurementMarks
  dsimp only
  rw [present]
  rfl

end Sys2Proof.Machine

namespace Sys2Proof.Settled

open Sys2Proof.Machine

/-- Settles O36: the lowest of the cells that count, the mean between its bounds, the steps counted, and each mark. -/
theorem resultOfCells : Obligations.ResultOfCells := by
  refine ⟨fun w cells => ⟨captureResult_eq_none, fun r present => ?_⟩, fun w mark => ?_⟩
  · obtain ⟨index, lower⟩ := captureResult_lowest present
    obtain ⟨above, v, mem, below⟩ := captureResult_mean_between present
    have wear := captureResult_wear present
    have steps := captureResult_steps present
    refine ⟨index, lower, ⟨_, rfl, captureResult_mean present⟩, ⟨above, v, mem, below⟩,
      fun small => below.trans (small v mem), fun thick => ?_, fun _ => wear, ?_, ?_⟩
    · rw [wear, Nat.sub_eq_zero_of_le thick]
    · rw [steps, ← stepPairs_eq_zero]
      omega
    · rw [steps, stepPairs_eq_countP]
      rfl
  · cases result : captureResult w (cellList w) with
    | none =>
      rw [measurementMarks_none result, condHas_or, Bool.or_eq_true, condHas_cellMarks, condHas_condBit]
      have absent := captureResult_eq_none.1 result
      simp only [decide_eq_true_iff, or_assoc, absent, not_false_eq_true, implies_true, and_true, reduceCtorEq, false_and,
        exists_false, and_false, or_false]
    | some r =>
      rw [measurementMarks_some result, condHas_or, condHas_or, Bool.or_eq_true, Bool.or_eq_true, condHas_cellMarks,
        condHas_condIf, condHas_condIf]
      have present : ¬ ∀ v, Cell.present v ∉ cellList w := fun none => by
        cases (captureResult_eq_none.2 none).symm.trans result
      simp only [Bool.and_eq_true, decide_eq_true_iff, or_assoc, present, false_and, false_or, Option.some_inj,
        exists_eq_left', and_comm]

end Sys2Proof.Settled
end

section
/-! SUPPORT. The condition close (R148 to R157, R168): the result record, the settled descriptor, the Uplink Port's part and the
sender's take behind it. -/

namespace Sys2Proof.Machine

/-! ### The sender's take (R171) -/

/-- The sender's take changes nothing, or sends one capture of the table. -/
theorem senderTake_cases (s : State) : senderTake s = s ∨ ∃ (k : Fin 32) (x : Capture), s.slots[k] = some x
    ∧ senderTake s = { s with
      slots := upd s.slots k fun _ => some { x with state := .sending }
      sender := { capture := some x.id, next := .header, inTransmission := false, rowsSent := 0 } } := by
  by_cases takes : s.sender.capture = none ∧ s.uplink.drain = true
  · obtain ⟨free, on⟩ := takes
    by_cases queue : s.delivery = []
    · exact .inl (senderTake_stays (.inr (.inr queue)))
    obtain ⟨id, rest, queue⟩ := List.exists_cons_of_ne_nil queue
    rcases Option.eq_none_or_eq_some (s.slotOf id) with missing | ⟨k, found⟩
    · left
      unfold senderTake
      rw [if_pos ⟨Option.isNone_iff_eq_none.2 free, on⟩, queue]
      dsimp only
      rw [missing]
    · obtain ⟨x, held, rfl⟩ := slotOf_some found
      exact .inr ⟨k, x, held, senderTake_head free on queue found held⟩
  · rw [not_and_or, Bool.not_eq_true] at takes
    exact .inl (senderTake_stays (takes.imp_right .inl))

theorem senderTake_frame (s : State) :
    senderTake s = { s with slots := (senderTake s).slots, sender := (senderTake s).sender } := by
  rcases senderTake_cases s with stays | ⟨k, x, -, sends⟩
  · rw [stays]
  · rw [sends]

/-- A descriptor keeps all but its state at the sender's take. -/
theorem senderTake_slot {s : State} {j : Fin 32} {x : Capture} (held : s.slots[j] = some x) :
    ∃ state, (senderTake s).slots[j] = some { x with state := state } := by
  rcases senderTake_cases s with stays | ⟨k, y, held', sends⟩
  · exact ⟨x.state, by rw [stays, held]⟩
  · rw [sends]
    by_cases here : k = j
    · subst here
      obtain rfl := Option.some.inj (held.symm.trans held')
      exact ⟨.sending, upd_get_same ..⟩
    · exact ⟨x.state, (upd_get_other _ _ here).trans held⟩

/-! ### The settled set, result and cell list (R148 to R150) -/

section
variable {α : Type} {s : State} {c : Capture}

theorem noRows_iff : noRows c = true ↔ c.received = 0 ∧ c.stored = 0 := by
  rw [noRows, Bool.and_eq_true, beq_iff_eq, beq_iff_eq]

theorem ite_noRows (c : Capture) (a b : α) :
    (if noRows c then a else b) = if c.received = 0 ∧ c.stored = 0 then a else b :=
  if_congr noRows_iff rfl rfl

theorem finalConditions_eq (c : Capture) (r : Option ResultRecord) : finalConditions c r = c.conditions
    ||| (if c.received = 0 ∧ c.stored = 0 then condBit .norows else (r.map ResultRecord.marks).getD 0) := by
  rw [← ite_noRows, finalConditions, BitVec.or_assoc]
  congr 1
  cases rowless : noRows c <;> cases r <;> simp [closeMarks, rowless, condIf]

theorem keptResult_eq (c : Capture) (r : Option ResultRecord) :
    keptResult c r = if c.received = 0 ∧ c.stored = 0 then none else r.bind ResultRecord.result := ite_noRows ..

theorem keptCells_eq (c : Capture) (r : Option ResultRecord) :
    keptCells c r = if c.received = 0 ∧ c.stored = 0 then none else r.bind ResultRecord.cells := ite_noRows ..

/-- The result record by the role and the working set (R139 to R141). -/
theorem resultRecord_cases (s : State) (c : Capture) :
    (c.role = .image ∧ resultRecord s c = none)
    ∨ (c.role = .profile ∧ (c.workSet.bind fun w => s.workSets[w]) = none ∧ resultRecord s c = some unprofiledResult)
    ∨ ∃ w, c.role = .profile ∧ (c.workSet.bind fun w => s.workSets[w]) = some w
        ∧ resultRecord s c = some (reduce w) := by
  unfold resultRecord
  cases c.role with
  | image => exact .inl ⟨rfl, rfl⟩
  | profile =>
    cases c.workSet.bind fun w => s.workSets[w] with
    | none => exact .inr (.inl ⟨rfl, rfl, rfl⟩)
    | some w => exact .inr (.inr ⟨w, rfl, rfl, rfl⟩)

end

/-! ### The Uplink Port at a condition close (R152 to R157) -/

section
variable {now : Stamp} {c : Capture} {u : Uplink}

theorem takeClose_cumulative (now : Stamp) (c : Capture) (u : Uplink) :
    (u.takeClose now c).cumulative = u.cumulative ||| c.conditions := by rw [takeClose_keeps]

theorem takeClose_quiet (quiet : c.conditions &&& c.head.alertMask = 0) :
    u.takeClose now c = { u with cumulative := u.cumulative ||| c.conditions } := if_pos quiet

theorem takeClose_full (alerted : c.conditions &&& c.head.alertMask ≠ 0) (full : 8 ≤ u.alerts.length) :
    u.takeClose now c = { u with cumulative := u.cumulative ||| c.conditions, alertsLost := bump u.alertsLost } :=
  (if_neg alerted).trans (if_neg full.not_gt)

theorem takeClose_room (alerted : c.conditions &&& c.head.alertMask ≠ 0) (room : u.alerts.length < 8) :
    u.takeClose now c
      = { u with cumulative := u.cumulative ||| c.conditions, alerts := u.alerts ++ [alertOf now c] } :=
  (if_neg alerted).trans (if_pos room)

end

/-! ### The close (R148, R168) -/

/-- The descriptor a capture has after its condition close (R148). -/
def settledCapture (s : State) (c : Capture) : Capture := c.closed s.time (resultRecord s c)

/-- The set, the result and the cell list of a settled descriptor, by the rows, the role and the working set. -/
theorem settledCapture_values (s : State) (c : Capture) :
    (settledCapture s c).conditions = (c.conditions
      ||| (if c.received = 0 ∧ c.stored = 0 then condBit .norows
           else match c.role, c.workSet.bind fun w => s.workSets[w] with
             | .image, _ => 0#16
             | .profile, none => condBit .nocell
             | .profile, some w => measurementMarks w))
    ∧ ((settledCapture s c).result = match c.role, c.workSet.bind fun w => s.workSets[w] with
        | .profile, some w => if c.received = 0 ∧ c.stored = 0 then none else captureResult w (cellList w)
        | _, _ => none)
    ∧ ((settledCapture s c).cells = match c.role, c.workSet.bind fun w => s.workSets[w] with
        | .profile, some w => if c.received = 0 ∧ c.stored = 0 then none else some (cellList w)
        | _, _ => none) := by
  have conditions : (settledCapture s c).conditions = _ := finalConditions_eq c (resultRecord s c)
  have result : (settledCapture s c).result = _ := keptResult_eq c (resultRecord s c)
  have cells : (settledCapture s c).cells = _ := keptCells_eq c (resultRecord s c)
  rcases resultRecord_cases s c with ⟨role, record⟩ | ⟨role, works, record⟩ | ⟨w, role, works, record⟩
  all_goals rw [record] at conditions result cells
  · simp only [role]
    exact ⟨conditions, result.trans (ite_self _), cells.trans (ite_self _)⟩
  · simp only [role, works]
    exact ⟨conditions, result.trans (ite_self _), cells.trans (ite_self _)⟩
  · simp only [role, works]
    exact ⟨conditions, result, cells⟩

/-- The part after a capture's condition close, before the sender takes the head of the delivery queue. -/
def settledState (k : Fin 32) (c : Capture) (s : State) : State :=
  { s with
    slots := upd s.slots k fun _ => some (settledCapture s c)
    uplink := s.uplink.takeClose s.time (settledCapture s c)
    unprofiled := s.unprofiled.filter fun id => decide (id ≠ c.id)
    delivery := s.delivery ++ [c.id] }

section
variable {s : State} {k : Fin 32} {c : Capture}

theorem conditionClose_held (held : s.slots[k] = some c) : conditionClose k s = senderTake (settledState k c s) := by
  unfold conditionClose
  rw [held]
  have filtered : s.unprofiled.filter (· != c.id) = s.unprofiled.filter fun id => decide (id ≠ c.id) :=
    List.filter_congr fun id _ => by rw [Bool.eq_iff_iff, bne_iff_ne, decide_eq_true_iff]
  dsimp only
  rw [filtered]
  rfl

theorem settledState_slot : (settledState k c s).slots[k] = some (settledCapture s c) := upd_get_same ..

theorem settledState_other {j : Fin 32} (other : j ≠ k) : (settledState k c s).slots[j] = s.slots[j] :=
  upd_get_other _ _ other.symm

theorem settledState_uplink (k : Fin 32) (c : Capture) (s : State) :
    (settledState k c s).uplink = { s.uplink with
      cumulative := (settledState k c s).uplink.cumulative
      alerts := (settledState k c s).uplink.alerts
      alertsLost := (settledState k c s).uplink.alertsLost } :=
  (takeClose_keeps ..).trans (by rw [← takeClose_cumulative]; rfl)

theorem conditionClose_frame (held : s.slots[k] = some c) : conditionClose k s = { s with
    slots := (conditionClose k s).slots
    uplink := { s.uplink with
      cumulative := (conditionClose k s).uplink.cumulative
      alerts := (conditionClose k s).uplink.alerts
      alertsLost := (conditionClose k s).uplink.alertsLost }
    unprofiled := s.unprofiled.filter fun id => decide (id ≠ c.id)
    delivery := (conditionClose k s).delivery
    sender := (conditionClose k s).sender } := by
  have frame := senderTake_frame (settledState k c s)
  have delivery : (senderTake (settledState k c s)).delivery = s.delivery ++ [c.id] := congrArg State.delivery frame
  rw [conditionClose_held held, senderTake_uplink, ← settledState_uplink, delivery]
  exact frame

theorem settledState_stays (stays : s.sender.capture ≠ none ∨ s.uplink.drain = false) :
    senderTake (settledState k c s) = settledState k c s :=
  senderTake_stays (stays.imp_right fun off => .inl (by rw [settledState_uplink]; exact off))

/-- A capture alone in the delivery queue goes to SENDING at its condition close. -/
theorem settledState_sends (distinct : IdsDistinct s) (held : s.slots[k] = some c) (free : s.sender.capture = none)
    (on : s.uplink.drain = true) (empty : s.delivery = []) :
    senderTake (settledState k c s) = { settledState k c s with
      slots := upd (settledState k c s).slots k fun _ => some { settledCapture s c with state := .sending }
      sender := { capture := some c.id, next := .header, inTransmission := false, rowsSent := 0 } } := by
  have ids : IdsDistinct (settledState k c s) := by
    have slots : (settledState k c s).slots = upd s.slots k (Option.map fun _ => settledCapture s c) :=
      show upd _ _ (fun _ => some (settledCapture s c)) = _ from upd_congr (by rw [held]; rfl)
    have kept : SlotsBy (fun x y => y.id = x.id) s (settledState k c s) :=
      .of_upd slots (fun _ => rfl) fun x holds => by rw [holds_unique holds held]; rfl
    exact distinct.by kept fun _ _ same => same
  refine senderTake_head (queue := []) free (by rw [settledState_uplink]; exact on) ?_
    (slotOf_eq ids settledState_slot rfl) settledState_slot
  show s.delivery ++ [c.id] = _
  rw [empty]
  rfl

end

end Sys2Proof.Machine

namespace Sys2Proof.Settled

open Sys2Proof.Machine

/-- Settles O38: the settled state, and behind it the sender's take, by whether the capture is alone in the queue. -/
theorem conditionClose : Obligations.ConditionClose := by
  rintro s _ k c set distinct held rfl joined
  obtain ⟨conditions, result, cells⟩ := settledCapture_values s c
  obtain rfl : (settledCapture s c).conditions = set := conditions.trans joined.symm
  have close := conditionClose_held held
  have frame := conditionClose_frame held
  obtain ⟨state, slot⟩ := senderTake_slot (settledState_slot (s := s) (k := k) (c := c))
  have uplink : (Machine.conditionClose k s).uplink = s.uplink.takeClose s.time (settledCapture s c) := by
    rw [close, senderTake_uplink]
    rfl
  have stays (idle : s.sender.capture ≠ none ∨ s.uplink.drain = false) :
      Machine.conditionClose k s = settledState k c s := close.trans (settledState_stays idle)
  have sends (free : s.sender.capture = none) (on : s.uplink.drain = true) (empty : s.delivery = []) :=
    close.trans (settledState_sends distinct held free on empty)
  rw [← close] at slot
  refine ⟨{ settledCapture s c with state := state }, slot, fun j other alone => ?_, rfl, frame, rfl, rfl, result, cells,
    ?_, fun idle => ?_, fun free on empty => ?_, ?_, fun quiet => ?_, fun alerted full => ?_, fun alerted room => ?_, ?frame⟩
  case frame =>
    rw [frame]
    exact ⟨rfl, rfl, rfl, rfl, rfl, rfl, rfl, rfl⟩
  · by_cases takes : s.sender.capture = none ∧ s.uplink.drain = true
    · obtain ⟨free, on⟩ := takes
      have empty : s.delivery = [] := by simpa [free, on] using alone
      rw [sends free on empty]
      exact (upd_get_other _ _ other.symm).trans (settledState_other other)
    · rw [not_and_or, Bool.not_eq_true] at takes
      rw [stays takes, settledState_other other]
  · rw [close, senderTake_frame]
    rfl
  · rw [stays idle] at slot ⊢
    exact ⟨congrArg Capture.state (Option.some.inj (slot.symm.trans settledState_slot)), rfl⟩
  · rw [sends free on empty] at slot ⊢
    exact ⟨congrArg Capture.state (Option.some.inj (slot.symm.trans (upd_get_same ..))), rfl⟩
  · rw [uplink, takeClose_cumulative]
  · rw [uplink, takeClose_quiet quiet]
    exact ⟨rfl, rfl⟩
  · rw [uplink, takeClose_full alerted full]
    exact ⟨rfl, rfl⟩
  · rw [uplink, takeClose_room alerted room]
    exact ⟨rfl, rfl⟩

end Sys2Proof.Settled
end

section
/-! SUPPORT. RECORD_END (R174, R175, R193): the moment a record ends, and what the sender does at the end of each capture
record. -/

namespace Sys2Proof.Machine

variable {s : State} {k : Fin 32} {c : Capture}

/-! ### The moment (R193) -/

theorem recordEndNow_early {x : Transmission} (sends : s.uplink.transmitter = some x)
    (early : x.elapsed < 8 * (x.frame.length + 20)) : recordEndNow s = s := by
  unfold recordEndNow
  rw [sends]
  exact if_neg early.not_ge

theorem recordEndNow_ended {x : Transmission} (sends : s.uplink.transmitter = some x)
    (ended : 8 * (x.frame.length + 20) ≤ x.elapsed) :
    recordEndNow s = recordEnds x.kind { s with uplink := { s.uplink with transmitter := none } } := by
  unfold recordEndNow
  rw [sends]
  exact if_pos ended

/-- A record that is neither a capture record nor the RESET reply brings nothing but a free transmitter. -/
theorem recordEnds_other {kind : TxKind} (other : kind = .alert ∨ kind = .summary ∨ kind = .note
    ∨ ∃ code, kind = .reply code ∧ code ≠ 0x0E#8) (s : State) : recordEnds kind s = s := by
  rcases other with rfl | rfl | rfl | ⟨code, rfl, ne⟩
  · rfl
  · rfl
  · rfl
  · exact if_neg ne

/-! ### The ends of capture records (R174, R175) -/

theorem sendingCapture_held {id : CaptureId} (sending : s.sender.capture = some id) (found : s.slotOf id = some k)
    (held : s.slots[k] = some c) : sendingCapture s = some (k, c) := by
  unfold sendingCapture
  rw [sending]
  dsimp only
  rw [found]
  dsimp only
  rw [held]
  rfl

theorem releaseHead_cons {g : Nat} {rest : List Nat} (held : s.slots[k] = some c) (chain : c.chain = g :: rest) :
    releaseHead k s = { s with
      freeList := s.freeList ++ [g]
      slots := upd s.slots k fun _ => some { c with chain := rest } } := by
  unfold releaseHead
  rw [held]
  dsimp only
  rw [chain]
  dsimp only
  rw [modSlot_held held]

theorem endsSegment_iff (stored sent : Nat) : endsSegment stored sent = true ↔ sent % 64 = 0 ∨ sent = stored := by
  rw [endsSegment, Bool.or_eq_true, beq_iff_eq, beq_iff_eq, rowsPerSegment]

/-- The part after a ROW-BLOCK of these rows has been sent, before a segment goes back (R174). -/
def blockSent (stored rows b : Nat) (s : State) : State :=
  { s with
    sender := { s.sender with
      inTransmission := false
      rowsSent := s.sender.rowsSent + rows
      next := if s.sender.rowsSent + rows < stored then .block (b + 1) else .captureEnd } }

section
variable (sending : sendingCapture s = some (k, c))
include sending

theorem senderEnd_header : senderEnd .header s = { s with
    sender := { s.sender with inTransmission := false, next := if c.stored = 0 then .captureEnd else .block 0 } } := by
  unfold senderEnd
  rw [sending]
  rfl

/-- The end of a ROW-BLOCK: its rows are sent, and a segment whose last row it carried goes back. -/
theorem senderEnd_block {b : Nat} (offered : s.sender.next = .block b) (rows : Nat) : senderEnd (.block rows) s
    = if endsSegment c.stored (s.sender.rowsSent + rows) then releaseHead k (blockSent c.stored rows b s)
      else blockSent c.stored rows b s := by
  unfold senderEnd
  rw [sending]
  unfold blockSent blockEnd
  rw [offered]
  rfl

theorem senderEnd_captureEnd : senderEnd .captureEnd s = senderTake (freeSlotOf k s) := by
  unfold senderEnd
  rw [sending]

end

theorem freeSlotOf_eq (k : Fin 32) (s : State) : freeSlotOf k s = { s with
    slots := upd s.slots k fun _ => none
    condRecords := upd s.condRecords k fun _ => none
    workSets := (freeSlotOf k s).workSets
    delivery := s.delivery.tail
    sender := { s.sender with capture := none, inTransmission := false } } := rfl

end Sys2Proof.Machine

namespace Sys2Proof.Settled

open Sys2Proof.Machine

/-- Settles O42: the moment of the end, and behind a free transmitter the end of each kind of record. -/
theorem recordEnds : Obligations.RecordEnds := by
  rintro s now free after x moment awake sends freed
  have runs : exec (.recordEnd after) s = .next (recordEndNow now) := timed_at moment awake recordEndNow
  rw [runs]
  refine ⟨fun early => by rw [recordEndNow_early sends early], fun ended => ?_⟩
  rw [recordEndNow_ended sends ended, ← freed]
  refine ⟨fun other => by rw [recordEnds_other other], fun id k c sending found held => ?_⟩
  have capture : sendingCapture free = some (k, c) := by
    rw [freed]
    exact sendingCapture_held (s := now) sending found held
  have sender : free.sender = now.sender := by rw [freed]
  have slots : free.slots = now.slots := by rw [freed]
  refine ⟨fun header => ?_, fun rows b t block offered sent => ?_, fun captureEnd => ?_⟩
  · rw [header, ← sender]
    exact congrArg _ (senderEnd_header capture)
  · have segment := endsSegment_iff c.stored (now.sender.rowsSent + rows)
    have blockEnd : Machine.recordEnds (.block rows) free
        = if endsSegment c.stored (now.sender.rowsSent + rows) then releaseHead k t else t := by
      rw [sent, ← sender]
      exact senderEnd_block capture (sender ▸ offered) rows
    rw [block, blockEnd]
    refine ⟨fun within => ?_, fun g rest last chain => ?_⟩
    · rw [if_neg (segment.not.2 within)]
    · have held' : t.slots[k] = some c := by
        rw [sent]
        exact slots ▸ held
      rw [if_pos (segment.2 last), releaseHead_cons held' chain]
  · rw [captureEnd]
    have given (w : Fin 8) := freeSlotOf_workSets (s := free) (k := k) w
    rw [slots, held, Option.bind_some] at given
    refine ⟨freeSlotOf k free, congrArg _ (senderEnd_captureEnd capture), freeSlotOf_eq k free, fun w own => ?_,
      fun w other => ?_⟩
    · rw [given, if_pos own]
    · rw [given, if_neg other, freed]

end Sys2Proof.Settled
end

section
/-! SUPPORT. RECORD_GRANT (R172, R173, R193 to R195): which classes wait, which of them a grant can take, the record granted
of each class, records that arrive together, and the rows of a block. -/

namespace Sys2Proof.Machine

variable {s : State}

/-! ### The classes that wait (R173, R193) -/

theorem mem_txClasses (c : TxClass) : c ∈ txClasses := by cases c <;> decide

theorem txClasses_nodup : txClasses.Nodup := by decide

theorem TxClass.number_injective : Function.Injective TxClass.number :=
  Function.LeftInverse.injective (g := fun n => txClasses.getD (n - 1) .reply) fun c => by cases c <;> rfl

/-- What is tested of the waiting classes in the list holds of every class that waits. -/
theorem all_waiting_iff (s : State) (P : TxClass → Prop) [DecidablePred P] :
    (txClasses.all fun d => !waits s d || decide (P d)) = true ↔ ∀ d, waits s d = true → P d := by
  rw [List.all_eq_true]
  refine forall_congr' fun d => ?_
  rw [forall_prop_of_true (mem_txClasses d), Bool.or_eq_true, Bool.not_eq_true', decide_eq_true_iff,
    ← Bool.not_eq_true, ← imp_iff_not_or]

theorem queue_waits_iff {α : Type} (queue : List α) : (!queue.isEmpty) = true ↔ queue ≠ [] := by
  rw [Bool.not_eq_true', List.isEmpty_eq_false_iff]

theorem sendingCapture_iff (s : State) (k : Fin 32) (c : Capture) : sendingCapture s = some (k, c)
    ↔ ∃ id, s.sender.capture = some id ∧ s.slotOf id = some k ∧ s.slots[k] = some c := by
  refine ⟨fun sending => ?_, fun ⟨id, capture, found, held⟩ => sendingCapture_held capture found held⟩
  unfold sendingCapture at sending
  split at sending
  · cases sending
  · next id capture =>
    split at sending
    · cases sending
    · next j found =>
      obtain ⟨d, held, same⟩ := Option.map_eq_some_iff.1 sending
      obtain ⟨rfl, rfl⟩ := Prod.mk.inj same
      exact ⟨id, capture, found, held⟩

/-- The sender offers its next record: DRAIN is ON, no capture record is in transmission, and it has a capture (R173). -/
theorem waits_capture_iff (s : State) : waits s .capture = true
    ↔ s.uplink.drain = true ∧ s.sender.inTransmission = false
      ∧ ∃ (id : CaptureId) (k : Fin 32) (c : Capture), s.sender.capture = some id ∧ s.slotOf id = some k
        ∧ s.slots[k] = some c := by
  have sends : (sendingCapture s).isSome = true ↔ ∃ (id : CaptureId) (k : Fin 32) (c : Capture),
      s.sender.capture = some id ∧ s.slotOf id = some k ∧ s.slots[k] = some c := by
    simp only [Option.isSome_iff_exists, Prod.exists, sendingCapture_iff]
    exact ⟨fun ⟨k, c, id, h⟩ => ⟨id, k, c, h⟩, fun ⟨id, k, c, h⟩ => ⟨k, c, id, h⟩⟩
  rw [waits, Bool.and_eq_true, Bool.and_eq_true, Bool.not_eq_true', sends, and_assoc]

/-! ### What a grant can take (R193, R194) -/

theorem mem_grantable {c : TxClass} : c ∈ grantable s
    ↔ waits s c = true ∧ ((∀ d, waits s d = true → c.number ≤ d.number) ∨ c ∈ s.uplink.mayLead) := by
  simp only [grantable, List.mem_filter, mem_txClasses, true_and, Bool.and_eq_true, Bool.or_eq_true, all_waiting_iff,
    List.contains_iff_mem]

theorem grantable_empty (quiet : ∀ c, waits s c = false) : grantable s = [] :=
  List.eq_nil_iff_forall_not_mem.2 fun c mem => Bool.false_ne_true ((quiet c).symm.trans (mem_grantable.1 mem).1)

section
variable {high : TxClass} (waiting : waits s high = true)
  (highest : ∀ c, waits s c = true → high.number ≤ c.number)
include waiting highest

theorem mem_grantable_iff (c : TxClass) :
    c ∈ grantable s ↔ waits s c = true ∧ (c = high ∨ c ∈ s.uplink.mayLead) := by
  rw [mem_grantable]
  refine and_congr_right fun waitsToo => or_congr_left ⟨fun first => ?_, fun same => same ▸ highest⟩
  exact TxClass.number_injective (Nat.le_antisymm (first high waiting) (highest c waitsToo))

/-- Where no other class may lead, a grant can take the highest class alone. -/
theorem grantable_highest (alone : ∀ c ∈ s.uplink.mayLead, waits s c = true → c = high) : grantable s = [high] := by
  have once : (grantable s).Nodup := txClasses_nodup.filter _
  refine List.perm_singleton.1 ((List.perm_ext_iff_of_nodup once (List.nodup_singleton high)).2 fun c => ?_)
  rw [mem_grantable_iff waiting highest, List.mem_singleton]
  exact ⟨fun ⟨waitsToo, leads⟩ => leads.elim id fun may => alone c may waitsToo,
    fun same => ⟨same ▸ waiting, .inl same⟩⟩

end

/-! ### The grant (R193 to R195) -/

theorem grantNext_empty (empty : grantable s = []) : grantNext s = s := by
  unfold grantNext
  rw [empty]
  rfl

/-- A grant takes one of the classes it can take, after the count of free choices has gone on. -/
theorem grantNext_takes {c : TxClass} (takes : c ∈ grantable s) :
    ∃ d ∈ grantable s, grantNext s = grantClass d (s.chosen (grantable s).length) := by
  have same (d : TxClass) : d ∈ freeOrder TxClass.number (fun _ _ => false) (grantable s) s ↔ d ∈ grantable s :=
    mem_orderBy ..
  unfold grantNext
  cases order : freeOrder TxClass.number (fun _ _ => false) (grantable s) s with
  | nil => exact absurd ((same c).2 takes) (by rw [order]; exact List.not_mem_nil)
  | cons d rest => exact ⟨d, (same d).1 (by rw [order]; exact List.mem_cons_self), rfl⟩

theorem grantNext_sole {c : TxClass} (sole : grantable s = [c]) : grantNext s = grantClass c s := by
  obtain ⟨d, mem, takes⟩ := grantNext_takes (s := s) (c := c) (by rw [sole]; exact List.mem_singleton_self c)
  rw [sole] at mem takes
  rw [takes, List.mem_singleton.1 mem]
  rfl

theorem grant_free (up : s.uplink.up = true) (free : s.uplink.transmitter = none) : grant s = grantNext s :=
  if_pos ⟨up, free⟩

/-- No record is granted with the link DOWN, on a busy transmitter, or where none waits (R193). -/
theorem grant_nothing
    (nothing : s.uplink.up = false ∨ s.uplink.transmitter ≠ none ∨ ∀ c, waits s c = false) : grant s = s := by
  unfold grant
  split
  · next ready =>
    obtain ⟨up, free⟩ := ready
    rcases nothing with down | busy | quiet
    · exact absurd (down.symm.trans up) Bool.false_ne_true
    · exact absurd free busy
    · exact grantNext_empty (grantable_empty quiet)
  · rfl

/-! ### The record granted (R172, R195) -/

section
variable (s)

theorem grantClass_reply {r : Reply} {rest : List Reply} (queue : s.uplink.replies = r :: rest) : grantClass .reply s
    = { s with uplink := ({ s.uplink with replies := rest }).start (.reply r.code) 0x81 (replyBody r) } := by
  unfold grantClass
  rw [queue]
  rfl

theorem grantClass_alert {a : Alert} {rest : List Alert} (queue : s.uplink.alerts = a :: rest) : grantClass .alert s
    = { s with uplink := ({ s.uplink with alerts := rest }).start .alert 0x82 (alertBody a) } := by
  unfold grantClass
  rw [queue]
  rfl

theorem grantClass_summary {x : Summary} {rest : List Summary} (queue : s.uplink.summaries = x :: rest) :
    grantClass .summary s
      = { s with uplink := ({ s.uplink with summaries := rest }).start .summary 0x83 (summaryBody x) } := by
  unfold grantClass
  rw [queue]
  rfl

theorem grantClass_note {n : Note} {rest : List Note} (queue : s.uplink.notes = n :: rest) : grantClass .note s
    = { s with uplink := ({ s.uplink with notes := rest }).start .note 0x84 (noteBody n) } := by
  unfold grantClass
  rw [queue]
  rfl

end

/-- The sender's offer is granted: its record starts, and a capture record is in transmission (R173). -/
theorem grantClass_capture {k : Fin 32} {c : Capture} (sending : sendingCapture s = some (k, c))
    (drain : s.uplink.drain = true) (idle : s.sender.inTransmission = false) {kind : TxKind} {code : Nat}
    {body : List Byte} (offers : captureRecord s k c = (kind, code, body)) :
    grantClass .capture s = { s with
      sender := { s.sender with inTransmission := true }
      uplink := s.uplink.start kind code body } := by
  unfold grantClass grantCapture
  rw [sending]
  dsimp only
  rw [if_pos ⟨drain, idle⟩, offers]

section
variable {k : Fin 32} {c : Capture}

theorem captureRecord_header (offered : s.sender.next = .header) :
    captureRecord s k c = (.header, 0x90, headerBody k c) := by
  rw [captureRecord, offered]

theorem captureRecord_block {b : Nat} (offered : s.sender.next = .block b) : captureRecord s k c
    = (.block (min 4 (c.stored - 4 * b)), 0x91, blockBody c b (blockContents s c b)) := by
  rw [captureRecord, offered]
  rfl

theorem captureRecord_captureEnd (offered : s.sender.next = .captureEnd) :
    captureRecord s k c = (.captureEnd, 0x92, endBody c s.sender.rowsSent) := by
  rw [captureRecord, offered]

end

/-! ### Records that arrive together (R148, R168, R194) -/

section
variable (before after : State)

theorem arrivals_nodup : (arrivals before after).Nodup := txClasses_nodup.filter _

theorem ownAlertWaits_eq_false_iff (s : State) :
    ownAlertWaits s = false ↔ ∀ a ∈ s.uplink.alerts, s.sender.capture ≠ some a.capture := by
  simp only [ownAlertWaits, List.any_eq_false, beq_iff_eq, ne_eq]

theorem mem_arrivals (c : TxClass) : c ∈ arrivals before after ↔ waits after c = true
    ∧ (∀ d, waits before d = true → c.number < d.number)
    ∧ (c = .capture → ∀ a ∈ after.uplink.alerts, after.sender.capture ≠ some a.capture) := by
  have behind : (!(c == .capture && ownAlertWaits after)) = true
      ↔ (c = .capture → ∀ a ∈ after.uplink.alerts, after.sender.capture ≠ some a.capture) := by
    rw [← ownAlertWaits_eq_false_iff, Bool.not_eq_true', Bool.and_eq_false_imp, beq_iff_eq]
  simp only [arrivals, List.mem_filter, mem_txClasses, true_and, Bool.and_eq_true, all_waiting_iff, behind, and_assoc]

variable {before after}

theorem together_several (several : 2 ≤ (arrivals before after).length) : together before after
    = { after with uplink := { after.uplink with mayLead := arrivals before after } } := if_pos several

theorem together_few (few : (arrivals before after).length ≤ 1) : together before after = after :=
  if_neg (Nat.not_le.2 (Nat.lt_succ_of_le few))

end

/-- Time that passes ends the moment at which records arrived together. -/
theorem pass_mayLead (ns : Nat) (awake : s.rstnLow = false) :
    (s.pass ns).uplink.mayLead = if ns = 0 then s.uplink.mayLead else [] := by
  rw [pass_uplink ns awake]
  rfl

/-! ### The rows of a block (R172, R174) -/

/-- Reads that give the items of a list in order give the list. -/
theorem filterMap_range_eq {α : Type} (items : List α) (read : Nat → Option α)
    (reads : ∀ i < items.length, read i = items[i]?) : (List.range items.length).filterMap read = items := by
  induction items generalizing read with
  | nil => rfl
  | cons x rest ih =>
    have first : read 0 = some x := reads 0 (Nat.succ_pos _)
    have behind : (List.range rest.length).filterMap (read ∘ Nat.succ) = rest :=
      ih _ fun i inside => reads (i + 1) (Nat.succ_lt_succ inside)
    rw [List.length_cons, List.range_succ_eq_map, List.filterMap_cons_some first, List.filterMap_map, behind]

/-- A block lies in one segment, since 64 is a multiple of 4. -/
theorem blockSegment_eq (b : Nat) {i : Nat} (inside : i < 4) : (4 * b + i) / 64 = 4 * b / 64 := by omega

/-- With the segments of the rows sent gone from the head of the chain, a block's rows stand in the head segment left. -/
theorem blockContents_eq {c : Capture} {b : Nat} {taken : List Nat} {rows : List StoredRow}
    (left : c.chain = taken.drop (4 * b / 64)) (count : rows.length = min 4 (c.stored - 4 * b))
    (stands : ∀ i < rows.length, ∃ g, taken[(4 * b + i) / 64]? = some g
      ∧ s.store.read (64 * g + (4 * b + i) % 64) = rows[i]?) : blockContents s c b = rows := by
  have short : rows.length ≤ 4 := count ▸ Nat.min_le_left ..
  have segment {i : Nat} (inside : i < rows.length) : taken[(4 * b + i) / 64]? = c.chain.head? := by
    rw [blockSegment_eq b (Nat.lt_of_lt_of_le inside short), left, List.head?_drop]
  unfold blockContents
  split
  · next gone =>
    refine (List.eq_nil_iff_length_eq_zero.2 (Nat.eq_zero_of_not_pos fun one => ?_)).symm
    obtain ⟨g, here, -⟩ := stands 0 one
    rw [segment one, gone] at here
    cases here
  · next g rest chain =>
    rw [blockRows, ← count]
    refine filterMap_range_eq rows _ fun i inside => ?_
    obtain ⟨g', here, reads⟩ := stands i inside
    rw [segment inside, chain] at here
    obtain rfl := Option.some.inj here
    exact reads

end Sys2Proof.Machine

namespace Sys2Proof.Settled

open Sys2Proof.Machine

/-- Settles O41: the class taken is the highest unless several may lead; then the record of each class, the arrivals of one
moment, and the rows of a block. -/
theorem recordGranted : Obligations.RecordGranted := by
  refine ⟨fun s awake => ?_, ⟨rfl, fun s => ?_⟩, fun s f starts => ?_, fun before after => ?_,
    fun s c b taken rows => blockContents_eq⟩
  · have runs : exec .recordGrant s = .next (grant s) := atOnce_awake grant awake
    rw [runs]
    refine ⟨fun nothing => by rw [grant_nothing nothing], fun up free high waiting highest => ?_⟩
    rw [grant_free up free]
    refine ⟨fun alone => by rw [grantNext_sole (grantable_highest waiting highest alone)], ?_⟩
    have can := mem_grantable_iff waiting highest
    obtain ⟨c, mem, takes⟩ := grantNext_takes ((can high).2 ⟨waiting, .inl rfl⟩)
    obtain ⟨waitsToo, leads⟩ := (can c).1 mem
    exact ⟨c, _, waitsToo, leads, congrArg _ takes⟩
  · exact ⟨queue_waits_iff _, queue_waits_iff _, queue_waits_iff _, queue_waits_iff _, waits_capture_iff s⟩
  · obtain rfl : f = Uplink.start := by
      funext kind code body u
      exact starts kind code body u
    refine ⟨fun _ _ => grantClass_reply s, fun _ _ => grantClass_alert s, fun _ _ => grantClass_summary s,
      fun _ _ => grantClass_note s, fun id k c capture found held drain idle => ?_⟩
    have granted {kind code body} := grantClass_capture (sendingCapture_held capture found held) drain idle
      (kind := kind) (code := code) (body := body)
    exact ⟨fun offered => granted (captureRecord_header offered), fun _ offered => granted (captureRecord_block offered),
      fun offered => granted (captureRecord_captureEnd offered)⟩
  · exact ⟨arrivals_nodup before after, mem_arrivals before after, together_several, together_few,
      fun ns awake => ⟨pass_mayLead (ns + 1) awake, pass_mayLead 0 awake⟩⟩

end Sys2Proof.Settled
end

section
/-! SUPPORT. The uplink's link (R177, R182): the changes of the link, and the record cut off at the change to DOWN, taken by
the sender as sent. -/

namespace Sys2Proof.Machine

variable {s : State} {k : Fin 32} {c : Capture}

/-! ### The changes of the link (R182) -/

theorem uplinkUp_held {heldNs : Nat} (down : s.uplink.up = false) (held : 10000000 ≤ heldNs) :
    uplinkUp heldNs s = { s with uplink := { s.uplink with up := true } } := by
  have rises : ¬ (s.uplink.up = true ∨ heldNs < uplinkUpNs) := by
    rw [down]
    exact not_or.2 ⟨Bool.false_ne_true, held.not_gt⟩
  exact if_neg rises

theorem uplinkUp_stays {heldNs : Nat} (stays : s.uplink.up = true ∨ heldNs < 10000000) : uplinkUp heldNs s = s :=
  if_pos stays

theorem uplinkDown_stays (inReception : Bool) (down : s.uplink.up = false) : uplinkDown inReception s = s := by
  unfold uplinkDown
  rw [down]
  rfl

/-- The change to DOWN of a part that waits for no RESET reply: the port goes DOWN, and the record is cut off. -/
theorem uplinkDown_cuts (inReception : Bool) (up : s.uplink.up = true) (ready : s.uplink.halted = false) :
    uplinkDown inReception s
      = cutRecord s.uplink.transmitter { s with uplink := s.uplink.goDown inReception } := by
  unfold uplinkDown
  rw [if_pos up, ready]
  rfl

theorem Uplink.goDown_eq (inReception : Bool) (u : Uplink) : u.goDown inReception = { u with
    up := false
    receiveErrors := if inReception then bump u.receiveErrors else u.receiveErrors
    recordsCut := if u.transmitter = none then u.recordsCut else bump u.recordsCut
    transmitter := none } := by
  unfold Uplink.goDown
  cases u.transmitter <;> rfl

/-! ### What the sender takes as sent (R174, R175, R177) -/

section
variable (sending : sendingCapture s = some (k, c)) {b rows : Nat} (offered : s.sender.next = .block b)
include sending offered

/-- A block that leaves rows of its segment to send gives nothing back. -/
theorem senderEnd_block_within (within : ¬ ((s.sender.rowsSent + rows) % 64 = 0 ∨ s.sender.rowsSent + rows = c.stored)) :
    senderEnd (.block rows) s = blockSent c.stored rows b s := by
  rw [senderEnd_block sending offered, if_neg ((endsSegment_iff ..).not.2 within)]

/-- A block with the last row of its segment gives the head of the chain back to the tail of the free list. -/
theorem senderEnd_block_last (held : s.slots[k] = some c) {g : Nat} {rest : List Nat}
    (last : (s.sender.rowsSent + rows) % 64 = 0 ∨ s.sender.rowsSent + rows = c.stored) (chain : c.chain = g :: rest) :
    senderEnd (.block rows) s = { blockSent c.stored rows b s with
      freeList := s.freeList ++ [g]
      slots := upd s.slots k fun _ => some { c with chain := rest } } := by
  rw [senderEnd_block sending offered, if_pos ((endsSegment_iff ..).2 last)]
  exact releaseHead_cons (s := blockSent c.stored rows b s) held chain

end

theorem freeSlotOf_workSet_own (held : s.slots[k] = some c) {w : Fin 8} (own : c.workSet = some w) :
    (freeSlotOf k s).workSets[w] = none := by
  rw [freeSlotOf_workSets, held]
  exact if_pos own

theorem freeSlotOf_workSet_other (held : s.slots[k] = some c) {w : Fin 8} (other : c.workSet ≠ some w) :
    (freeSlotOf k s).workSets[w] = s.workSets[w] := by
  rw [freeSlotOf_workSets, held]
  exact if_neg other

end Sys2Proof.Machine

namespace Sys2Proof.Settled

open Sys2Proof.Machine

/-- Settles O39: the port's own change, and behind it the sender's end of the record cut off, by the record's kind. -/
theorem uplinkLink : Obligations.UplinkLink := by
  intro s now after moment awake
  have rises (heldNs : Nat) : exec (.uplinkLinkUp after heldNs) s = .next (uplinkUp heldNs now) :=
    timed_at moment awake (uplinkUp heldNs)
  have falls (inReception : Bool) : exec (.uplinkLinkDown after inReception) s = .next (uplinkDown inReception now) :=
    timed_at moment awake (uplinkDown inReception)
  refine ⟨fun heldNs down held => by rw [rises, uplinkUp_held down held],
    fun heldNs stays => by rw [rises, uplinkUp_stays stays],
    fun inReception down => by rw [falls, uplinkDown_stays inReception down], fun inReception down up ready gone => ?_⟩
  rw [← Uplink.goDown_eq] at gone
  have cuts : uplinkDown inReception now = cutRecord now.uplink.transmitter down :=
    gone ▸ uplinkDown_cuts inReception up ready
  rw [falls, cuts]
  refine ⟨fun free => by rw [free]; rfl, fun x cut => ?_⟩
  have ends : cutRecord now.uplink.transmitter down = senderEnd x.kind down := by rw [cut]; rfl
  rw [ends]
  refine ⟨fun other => by rw [senderEnd_other other], fun id k c capture found held => ?_⟩
  have sending : sendingCapture down = some (k, c) := by
    rw [gone]
    exact sendingCapture_held (s := now) capture found held
  have held' : down.slots[k] = some c := by
    rw [gone]
    exact held
  have sender : down.sender = now.sender := by rw [gone]
  have workSets : down.workSets = now.workSets := by rw [gone]
  rw [← sender, ← workSets]
  refine ⟨fun header => ?_, fun rows b t block offered sent => ?_, fun captureEnd => ?_⟩
  · rw [header, senderEnd_header sending]
  · rw [block]
    subst sent
    exact ⟨fun within => congrArg _ (senderEnd_block_within sending offered within),
      fun g rest last chain => congrArg _ (senderEnd_block_last sending offered held' last chain)⟩
  · rw [captureEnd]
    exact ⟨freeSlotOf k down, congrArg _ (senderEnd_captureEnd sending), freeSlotOf_eq k down,
      fun w => freeSlotOf_workSet_own held', fun w => freeSlotOf_workSet_other held'⟩

end Sys2Proof.Settled
end

section
/-! SUPPORT. Received frames (R182 to R184, R202): the rows of the sort of R183 by the frame's own bytes, and the command
queue. -/

namespace Sys2Proof.Machine

/-! ### The bytes of a payload -/

/-- The payload of a whole frame: what stands between its addresses and type and its check (R202). -/
def payloadOf (frame : List Byte) : List Byte := (frame.take (frame.length - 4)).drop 14

theorem payloadOf_length (frame : List Byte) : (payloadOf frame).length = frame.length - 18 := by
  rw [payloadOf, List.length_drop, List.length_take_of_le (Nat.sub_le ..)]
  omega

/-- Bytes of the payload are the frame's, 14 places on. -/
theorem payloadOf_slice {frame : List Byte} {i j : Nat} (within : i + j ≤ frame.length - 18) :
    ((payloadOf frame).drop i).take j = (frame.drop (14 + i)).take j := by
  rw [payloadOf, List.drop_drop, List.drop_take, List.take_take, min_eq_left (by omega)]

/-- A field of the first bytes behind a place is a field behind that place. -/
theorem take_slice (bytes : List Byte) {n i j k : Nat} (within : j + k ≤ n) :
    (((bytes.drop i).take n).drop j).take k = (bytes.drop (i + j)).take k := by
  rw [List.drop_take, List.take_take, min_eq_left (by omega), List.drop_drop]

theorem beNat_byteAt {bytes : List Byte} {i : Nat} {b : Byte} (byteAt : bytes[i]? = some b) :
    beNat ((bytes.drop i).take 1) = b.toNat := by
  rw [List.take_one, List.head?_drop, byteAt]
  exact beNat_byte b

theorem beNat_byteAt_eq_one_iff {bytes : List Byte} {i : Nat} :
    beNat ((bytes.drop i).take 1) = 1 ↔ bytes[i]? = some 0x01#8 := by
  cases byteAt : bytes[i]? with
  | none =>
    rw [List.take_one, List.head?_drop, byteAt]
    exact iff_of_false (by decide) (by simp)
  | some b =>
    rw [beNat_byteAt byteAt, Option.some.injEq, ← BitVec.toNat_inj]
    rfl

/-! ### The rows of R183 -/

section
variable {frame : List Byte}

theorem sortFrame_faulty (faulty : frame.length < 64 ∨ 9018 < frame.length
    ∨ frame.drop (frame.length - 4) ≠ frameCheck (frame.take (frame.length - 4))) : sortFrame frame = .receiveError := by
  refine if_pos (faulty.imp_right (Or.imp_left fun long => ?_))
  rw [← payloadOf, payloadOf_length]
  omega

variable (low : 64 ≤ frame.length) (high : frame.length ≤ 9018)
  (closed : frame.drop (frame.length - 4) = frameCheck (frame.take (frame.length - 4)))
include low high closed

/-- A frame of an allowed length with a good check goes to its type. -/
theorem sortFrame_sound : sortFrame frame =
    if beNat ((frame.drop 12).take 2) ≠ 0x88B6 then .foreign
    else sortPayload (BitVec.ofNat 48 (beNat ((frame.drop 6).take 6))) (payloadOf frame) := by
  refine if_neg ?_
  rintro (short | long | unclosed)
  · exact low.not_gt short
  · rw [← payloadOf, payloadOf_length] at long
    omega
  · exact unclosed closed

theorem sortFrame_foreign (other : beNat ((frame.drop 12).take 2) ≠ 0x88B6) : sortFrame frame = .foreign := by
  rw [sortFrame_sound low high closed, if_pos other]

theorem sortFrame_own (own : beNat ((frame.drop 12).take 2) = 0x88B6) :
    sortFrame frame = sortPayload (BitVec.ofNat 48 (beNat ((frame.drop 6).take 6))) (payloadOf frame) := by
  rw [sortFrame_sound low high closed, if_neg (not_not.2 own)]

omit high closed

/-- The length of the record's body, in the payload and in the frame (R202). -/
theorem payloadOf_count : ((payloadOf frame).drop 3).take 2 = (frame.drop 17).take 2 := payloadOf_slice (by omega)

/-- When a payload holds no command (R183), by the record kind and the body length B in the frame. -/
theorem sortPayload_refuses_iff :
    ((payloadOf frame).length < 5 ∨ beNat (((payloadOf frame).drop 3).take 2) < 3
        ∨ ((payloadOf frame).drop 5).length < beNat (((payloadOf frame).drop 3).take 2)
        ∨ beNat ((payloadOf frame).take 1) ≠ 1)
      ↔ frame[14]? ≠ some 0x01#8 ∨ beNat ((frame.drop 17).take 2) < 3
        ∨ frame.length < 23 + beNat ((frame.drop 17).take 2) := by
  have kind : (payloadOf frame).take 1 = (frame.drop 14).take 1 := payloadOf_slice (i := 0) (by omega)
  have whole : ¬ frame.length - 18 < 5 := by omega
  have beyond (b : Nat) : frame.length - 18 - 5 < b ↔ frame.length < 23 + b := by omega
  rw [kind, Ne, beNat_byteAt_eq_one_iff, payloadOf_count low, List.length_drop, payloadOf_length, beyond,
    or_iff_right whole, ← or_assoc, or_comm]

include high closed
variable (own : beNat ((frame.drop 12).take 2) = 0x88B6)
include own

theorem sortFrame_noCommand (refused : frame[14]? ≠ some 0x01#8 ∨ beNat ((frame.drop 17).take 2) < 3
    ∨ frame.length < 23 + beNat ((frame.drop 17).take 2)) : sortFrame frame = .receiveError :=
  (sortFrame_own low high closed own).trans (if_pos ((sortPayload_refuses_iff low).2 refused))

theorem sortFrame_isCommand {c : Command} (kind : frame[14]? = some 0x01#8)
    (least : 3 ≤ beNat ((frame.drop 17).take 2)) (fits : 23 + beNat ((frame.drop 17).take 2) ≤ frame.length)
    (source : c.source.toNat = beNat ((frame.drop 6).take 6)) (tag : c.tag.toNat = beNat ((frame.drop 19).take 2))
    (code : frame[21]? = some c.code)
    (params : c.params = (frame.drop 22).take (beNat ((frame.drop 17).take 2) - 3)) :
    sortFrame frame = .command c := by
  have taken : ¬ (frame[14]? ≠ some 0x01#8 ∨ beNat ((frame.drop 17).take 2) < 3
      ∨ frame.length < 23 + beNat ((frame.drop 17).take 2)) := by
    push Not
    exact ⟨kind, least, fits⟩
  refine (sortFrame_own low high closed own).trans ((if_neg ((sortPayload_refuses_iff low).not.2 taken)).trans ?_)
  have tagAt : ((frame.drop 19).take (beNat ((frame.drop 17).take 2))).take 2 = (frame.drop 19).take 2 :=
    take_slice frame (j := 0) (by omega)
  have paramsAt : ((frame.drop 19).take (beNat ((frame.drop 17).take 2))).drop 3 = c.params := by
    rw [List.drop_take, List.drop_drop, params]
  rw [payloadOf_count low, payloadOf_slice (by omega), tagAt, take_slice frame (by omega), paramsAt, ← source, ← tag,
    beNat_byteAt code]
  simp only [BitVec.ofNat_toNat, BitVec.setWidth_eq]

end

/-! ### The command queue (R182 to R184) -/

section
variable {s : State} {frame : List Byte}

theorem frameArrives_discarded {fresh : Bool} (late : s.uplink.up = false ∨ fresh = false) :
    frameArrives fresh frame s = s := by
  refine if_neg ?_
  rintro ⟨up, began⟩
  rcases late with down | stale
  · exact Bool.false_ne_true (down.symm.trans up)
  · exact Bool.false_ne_true (stale.symm.trans began)

theorem frameArrives_sorted (up : s.uplink.up = true) {f : ReceivedFrame} (sorted : sortFrame frame = f) :
    frameArrives true frame s = s.modUplink (Uplink.takeFrame f) := by
  rw [← sorted]
  exact if_pos ⟨up, rfl⟩

variable {u : Uplink}

theorem takeFrame_command_room (c : Command) (room : u.commands.length < 4) :
    u.takeFrame (.command c) = { u with commands := u.commands ++ [c] } := if_pos room

theorem takeFrame_command_full (c : Command) (full : 4 ≤ u.commands.length) :
    u.takeFrame (.command c) = { u with commandsLost := bump u.commandsLost } := if_neg full.not_gt

end

end Sys2Proof.Machine

namespace Sys2Proof.Settled

open Sys2Proof.Machine

/-- Settles O40: the rows of R183 by the bytes of the frame, and the queue a command joins while it has room. -/
theorem frameReceived : Obligations.FrameReceived := by
  intro s now after frame bytes moment awake
  have arrives (fresh : Bool) : exec (.frameReceived after fresh frame) s = .next (frameArrives fresh frame now) :=
    timed_at moment awake (frameArrives fresh frame)
  refine ⟨fun fresh late => by rw [arrives, frameArrives_discarded late], fun up covered => ?_⟩
  subst covered
  have sorted {f : ReceivedFrame} (is : sortFrame frame = f) :
      exec (.frameReceived after true frame) s = .next (now.modUplink (Uplink.takeFrame f)) := by
    rw [arrives, frameArrives_sorted up is]
  refine ⟨fun faulty => sorted (sortFrame_faulty faulty), fun low high closed =>
    ⟨fun other => sorted (sortFrame_foreign low high closed other), fun own =>
    ⟨fun refused => sorted (sortFrame_noCommand low high closed own refused),
      fun c kind least fits source tag code params => ?_⟩⟩⟩
  have command := sorted (sortFrame_isCommand low high closed own kind least fits source tag code params)
  refine ⟨fun room => ?_, fun full => ?_⟩
  · rw [command, State.modUplink, takeFrame_command_room c room]
  · rw [command, State.modUplink, takeFrame_command_full c full]

end Sys2Proof.Settled
end

section
/-! SUPPORT. Commands that wait (R185, R187; log entry 4): when a row of the interpreter has no effect, and a code that names
no command. -/

namespace Sys2Proof.Machine

variable {s : State}

/-! ### The next command (R185) -/

/-- The interpreter waits: HALTED, with a full reply queue, or with no command in its queue. -/
theorem nextCommand_waits {u : Uplink} (waiting : u.halted = true ∨ 4 ≤ u.replies.length ∨ u.commands = []) :
    nextCommand u = none := by
  unfold nextCommand
  split
  · next turn =>
    obtain ⟨running, room⟩ := turn
    rcases waiting with halted | full | empty
    · exact absurd (running.symm.trans halted) Bool.false_ne_true
    · exact absurd room full.not_gt
    · rw [empty]
      rfl
  · rfl

/-- The command the interpreter executes next stands at the head of its queue. -/
theorem head_of_nextCommand {u : Uplink} {c : Command} (next : nextCommand u = some c) : u.commands.head? = some c := by
  unfold nextCommand at next
  split at next
  · exact next
  · cases next

/-- The command the interpreter executes next is none of a row's. -/
def NextIsNot (mine : Command → Bool) (s : State) : Prop := ∀ c, nextCommand s.uplink = some c → mine c = false

theorem NextIsNot.of_waits (mine : Command → Bool)
    (waiting : s.uplink.halted = true ∨ 4 ≤ s.uplink.replies.length ∨ s.uplink.commands = []) : NextIsNot mine s :=
  fun _ next => nomatch (nextCommand_waits waiting).symm.trans next

theorem NextIsNot.of_head {mine : Command → Bool} {c : Command} {rest : List Command}
    (queue : s.uplink.commands = c :: rest) (other : mine c = false) : NextIsNot mine s := by
  intro d next
  have head := head_of_nextCommand next
  rw [queue, List.head?_cons, Option.some.injEq] at head
  rw [← head, other]

/-- A row that asks for a form besides its code is no less particular (log entry 4). -/
theorem NextIsNot.and_form {mine : Command → Bool} (other : NextIsNot mine s) (form : Command → Bool) :
    NextIsNot (fun c => mine c && form c) s := by
  intro c next
  exact (congrArg (· && form c) (other c next)).trans (Bool.false_and _)

/-! ### Rows whose command is not next (R185) -/

theorem atOnce_fixed {f : State → State} (fixed : f s = s) : atOnce f s = .next s := by
  rw [atOnce, fixed, ite_self]

theorem interpret_idle {mine : Command → Bool} (other : NextIsNot mine s) (owner : Owner) :
    interpret mine owner s = s := by
  unfold interpret
  split
  · rfl
  · next c next =>
    rw [other c next]
    rfl

theorem interpretReset_idle (other : NextIsNot (hasCode 14) s) : interpretReset s = s := by
  unfold interpretReset
  split
  · rfl
  · next c next =>
    rw [other c next]
    rfl

theorem atOnce_interpret_idle {mine : Command → Bool} (owner : Owner) (other : NextIsNot mine s) :
    atOnce (interpret mine owner) s = .next s := atOnce_fixed (interpret_idle other owner)

theorem atOnce_interpretTogether_idle {mine : Command → Bool} (owner : Owner) (other : NextIsNot mine s) :
    atOnce (interpretTogether mine owner) s = .next s :=
  atOnce_fixed (by rw [interpretTogether, interpret_idle other, together_self])

/-- The rows of the interpreter, each with the code of its command (R202; log entry 4). -/
def codedRows : List (Instr × Nat) :=
  [(.status, 1), (.tableRead, 2), (.stageLoad, 3), (.stagePatch, 4), (.commitEnable, 5), (.commitDisable, 6),
    (.commit, 7), (.trackControlEnable, 8), (.trackControlDisable, 8), (.abandon, 9), (.drainOn, 10), (.drainOff, 10),
    (.clearStats, 11), (.clearConditions, 12), (.cameraPass, 13), (.reset, 14)]

/-- A row whose code the next command does not have is idle: row by row, in the order of the codes. -/
theorem exec_codedRows_idle : ∀ x ∈ codedRows, NextIsNot (hasCode x.2) s → exec x.1 s = .next s := by
  simp only [codedRows, List.forall_mem_cons]
  exact ⟨atOnce_interpret_idle ownStatus, atOnce_interpret_idle ownTableRead,
    atOnce_interpret_idle (ownStage stageLoaded), atOnce_interpret_idle (ownStage stagePatched),
    atOnce_interpret_idle (ownLatch true), atOnce_interpret_idle (ownLatch false), atOnce_interpret_idle ownCommit,
    fun other => atOnce_interpret_idle ownEnable (other.and_form fun c => !isDisable c),
    fun other => atOnce_interpretTogether_idle ownDisable (other.and_form isDisable),
    atOnce_interpretTogether_idle ownAbandon,
    fun other => atOnce_interpretTogether_idle ownDrainOn (other.and_form fun c => !isOff c),
    fun other => atOnce_interpret_idle ownDrainOff (other.and_form isOff),
    atOnce_interpret_idle ownClearStats, atOnce_interpret_idle ownClearConditions, atOnce_interpret_idle ownCameraPass,
    fun other => atOnce_fixed (interpretReset_idle other), List.forall_mem_nil _⟩

/-! ### A code that names no command (R187) -/

theorem isUnknown_iff (c : Command) : isUnknown c = true ↔ c.code = 0 ∨ 14 < c.code.toNat := by
  rw [isUnknown, Bool.or_eq_true, beq_iff_eq, decide_eq_true_iff, ← BitVec.toNat_inj]
  rfl

theorem isUnknown_eq_false {c : Command} (low : 1 ≤ c.code.toNat) (high : c.code.toNat ≤ 14) : isUnknown c = false := by
  rw [isUnknown, Bool.or_eq_false_iff, beq_eq_false_iff_ne, decide_eq_false_iff_not]
  omega

end Sys2Proof.Machine

namespace Sys2Proof.Settled

open Sys2Proof.Machine

/-- Settles O43: a row acts only on the next command, and the row of unknown codes changes nothing but the reply. -/
theorem commandsWaitTheirTurn : Obligations.CommandsWaitTheirTurn := by
  refine ⟨fun row code s coded idle => exec_codedRows_idle _ coded ?_,
    fun s waiting => atOnce_interpret_idle ownUnknown (.of_waits isUnknown waiting),
    fun s c rest ready => ⟨fun unknown => atOnce_interpret ready ((isUnknown_iff c).2 unknown) ownUnknown,
      fun low high => atOnce_interpret_idle ownUnknown (.of_head ready.head (isUnknown_eq_false low high))⟩⟩
  rcases idle with halted | full | empty | ⟨c, rest, queue, other⟩
  · exact .of_waits _ (.inl halted)
  · exact .of_waits _ (.inr (.inl full))
  · exact .of_waits _ (.inr (.inr empty))
  · exact .of_head queue (beq_eq_false_iff_ne.2 other)

end Sys2Proof.Settled
end

section
/-! SUPPORT. The queue of waiting commands (log entry 9): the step that takes its front, and the frame of every command,
which answers a next state and leaves the queue as it is. -/

namespace Sys2Proof.Machine

/-! ### A step (log entry 1) -/

theorem step_cons {c : Instr} {rest : List Instr} {s : State} (front : s.pending = c :: rest) :
    step s = exec c { s with pending := rest } := by
  unfold step
  rw [front]

/-! ### Time, the resets and the camera links -/

@[simp] theorem pass_pending (s : State) (ns : Nat) : (s.pass ns).pending = s.pending := by
  unfold State.pass
  split <;> rfl

@[simp] theorem softReset_pending (s : State) : (softReset s).pending = s.pending := rfl

@[simp] theorem hardReset_pending (low : Bool) (s : State) : (hardReset low s).pending = s.pending := rfl

theorem shortPulse_pending (s : State) : (shortPulse s).pending = s.pending := by
  unfold shortPulse
  dsimp only
  split <;> rfl

theorem rstnFalls_pending (lowNs : Nat) (s : State) : (rstnFalls lowNs s).pending = s.pending := by
  unfold rstnFalls
  split
  · rfl
  · split
    · rfl
    · exact shortPulse_pending s

theorem rstnRises_pending (s : State) : (rstnRises s).pending = s.pending := rfl

theorem cameraUp_pending (cam : Fin 4) (heldNs : Nat) (s : State) : (cameraUp cam heldNs s).pending = s.pending := by
  unfold cameraUp
  split <;> rfl

theorem cameraDown_pending (cam : Fin 4) (inReception : Bool) (s : State) :
    (cameraDown cam inReception s).pending = s.pending := by
  unfold cameraDown
  split <;> rfl

/-! ### Lines, pulses and waits -/

theorem takePulse_pending (t : Track) (st : Station) (d : Detector) (time : Stamp) (s : State) :
    (takePulse t st d time s).pending = s.pending := by
  unfold takePulse
  split
  · rfl
  · split <;> exact (takeCrossing_keeps ..).pending

theorem expireWait_pending (t : Track) (st : Station) (s : State) : (expireWait t st s).pending = s.pending := by
  unfold expireWait
  split
  · rfl
  · split
    · exact (takeCrossing_keeps ..).pending
    · rfl

theorem acceptPulse_pending (l : Fin 8) (s : State) : (acceptPulse l s).pending = s.pending := by
  unfold acceptPulse
  split
  · rfl
  · exact takePulse_pending ..

theorem trailingEdge_pending (l : Fin 8) (s : State) : (trailingEdge l s).pending = s.pending := by
  unfold trailingEdge
  split
  · rfl
  · exact acceptPulse_pending l s

theorem lineEvent_pending (l : Fin 8) (inReset : Line → Line) {live : State → State} {s : State}
    (edge : (live s).pending = s.pending) : (lineEvent l inReset live s).pending = s.pending := by
  unfold lineEvent
  split
  · rfl
  · exact edge

/-! ### The deadlines of a track -/

theorem staleNow_pending (t : Track) (s : State) : (staleNow t s).pending = s.pending := by
  unfold staleNow
  split
  · split <;> rfl
  · rfl

theorem quietNow_pending (t : Track) (s : State) : (quietNow t s).pending = s.pending := by
  unfold quietNow
  split
  · rfl
  · split
    · exact (endPassage_keeps ..).pending
    · rfl

theorem settleNow_pending (t : Track) (s : State) : (settleNow t s).pending = s.pending := by
  unfold settleNow
  split
  · split <;> rfl
  all_goals rfl

/-! ### The uplink and the sender -/

theorem uplinkUp_pending (heldNs : Nat) (s : State) : (uplinkUp heldNs s).pending = s.pending := by
  unfold uplinkUp
  split <;> rfl

theorem frameArrives_pending (fresh : Bool) (frame : List Byte) (s : State) :
    (frameArrives fresh frame s).pending = s.pending := by
  unfold frameArrives
  split <;> rfl

theorem grantCapture_pending (s : State) : (grantCapture s).pending = s.pending := by
  unfold grantCapture
  split
  · rfl
  · split <;> rfl

theorem grantClass_pending (c : TxClass) (s : State) : (grantClass c s).pending = s.pending := by
  cases c with
  | capture => exact grantCapture_pending s
  | reply | alert | summary | note => unfold grantClass; dsimp only; split <;> rfl

theorem grantNext_pending (s : State) : (grantNext s).pending = s.pending := by
  unfold grantNext
  split
  · rfl
  · exact grantClass_pending ..

theorem grant_pending (s : State) : (grant s).pending = s.pending := by
  unfold grant
  split
  · exact grantNext_pending s
  · rfl

theorem releaseHead_pending (k : Fin 32) (s : State) : (releaseHead k s).pending = s.pending := by
  unfold releaseHead
  split
  · rfl
  · split <;> rfl

theorem senderEnd_pending (kind : TxKind) (s : State) : (senderEnd kind s).pending = s.pending := by
  unfold senderEnd
  split
  · rfl
  · cases kind with
    | header | reply | alert | summary | note => rfl
    | captureEnd => exact (senderTake_keeps _).pending
    | block rows =>
      dsimp only
      split
      · exact releaseHead_pending ..
      · rfl

theorem recordEnds_pending (kind : TxKind) (s : State) : (recordEnds kind s).pending = s.pending := by
  rcases recordEnds_cases kind s with ended | reset
  · rw [ended, senderEnd_pending]
  · rw [reset, softReset_pending, senderEnd_pending]

theorem recordEndNow_pending (s : State) : (recordEndNow s).pending = s.pending := by
  unfold recordEndNow
  split
  · rfl
  · split
    · exact recordEnds_pending ..
    · rfl

theorem cutRecord_pending (x : Option Transmission) (s : State) : (cutRecord x s).pending = s.pending := by
  cases x with
  | none => rfl
  | some x => exact senderEnd_pending ..

theorem uplinkDown_pending (inReception : Bool) (s : State) : (uplinkDown inReception s).pending = s.pending := by
  unfold uplinkDown
  dsimp only
  split
  · split <;> exact cutRecord_pending ..
  · rfl

/-! ### The interpreter (R185) -/

/-- An owner's part of a command leaves the queue of waiting commands as it is, whatever the parameters. -/
def Owner.KeepsPending (owner : Owner) : Prop := ∀ params s, (owner params s).1.pending = s.pending

theorem interpret_pending {owner : Owner} (keeps : owner.KeepsPending) (mine : Command → Bool) (s : State) :
    (interpret mine owner s).pending = s.pending := by
  unfold interpret
  split
  · rfl
  · split
    · exact keeps ..
    · rfl

theorem interpretTogether_pending {owner : Owner} (keeps : owner.KeepsPending) (mine : Command → Bool) (s : State) :
    (interpretTogether mine owner s).pending = s.pending :=
  (together_keeps ..).pending.trans (interpret_pending keeps mine s)

theorem resetIfDown_pending (s : State) : (resetIfDown s).pending = s.pending := by
  unfold resetIfDown
  split <;> rfl

theorem interpretReset_pending (s : State) : (interpretReset s).pending = s.pending := by
  unfold interpretReset
  split
  · rfl
  · split
    · exact resetIfDown_pending _
    · rfl

/-! ### The owners -/

theorem ownTableRead_keepsPending : Owner.KeepsPending ownTableRead := by
  intro params s
  unfold ownTableRead
  split <;> rfl

theorem ownStage_keepsPending (apply : TableId → List (Nat × Option TableEntry) → Images → Images) :
    (ownStage apply).KeepsPending := by
  intro params s
  unfold ownStage
  split <;> rfl

theorem commitNamed_pending (t : TableId) (s : State) : (commitNamed t s).1.pending = s.pending := by
  unfold commitNamed
  split
  · rfl
  · split
    · rfl
    · split <;> rfl

theorem ownCommit_keepsPending : Owner.KeepsPending ownCommit := by
  intro params s
  unfold ownCommit clearLatch
  split
  · rfl
  · exact commitNamed_pending ..

theorem enableTrack_pending (t : Track) (s : State) : (enableTrack t s).1.pending = s.pending := by
  unfold enableTrack
  split
  · split <;> rfl
  all_goals rfl

theorem disableTrack_pending (t : Track) (s : State) : (disableTrack t s).1.pending = s.pending := by
  unfold disableTrack
  split
  · exact (endPassage_keeps ..).pending
  all_goals rfl

theorem abandonTrack_pending (t : Track) (s : State) : (abandonTrack t s).1.pending = s.pending := by
  unfold abandonTrack
  split
  · exact (endPassage_keeps ..).pending
  all_goals rfl

theorem ownEnable_keepsPending : Owner.KeepsPending ownEnable := by
  intro params s
  unfold ownEnable
  split
  · split
    · rfl
    · split
      · exact enableTrack_pending ..
      · rfl
  · rfl

theorem ownDisable_keepsPending : Owner.KeepsPending ownDisable := by
  intro params s
  unfold ownDisable
  split
  · split
    · rfl
    · split
      · exact disableTrack_pending ..
      · rfl
  · rfl

theorem ownAbandon_keepsPending : Owner.KeepsPending ownAbandon := by
  intro params s
  unfold ownAbandon
  split
  · split
    · rfl
    · exact abandonTrack_pending ..
  · rfl

theorem setDrain_pending (value : Bool) (s : State) : (setDrain value s).pending = s.pending :=
  (senderTake_keeps _).pending

theorem ownDrainOn_keepsPending : Owner.KeepsPending ownDrainOn := by
  intro params s
  unfold ownDrainOn
  split
  · exact setDrain_pending ..
  · rfl

theorem ownDrainOff_keepsPending : Owner.KeepsPending ownDrainOff := by
  intro params s
  unfold ownDrainOff
  split
  · exact setDrain_pending ..
  · rfl

theorem ownCameraPass_keepsPending : Owner.KeepsPending ownCameraPass := by
  intro params s
  unfold ownCameraPass
  split
  · rfl
  · split
    · rfl
    · split <;> rfl

/-! ### Every command -/

/-- The outcome is a next state, with the queue of waiting commands as it stood. -/
def NextKeepsPending (s : State) (o : Outcome) : Prop := ∃ t, o = .next t ∧ t.pending = s.pending

theorem NextKeepsPending.atOnce {f : State → State} {s : State} (keeps : (f s).pending = s.pending) :
    NextKeepsPending s (atOnce f s) := by
  refine ⟨_, rfl, ?_⟩
  split
  · rfl
  · exact keeps

theorem NextKeepsPending.timed {f : State → State} (keeps : ∀ u, (f u).pending = u.pending) (after : Nat) (s : State) :
    NextKeepsPending s (timed after f s) := by
  obtain ⟨t, next, kept⟩ := NextKeepsPending.atOnce (keeps (s.pass after))
  exact ⟨t, next, kept.trans (pass_pending s after)⟩

/-- An effect without the frame of `atOnce`, after time has passed: a change of RSTN or of a line's level. -/
theorem NextKeepsPending.afterPass {f : State → State} (keeps : ∀ u, (f u).pending = u.pending) (after : Nat)
    (s : State) : NextKeepsPending s (.next (f (s.pass after))) :=
  ⟨_, rfl, (keeps _).trans (pass_pending s after)⟩

theorem NextKeepsPending.interpret {owner : Owner} (keeps : owner.KeepsPending) (mine : Command → Bool) (s : State) :
    NextKeepsPending s (Machine.atOnce (Machine.interpret mine owner) s) := .atOnce (interpret_pending keeps mine s)

theorem NextKeepsPending.interpretTogether {owner : Owner} (keeps : owner.KeepsPending) (mine : Command → Bool)
    (s : State) : NextKeepsPending s (Machine.atOnce (Machine.interpretTogether mine owner) s) :=
  .atOnce (interpretTogether_pending keeps mine s)

theorem exec_nextKeepsPending (c : Instr) (s : State) : NextKeepsPending s (exec c s) := by
  cases c with
  | powerOn => exact ⟨_, rfl, hardReset_pending ..⟩
  | rstnReset after lowNs => exact .afterPass (rstnFalls_pending lowNs) after s
  | rstnRelease after => exact .afterPass rstnRises_pending after s
  | leadingEdge after l => exact .afterPass (fun _ => lineEvent_pending l _ rfl) after s
  | trailingEdge after l => exact .afterPass (fun u => lineEvent_pending l _ (trailingEdge_pending l u)) after s
  | pulseAccepted after l => exact .timed (acceptPulse_pending l) after s
  | pairTimeout after t st => exact .timed (expireWait_pending t st) after s
  | staleExpiry after t => exact .timed (staleNow_pending t) after s
  | quietDeadline after t => exact .timed (quietNow_pending t) after s
  | settleExpiry after t => exact .timed (settleNow_pending t) after s
  | trigger after cam => exact .timed (fun u => (triggerNow_keeps cam u).pending) after s
  | rowTimeout after cam => exact .timed (fun _ => (resolveHeads_frame ..).pending) after s
  | rowFrame after cam fresh frame => exact .timed (fun u => (forwardFrame_keeps cam fresh frame u).pending) after s
  | cameraNote after cam fresh frame => exact .timed (fun u => (forwardFrame_keeps cam fresh frame u).pending) after s
  | cameraLinkUp after cam heldNs => exact .timed (cameraUp_pending cam heldNs) after s
  | cameraLinkDown after cam inReception => exact .timed (cameraDown_pending cam inReception) after s
  | passThroughSend cam => exact .atOnce (f := fun u => u.modPort cam Port.sendMessage) (State.modPort_pending ..)
  | messageSent after cam => exact .timed (fun u => State.modPort_pending u cam _) after s
  | uplinkLinkUp after heldNs => exact .timed (uplinkUp_pending heldNs) after s
  | uplinkLinkDown after inReception => exact .timed (uplinkDown_pending inReception) after s
  | frameReceived after fresh frame => exact .timed (frameArrives_pending fresh frame) after s
  | recordGrant => exact .atOnce (grant_pending s)
  | recordEnd after => exact .timed recordEndNow_pending after s
  | status => exact .interpret (fun _ _ => rfl) _ s
  | tableRead => exact .interpret ownTableRead_keepsPending _ s
  | stageLoad => exact .interpret (ownStage_keepsPending _) _ s
  | stagePatch => exact .interpret (ownStage_keepsPending _) _ s
  | commitEnable => exact .interpret (fun _ _ => rfl) _ s
  | commitDisable => exact .interpret (fun _ _ => rfl) _ s
  | commit => exact .interpret ownCommit_keepsPending _ s
  | trackControlEnable => exact .interpret ownEnable_keepsPending _ s
  | trackControlDisable => exact .interpretTogether ownDisable_keepsPending _ s
  | abandon => exact .interpretTogether ownAbandon_keepsPending _ s
  | drainOn => exact .interpretTogether ownDrainOn_keepsPending _ s
  | drainOff => exact .interpret ownDrainOff_keepsPending _ s
  | clearStats => exact .interpret (fun _ _ => rfl) _ s
  | clearConditions => exact .interpret (fun _ _ => rfl) _ s
  | cameraPass => exact .interpret ownCameraPass_keepsPending _ s
  | reset => exact .atOnce (interpretReset_pending s)
  | unknownCommand => exact .interpret (fun _ _ => rfl) _ s

end Sys2Proof.Machine

namespace Sys2Proof.Settled

open Sys2Proof.Machine

/-- Settles O1: the state with the command put in front steps to the command run with the rest, which is the state. -/
theorem stepTakesFrontCommand : Obligations.StepTakesFrontCommand := fun _ _ => step_cons rfl

/-- Settles O2: each command is an effect at its moment, and no effect touches the queue. -/
theorem commandsAnswerAndKeepTheQueue : Obligations.CommandsAnswerAndKeepTheQueue := exec_nextKeepsPending

end Sys2Proof.Settled
end
